-- ==== Sys2Proof/Word.lean ====
section
/-! DEFINITION. The word types of the machine: bytes, the 32- and 64-bit values of registers and paging entries, and the
128-bit compressed texture blocks (spec rules R9, R170). Plain synonyms, so that the library's BitVec lemmas apply. -/

namespace Sys2Proof

/-- One byte of memory or of an encoded object. -/
abbrev Byte := BitVec 8

/-- A DWord: an MMIO register, a TR-TT L1 entry, a message word (R21, R192). -/
abbrev Word := BitVec 32

/-- A QWord: a paging-structure entry, a descriptor register, an 8-byte texture block (R171, R31). -/
abbrev QWord := BitVec 64

/-- A 16-byte texture block. -/
abbrev Block := BitVec 128

end Sys2Proof
end

