-- ==== Sys2Proof/Machine/Bytes.lean ====
section
/-! DEFINITION. Bit fields, sign extension and byte order: the helpers every decoder and meaning uses.
Byte order is little-endian everywhere (R9, R130, D4). -/

namespace Sys2Proof

/-- The natural number in bits `lo .. lo+len-1` of `w` (R9: `x[hi:lo]` with `hi = lo+len-1`). -/
def field {n : Nat} (w : BitVec n) (lo len : Nat) : Nat :=
  (w.extractLsb' lo len).toNat

/-- Bit `i` of `w` as a Boolean. -/
def bit {n : Nat} (w : BitVec n) (i : Nat) : Bool := w.getLsbD i

/-- Bit `i` of `w` as 0 or 1. -/
def bitN {n : Nat} (w : BitVec n) (i : Nat) : Nat := (w.getLsbD i).toNat

/-- The two's-complement value of the low `len` bits of `v`. -/
def signExtendNat (v len : Nat) : Int :=
  let m := v % 2 ^ len
  if 2 * m < 2 ^ len then (m : Int) else (m : Int) - (2 ^ len : Nat)

/-- `clamp(x, lo, hi)` of R11. -/
def clampInt (lo hi x : Int) : Int := max lo (min hi x)

/-- Byte `k` of a value (R9). -/
def byteAt {n : Nat} (w : BitVec n) (k : Nat) : Byte := w.extractLsb' (8 * k) 8

/-- The `k` low bytes of a value, the least significant first. -/
def leBytes {n : Nat} (w : BitVec n) (k : Nat) : List Byte :=
  (List.range k).map (byteAt w)

/-- The value of a list of bytes, the first byte the least significant. -/
def ofLeBytes (n : Nat) : List Byte → BitVec n
  | [] => 0
  | b :: bs => (ofLeBytes n bs <<< 8) ||| b.setWidth n

end Sys2Proof
end

