-- ==== Sys2Proof/Syntax.lean ====
section
/-! DEFINITION. The abstract syntax: every encoded object of the opcode table as one constructor of `Instr`, with its
side-band operands as typed records. The table gives each object's own bits; what else a transaction carries (the request,
the engine, the physical address) the spec gives as abstract records (R6, R100, R196, R801). Log entry 5. -/

namespace Sys2Proof

/-- The five engines with a descriptor register set (R30, C2). -/
inductive Engine where
  | rcs | vcs0 | vcs1 | vecs | bcs
deriving DecidableEq, Repr

/-- The internal memory clients (R101), and the HDC data port (R3, R62). -/
inductive Client where
  | commandStream | vertexStream | instructionState | renderCache | samplerCache | displayOverlay | media
  | uController | coherentReadWrite | hdc
deriving DecidableEq, Repr

/-- What a request does at its target: a read, a write or a data atomic (R320, R455). -/
inductive AccessKind where
  | read | write | atomic
deriving DecidableEq, Repr

/-- One memory request (R6, R100): who asks, the graphics virtual address, what is done, how many bytes (`size + 1`, 1 to 8),
the data to store, whether it is an instruction fetch (ER), and the surface attributes a rule of the spec reads. -/
structure Access where
  eng : Engine
  client : Client
  kind : AccessKind
  ifetch : Bool
  useGgtt : Bool
  coherent : Bool
  faultable : Bool
  tileX : Bool
  gttControl : Bool
  mocs : BitVec 6
  size : BitVec 3
  va : QWord
  data : QWord
deriving DecidableEq, Repr

/-- Operands of a page-table atomic: the engine GAM acts for and the physical address of the entry (R420). -/
structure AtomicArgs where
  eng : Engine
  pa : QWord
deriving DecidableEq, Repr

/-- The other four descriptor registers, written with the Element Descriptor (R32, R33, R850). -/
structure DescArgs where
  eng : Engine
  pdp0 : QWord
  pdp1 : QWord
  pdp2 : QWord
  pdp3 : QWord
deriving DecidableEq, Repr

/-- A page fault handed to the fault machinery: the faulting request, the code and the walk level (R801). -/
structure FaultArgs where
  acc : Access
  code : BitVec 2
  level : BitVec 3
deriving DecidableEq, Repr

/-- The entry value that MI_UPDATE_GTT stores (R206). -/
structure GttUpdateArgs where
  entry : QWord
deriving DecidableEq, Repr

/-- Which HDC: its slice and its number in the slice (R196). -/
structure HdcId where
  slice : BitVec 2
  hdc : BitVec 2
deriving DecidableEq, Repr

/-- An HDC page-walk request (R196). -/
structure HdcRequest where
  valid : Bool
  src : HdcId
  vaPage : QWord
  isWrite : Bool
  tracking : Byte
  faultable : Bool
deriving DecidableEq, Repr

/-- An HDC's acknowledgement of a TLB invalidation: the same form with opcode 1 (R196). -/
structure HdcAck where
  valid : Bool
  src : HdcId
deriving DecidableEq, Repr

/-- What a page response stands for: R197 prints no field for it (log entry 67). -/
inductive ResponseKind where
  | translation | null | invalid
deriving DecidableEq, Repr

/-- A page response broadcast by GAM (R197, with the two faulting-mode bits of R466). `pa` is PA[38:12]. -/
structure GamResponse where
  valid : Bool
  dst : HdcId
  pa : Word
  isWrite : Bool
  dirty : Bool
  code : BitVec 2
  memType : BitVec 3
  tracking : Byte
  faultMode : BitVec 2
  kind : ResponseKind
deriving DecidableEq, Repr

/-- Whether the access that carries a memory type is a write (R199: WP differs). -/
structure TypeArgs where
  isWrite : Bool
deriving DecidableEq, Repr

/-- The format a texture block is read under: a signed variant, an sRGB variant (R540, R590). -/
structure FormatFlags where
  signed : Bool
  srgb : Bool
deriving DecidableEq, Repr

/-- Bits per element of a surface format (R264). -/
inductive ElemBits where
  | e8 | e16 | e32 | e64 | e128 | e24 | e48 | e96
deriving DecidableEq, Repr

/-- The number of samples (R263). -/
inductive Samples where
  | s1 | s2 | s4 | s8 | s16
deriving DecidableEq, Repr

/-- Operands of a tiling function: byte offset `u` in the row, row `v`, the pitch in bytes, the surface base (R250, R261,
R283), the element size (R264) and the sample slice (R263). -/
structure TileArgs where
  u : Word
  v : Word
  pitch : Word
  base : QWord
  elem : ElemBits
  samples : Samples
  ss : Byte
deriving DecidableEq, Repr

/-- Index of an L3 control entry (R50). -/
structure MocsIndex where
  index : BitVec 6
deriving DecidableEq, Repr

/-- Block and index of a memory-interface control entry (R52). -/
structure MocsSlot where
  block : BitVec 3
  index : BitVec 6
deriving DecidableEq, Repr

/-- The encoded objects of the machine (R170): one constructor per row of the opcode table. The machine is a transaction
machine (R6, D1): an object arrives at an interface together with the side-band operands its meaning needs. -/
inductive Instr where
  -- the page-table atomics GAM sends to GTI, opcodes C0h..CFh (R195, R420-R436)
  | atomicPageUpdate0000 (a : AtomicArgs)
  | atomicPageUpdate0001 (a : AtomicArgs)
  | atomicPageUpdate0010 (a : AtomicArgs)
  | atomicPageUpdate0011 (a : AtomicArgs)
  | atomicPageUpdate0100 (a : AtomicArgs)
  | atomicPageUpdate0101 (a : AtomicArgs)
  | atomicPageUpdate0110 (a : AtomicArgs)
  | atomicPageUpdate0111 (a : AtomicArgs)
  | atomicPageUpdate1000 (a : AtomicArgs)
  | atomicPageUpdate1001 (a : AtomicArgs)
  | atomicPageUpdate1010 (a : AtomicArgs)
  | atomicPageUpdate1011 (a : AtomicArgs)
  | atomicPageUpdate1100 (a : AtomicArgs)
  | atomicPageUpdate1101 (a : AtomicArgs)
  | atomicPageUpdate1110 (a : AtomicArgs)
  | atomicPageUpdate1111 (a : AtomicArgs)
  -- the A / AD atomics, selected by a 3-bit case number (R438-R448)
  | atomicAUpdate000 (a : AtomicArgs)
  | atomicAUpdate001 (a : AtomicArgs)
  | atomicAUpdate010 (a : AtomicArgs)
  | atomicAUpdate011 (a : AtomicArgs)
  | atomicAUpdate100 (a : AtomicArgs)
  | atomicAdUpdate101 (a : AtomicArgs)
  | atomicAdUpdate110 (a : AtomicArgs)
  | atomicAdUpdate111 (a : AtomicArgs)
  -- a memory request presented with the Element Descriptor that selects its walk mode (R300)
  | ctxLegacyGgtt (d : QWord) (a : Access)
  | ctxLegacyPpgtt32 (d : QWord) (a : Access)
  | ctxLegacyPpgtt48 (d : QWord) (a : Access)
  | ctxAdvanced (d : QWord) (a : Access)
  -- the Element Descriptor Register, written with the other four descriptor registers by the command streamer (R31, R850)
  | elementDescriptor (d : QWord) (a : DescArgs)
  -- a page fault presented with the Element Descriptor whose bits 7:6 are the Fault Model (R821)
  | faultModelHang (d : QWord) (a : FaultArgs)
  | faultModelHalt (d : QWord) (a : FaultArgs)
  | faultModelStreamSwitch (d : QWord) (a : FaultArgs)
  | faultModelReserved (d : QWord) (a : FaultArgs)
  -- IA-32e paging entries (R171-R177)
  | ia32ePml4e (e : QWord) (a : Access)
  | ia32ePdpePd (e : QWord) (a : Access)
  | ia32ePdpe1gb (e : QWord) (a : Access)
  | ia32ePdePt (e : QWord) (a : Access)
  | ia32ePde2mb (e : QWord) (a : Access)
  | ia32ePte64kb (e : QWord) (a : Access)
  | ia32ePte4kb (e : QWord) (a : Access)
  -- legacy PPGTT entries (R178-R185) and the Global GTT entry (R186)
  | legacy32Pde (e : QWord) (a : Access)
  | legacyPte64kb (e : QWord) (a : Access)
  | legacyPte4kb (e : QWord) (a : Access)
  | legacy64Pml4e (e : QWord) (a : Access)
  | legacy64PdpePd (e : QWord) (a : Access)
  | legacy64Pdpe1gb (e : QWord) (a : Access)
  | legacy64PdePt (e : QWord) (a : Access)
  | legacy64Pde2mb (e : QWord) (a : Access)
  | ggttPte (e : QWord) (a : Access)
  -- Tiled-Resources translation-table entries (R190-R192)
  | trttL3e (e : QWord) (a : Access)
  | trttL2e (e : QWord) (a : Access)
  | trttL1e (e : Word) (a : Access)
  -- the virtual-address index splits (R205) and the MI_UPDATE_GTT address form (R206)
  | vaIndex4level (v : BitVec 48)
  | vaIndexPpgtt32 (v : Word)
  | vaIndexGgtt (v : Word)
  | vaIndexTrtt (v : BitVec 48)
  | miUpdateGttAddr (v : Word) (a : GttUpdateArgs)
  -- the HDC page-walk port messages (R196, R197)
  | hdcPageRequest (a : HdcRequest)
  | hdcTlbInvResponse (a : HdcAck)
  | gamPageResponse (a : GamResponse)
  | gamTlbInvStart
  | gamTlbInvEnd
  | gamResponseOpcodeReserved
  -- the fault codes (R198, R801)
  | faultCodeNone (a : FaultArgs)
  | faultCodeNotPresentOrReserved (a : FaultArgs)
  | faultCodePrivilege (a : FaultArgs)
  | faultCodeWritePermission (a : FaultArgs)
  -- the memory-type codes (R199)
  | memtypeUc (a : TypeArgs)
  | memtypeWc (a : TypeArgs)
  | memtypeWt (a : TypeArgs)
  | memtypeWp (a : TypeArgs)
  | memtypeWb (a : TypeArgs)
  | memtypeReserved2 (a : TypeArgs)
  | memtypeReserved3 (a : TypeArgs)
  | memtypeReserved7 (a : TypeArgs)
  -- ETC1, ETC2 and EAC blocks (R541-R558)
  | etc1Individual (b : QWord) (f : FormatFlags)
  | etc1Differential (b : QWord) (f : FormatFlags)
  | etc2T (b : QWord) (f : FormatFlags)
  | etc2H (b : QWord) (f : FormatFlags)
  | etc2Planar (b : QWord) (f : FormatFlags)
  | etc2Rgb8Pta (b : QWord) (f : FormatFlags)
  | eacR11 (b : QWord) (f : FormatFlags)
  | etc2EacRgba8 (b : Block) (f : FormatFlags)
  | eacRg11 (b : Block) (f : FormatFlags)
  -- FXT1 blocks (R560-R570)
  | fxt1CcHi (b : Block) (f : FormatFlags)
  | fxt1CcChroma (b : Block) (f : FormatFlags)
  | fxt1CcAlpha (b : Block) (f : FormatFlags)
  | fxt1CcMixed (b : Block) (f : FormatFlags)
  -- DXT / BC1-BC5 blocks (R590-R602)
  | dxt1FourColour (b : QWord) (f : FormatFlags)
  | dxt1ThreeColourTransparent (b : QWord) (f : FormatFlags)
  | dxt1Rgb (b : QWord) (f : FormatFlags)
  | dxt2Dxt3ExplicitAlpha (b : Block) (f : FormatFlags)
  | dxt4Dxt5InterpolatedAlpha (b : Block) (f : FormatFlags)
  | bc4 (b : QWord) (f : FormatFlags)
  | bc5 (b : Block) (f : FormatFlags)
  -- BC6H blocks (R605-R612)
  | bc6hMode0 (b : Block) (f : FormatFlags)
  | bc6hMode1 (b : Block) (f : FormatFlags)
  | bc6hMode2 (b : Block) (f : FormatFlags)
  | bc6hMode3 (b : Block) (f : FormatFlags)
  | bc6hMode4 (b : Block) (f : FormatFlags)
  | bc6hMode5 (b : Block) (f : FormatFlags)
  | bc6hMode6 (b : Block) (f : FormatFlags)
  | bc6hMode7 (b : Block) (f : FormatFlags)
  | bc6hMode8 (b : Block) (f : FormatFlags)
  | bc6hMode9 (b : Block) (f : FormatFlags)
  | bc6hMode10 (b : Block) (f : FormatFlags)
  | bc6hMode11 (b : Block) (f : FormatFlags)
  | bc6hMode12 (b : Block) (f : FormatFlags)
  | bc6hMode13 (b : Block) (f : FormatFlags)
  | bc6hUndefined10011 (b : Block) (f : FormatFlags)
  | bc6hUndefined10111 (b : Block) (f : FormatFlags)
  | bc6hUndefined11011 (b : Block) (f : FormatFlags)
  | bc6hUndefined11111 (b : Block) (f : FormatFlags)
  -- BC7 blocks (R620-R632)
  | bc7Mode0 (b : Block) (f : FormatFlags)
  | bc7Mode1 (b : Block) (f : FormatFlags)
  | bc7Mode2 (b : Block) (f : FormatFlags)
  | bc7Mode3 (b : Block) (f : FormatFlags)
  | bc7Mode4 (b : Block) (f : FormatFlags)
  | bc7Mode5 (b : Block) (f : FormatFlags)
  | bc7Mode6 (b : Block) (f : FormatFlags)
  | bc7Mode7 (b : Block) (f : FormatFlags)
  | bc7Undefined (b : Block) (f : FormatFlags)
  -- ASTC blocks: void extent, reserved and valid index modes, and colour endpoint modes (R655-R690)
  | astcVoidExtent2d (b : Block)
  | astcReservedModeA (b : Block)
  | astcReservedModeB (b : Block)
  | astcModeWBp4HAp2 (b : Block)
  | astcModeWBp8HAp2 (b : Block)
  | astcModeWAp2HBp8 (b : Block)
  | astcModeWAp2HBp6 (b : Block)
  | astcModeWBp2HAp2 (b : Block)
  | astcModeW12HAp2 (b : Block)
  | astcModeWAp2H12 (b : Block)
  | astcModeW6H10 (b : Block)
  | astcModeW10H6 (b : Block)
  | astcModeWAp6HBp6 (b : Block)
  | astcCem0 (b : Block)
  | astcCem1 (b : Block)
  | astcCem2 (b : Block)
  | astcCem3 (b : Block)
  | astcCem4 (b : Block)
  | astcCem5 (b : Block)
  | astcCem6 (b : Block)
  | astcCem7 (b : Block)
  | astcCem8 (b : Block)
  | astcCem9 (b : Block)
  | astcCem10 (b : Block)
  | astcCem11 (b : Block)
  | astcCem12 (b : Block)
  | astcCem13 (b : Block)
  | astcCem14 (b : Block)
  | astcCem15 (b : Block)
  -- ASTC surface-format codes (R650)
  | astcLdr2d4x4U8srgb
  | astcLdr2d5x4U8srgb
  | astcLdr2d5x5U8srgb
  | astcLdr2d6x5U8srgb
  | astcLdr2d6x6U8srgb
  | astcLdr2d8x5U8srgb
  | astcLdr2d8x6U8srgb
  | astcLdr2d10x5U8srgb
  | astcLdr2d10x6U8srgb
  | astcLdr2d8x8U8srgb
  | astcLdr2d10x8U8srgb
  | astcLdr2d10x10U8srgb
  | astcLdr2d12x10U8srgb
  | astcLdr2d12x12U8srgb
  | astcLdr2d4x4Flt16
  | astcLdr2d5x4Flt16
  | astcLdr2d5x5Flt16
  | astcLdr2d6x5Flt16
  | astcLdr2d6x6Flt16
  | astcLdr2d8x5Flt16
  | astcLdr2d8x6Flt16
  | astcLdr2d10x5Flt16
  | astcLdr2d10x6Flt16
  | astcLdr2d8x8Flt16
  | astcLdr2d10x8Flt16
  | astcLdr2d10x10Flt16
  | astcLdr2d12x10Flt16
  | astcLdr2d12x12Flt16
  | astcFull2d4x4Flt16
  | astcFull2d5x4Flt16
  | astcFull2d5x5Flt16
  | astcFull2d6x5Flt16
  | astcFull2d6x6Flt16
  | astcFull2d8x5Flt16
  | astcFull2d8x6Flt16
  | astcFull2d10x5Flt16
  | astcFull2d10x6Flt16
  | astcFull2d8x8Flt16
  | astcFull2d10x8Flt16
  | astcFull2d10x10Flt16
  | astcFull2d12x10Flt16
  | astcFull2d12x12Flt16
  -- the tiling functions (R240-R263)
  | tileLinear (a : TileArgs)
  | tileX (a : TileArgs)
  | tileY (a : TileArgs)
  | tileW (a : TileArgs)
  | tileYf (a : TileArgs)
  | tileYs (a : TileArgs)
  -- the context messages (R34, R850)
  | msgRcsContextAvailable (w : Word)
  | msgRcsContextReceiveReady (w : Word)
  | msgRcsContextLaunched (w : Word)
  | msgRcsContextConfirmed (w : Word)
  | msgBcsContextAvailable (w : Word)
  | msgBcsContextReceiveReady (w : Word)
  | msgBcsContextLaunched (w : Word)
  | msgBcsContextConfirmed (w : Word)
  | msgVecsContextAvailable (w : Word)
  | msgVecsContextReceiveReady (w : Word)
  | msgVecsContextLaunched (w : Word)
  | msgVecsContextConfirmed (w : Word)
  | msgVcs0ContextAvailable (w : Word)
  | msgVcs0ContextReceiveReady (w : Word)
  | msgVcs0ContextLaunched (w : Word)
  | msgVcs0ContextConfirmed (w : Word)
  | msgVcs1ContextAvailable (w : Word)
  | msgVcs1ContextReceiveReady (w : Word)
  | msgVcs1ContextLaunched (w : Word)
  | msgVcs1ContextConfirmed (w : Word)
  -- the MOCS table entries (R50, R52)
  | lncfcmocsEntry (w : BitVec 16) (a : MocsIndex)
  | gamMocsEntry (w : Word) (a : MocsSlot)
deriving DecidableEq, Repr

/-- The tile modes (R240). -/
inductive TileMode where
  | linear | x | y | w | yf | ys
deriving DecidableEq, Repr

/-- The interface at which an object arrives. The bit patterns of the table overlap (every 64-bit word is a paging entry of
some level, a descriptor and a texture block): what an object is, is decided by where it arrives (R170, R187, R211). -/
inductive Port where
  | atomicPage
  | atomicA
  | ctxMode
  | elementDescriptor
  | faultModel
  | ia32ePml4
  | ia32ePdp
  | ia32ePd
  | ia32ePt64
  | ia32ePt4
  | legacy32Pd
  | legacyPt64
  | legacyPt4
  | legacyPml4
  | legacyPdp
  | legacyPd
  | ggttPte
  | trttL3
  | trttL2
  | trttL1
  | va4Level
  | vaPpgtt32
  | vaGgtt
  | vaTrtt
  | miUpdateGtt
  | hdcToGam
  | gamToHdc
  | faultCode
  | memType
  | etc1
  | etc2
  | etc2Pta
  | eacR11
  | etc2EacRgba8
  | eacRg11
  | fxt1
  | dxt1
  | dxt1Rgb
  | dxt23
  | dxt45
  | bc4
  | bc5
  | bc6h
  | bc7
  | astcMode
  | astcCem
  | astcFormat
  | tile (m : TileMode)
  | messageToGam (e : Engine)
  | messageToCs (e : Engine)
  | lncfcmocs
  | gamMocs
deriving DecidableEq, Repr

end Sys2Proof
end

