-- ==== Sys2Proof/Machine/Patterns.lean ====
section
/-! DEFINITION. The bit tests that tell the encoded objects apart: the masks and predicates of the opcode table
(R195, R300, R187, R545, R593, R606, R620, R657, R34). The decoder and the well-formedness check share them. -/

namespace Sys2Proof

/-- The fixed bits of a row: `w` agrees with `pat` on the bits of `mask`. -/
def matchesPat {n : Nat} (w : BitVec n) (mask pat : Nat) : Bool :=
  (w &&& BitVec.ofNat n mask) == BitVec.ofNat n pat

/-- The mode bits 8, 4, 3 of an Element Descriptor (R300). -/
inductive WalkMode where
  | ggtt | ppgtt32 | ppgtt48 | advanced
deriving DecidableEq, Repr

/-- `Mode(desc)` of R300. -/
def walkMode (d : QWord) : WalkMode :=
  if bit d 3 then
    if !bit d 8 then .ggtt else if !bit d 4 then .ppgtt32 else .ppgtt48
  else .advanced

/-- The modes of an 8-byte ETC2 block (R545). -/
inductive Etc2Mode where
  | individual | t | h | planar | differential
deriving DecidableEq, Repr

/-- Base plus 3-bit delta of one channel, from the differential field positions (R541, R543, R545). -/
def etcSum (b : QWord) (lo : Nat) : Int :=
  (field b (lo + 3) 5 : Int) + signExtendNat (field b lo 3) 3

/-- The sum is a 5-bit value. -/
def etcInRange (b : QWord) (lo : Nat) : Bool :=
  decide (0 ≤ etcSum b lo ∧ etcSum b lo ≤ 31)

/-- Mode determination with diff = 1 (R545; for punch-through blocks R555). -/
def etc2DiffMode (b : QWord) : Etc2Mode :=
  if !etcInRange b 0 then .t else if !etcInRange b 8 then .h
  else if !etcInRange b 16 then .planar else .differential

/-- Mode determination of ETC2_RGB8 (R545). -/
def etc2Mode (b : QWord) : Etc2Mode :=
  if bit b 25 then etc2DiffMode b else .individual

/-- The rows of the 2D index-mode table, in order (R657). -/
inductive AstcClass where
  | wBp4HAp2 | wBp8HAp2 | wAp2HBp8 | wAp2HBp6 | wBp2HAp2 | w12HAp2 | wAp2H12 | w6H10 | w10H6 | wAp6HBp6
  | voidExtent | reservedA | reservedB
deriving DecidableEq, Repr

/-- The row of R657 that `m = blk[10:0]` falls in. -/
def astcClass (m : BitVec 11) : AstcClass :=
  if field m 0 2 ≠ 0 then
    if field m 2 2 = 0 then .wBp4HAp2
    else if field m 2 2 = 1 then .wBp8HAp2
    else if field m 2 2 = 2 then .wAp2HBp8
    else if bit m 8 then .wBp2HAp2 else .wAp2HBp6
  else if field m 0 9 = 0x1FC then .voidExtent
  else if field m 6 3 = 7 then .reservedA
  else if field m 2 2 = 0 then .reservedB
  else if field m 7 2 = 0 then .w12HAp2
  else if field m 7 2 = 1 then .wAp2H12
  else if field m 7 2 = 2 then .wAp6HBp6
  else if bit m 5 then .w10H6 else .w6H10

/-- The index-mode bits of a block. -/
def astcModeBits (b : Block) : BitVec 11 := b.extractLsb' 0 11

/-- Bit `n` of a message write is written as 1: its mask bit, 16 positions higher, is 1 too (R34). -/
def messageBit (w : Word) (n : Nat) : Bool := bit w n && bit w (n + 16)

end Sys2Proof
end

