-- ==== Sys2Proof/Config.lean ====
section
/-! DEFINITION. What the spec leaves free: the constants of this file have NO body, so nothing proved about the model can
rest on their values. Log entries: 1 (free values), 2 (draws), 3 (memory-type functions), 4 (sRGB), 65 (type of unlisted
memory), 66 (sample positions). -/

namespace Sys2Proof

/-- The five memory types of R157, in the order of their MTRR encodings (R199). -/
inductive MemType where
  | uc | wc | wt | wp | wb
deriving DecidableEq, Repr, Inhabited

/-- The caches a line may be kept in outside the graphics core (R463, R470). -/
inductive CacheTarget where
  | llcOnly | llcOrEllc | ellcOnly | none
deriving DecidableEq, Repr, Inhabited

/-- FREE VALUE. The n-th value that the spec leaves open: unspecified read data (R832, R455), open register reads (I3, I4),
undefined texels (I70, I71, I73). Applied to State's counter of draws. Nothing constrains it. -/
opaque Config.freeWord : Nat → QWord

/-- FREE CHOICE. The n-th choice among alternatives that the spec leaves open: which retained translation a walk observes
(R351), whether a wedged engine's request completes (R832). Nothing constrains it. -/
opaque Config.choice : Nat → Nat

/-- FREE VALUE. What memory holds after a bus reset (R870, R880, I94): address and byte pairs. Applied to State's counter of
draws. Nothing constrains it. -/
opaque Config.freeMemory : Nat → List (Nat × Byte)

/-- OPEN. `EffType`: the effective type of an advanced-context page from PAT/PCD/PWT of its leaf entry, the MTRR type of the
physical address and CD (R464, I49). The IA-32 combining table is not in the volume. -/
opaque Config.effType : BitVec 3 → MemType → Bool → MemType

/-- OPEN. `PageTableType` through the Private PAT registers, whose format is not in the volume (R463). The arguments are the
PAT, PCD, PWT bits of the leaf entry and the four Private PAT registers. -/
opaque Config.pageTableType : BitVec 3 → BitVec 128 → MemType

/-- OPEN. `PageTableTarget` through the Private PAT registers (R463). -/
opaque Config.pageTableTarget : BitVec 3 → BitVec 128 → CacheTarget

/-- OPEN. The memory type of the n-th 4 KB page of physical memory where no listed range covers it: the spec assumes no default
(R157, R480). -/
opaque Config.mtrrDefault : Nat → MemType

/-- OPEN. The position of a sample inside the interleaved block of its pixel (R750): column and row, from log2 of the number of
samples and the sample's number. -/
opaque Config.samplePosition : Nat → Nat → Nat × Nat

/-- OPEN. `SRGB8ToLinear` (R550, D20): a function of the 8-bit value; no property is assumed. -/
opaque Config.srgb8ToLinear : Byte → QWord

end Sys2Proof
end

