-- ==== Sys2Proof/Machine/State.lean ====
section
/-! DEFINITION. The state of the machine: every piece of state the spec names (INVENTORY.md lists them with their rules),
the model's own result latches and counters, the outcomes other than a next state, and the state after reset.
Plain data throughout. -/

namespace Sys2Proof.Machine

open Sys2Proof

/-- Why a step stops with a fault. The spec's page faults, catastrophic errors and descriptor errors are NOT here: they are
events of a next state (R800). -/
inductive Fault where
  /-- Raised by every access to a physical address at or above TopOfMemory or 2^HAW, by the walker, by a client or by the
  host (I20, R110: outside the address space). Safe: the run stops. -/
  | noSuchPhysicalAddress
deriving DecidableEq, Repr

/-- Why a step is refused: the spec puts the configuration or operation outside the model's domain (treatment `refuse` of
93_implementation_defined.md), or the unit that would answer is not described by it. -/
inductive Refusal where
  /-- An arm of exec without a meaning. Raised by Dispatch only. Safe: the run stops. -/
  | notModelled (mnemonic : String)
  /-- Raised by step on bytes that are no object of their port (R210, D12), and on a request no client makes: a virtual address
  that is not canonical, a write by a read-only client (I21, R101). Safe: the run stops. -/
  | undecodable
  /-- Raised by a walk of an advanced context whose (function, PASID) the IOMMU supplies no context for: the root, context
  and PASID tables are not in the volume (R343, I44). Safe. -/
  | noIommuContext
  /-- Raised by a fault of an advanced context whose Fault Model is 11b with 0x404C[0] = 0 (R821, I8). Safe. -/
  | reservedFaultModel
  /-- Raised by a fault of an advanced context whose Fault Model is 00b with 0x404C[0] = 0 (R821, I9). Safe. -/
  | hangInAdvancedContext
  /-- Raised by a request when TRVAMV is neither 0000b nor 1111b and TR-TT is on (R44, I6). Safe. -/
  | unsupportedTrvaMask
  /-- Raised by a render request with TR-TT enabled in a PPGTT32 or GGTT context (R391, I50). Safe. -/
  | trttInvalidContext
  /-- Raised by a TR-TT walk whose table address lies in the TR-VA window (R394, I51). Safe. -/
  | trttTableInWindow
  /-- Raised by a TileX access that reaches a Null or Invalid tile (R405, I53). Safe. -/
  | nullTileOnTileX
  /-- Raised by a walk with the GTT cache enabled in an advanced context or at a 2 MB / 1 GB page (R360, I43). Safe. -/
  | gttCacheEnabled
  /-- Raised by a request whose MOCS entry has Page Faulting Mode other than 000b (R824, I61). Safe. -/
  | reservedPageFaultingMode
  /-- Raised by a MOCS entry change while requests that use the entry wait: it has no defined effect (R490, I62: refuse). Safe. -/
  | mocsChangedInFlight
  /-- Raised by the HDC response opcode 01b (R197, I58). Safe. -/
  | reservedHdcResponse
  /-- Raised by the memory-type encodings 2h, 3h, 7h (R199, I48). Safe. -/
  | reservedMemType
  /-- Raised by an MMIO access that is not an aligned 32-bit access (I2). Safe. -/
  | misalignedMmio
  /-- Raised by an MMIO offset that no rule of the volume defines (R5: other volumes' registers). Safe. -/
  | undefinedMmioRegister
  /-- Raised by a peer device's access to graphics registers (R101, I5). Safe. -/
  | peerRegisterAccess
  /-- Raised by a host address in the aperture that two enabled fences cover (R280, I25). Safe. -/
  | overlappingFences
  /-- Raised by a tiled surface whose base is not tile aligned and is not that of a level of a mip tail (R244, I23). Safe. -/
  | misalignedTileBase
  /-- Raised by TileYS / TileYF with an element size that has no swizzle row (R264, I24). Safe. -/
  | noSwizzleRow
  /-- Raised by a pitch that is not a multiple of the tile width or is above 256 KB, and by a width above the pitch (R285, I26).
  Safe. -/
  | badPitch
  /-- Raised by a surface that the host reaches through a fence as well, outside the rows of R285 for such surfaces: base, pitch,
  width or walk (R282, R285, I26). Safe. -/
  | badSharedSurface
  /-- Raised by an access of the blitter or the display to a surface in a tile mode it does not support (R286, I26, I27). Safe. -/
  | tilingNotSupportedByStream
  /-- Raised by a surface description the spec excludes: 3D in TileYS / TileYF (I29), mip-tail slots 12 to 14 with standard tiling
  (I30), tiled half-pitch planar chroma (R515, I27). Safe. -/
  | unsupportedLayout
  /-- Raised by a sample whose main tile is mapped and auxiliary tile unmapped (R291, I28). Safe. -/
  | auxiliaryUnmapped
  /-- Raised by a write of an intensity or luminance format (R502, R503, I31), and by a write or an atomic to a surface of a compressed
  format, which hardware only reads (R500). Safe. -/
  | notARenderDestination
  /-- Raised by a change of PME, EPE or PE while ATS Enable is set (R68, I11). Safe. -/
  | pasidControlWhileAts
  /-- Raised by a render request with TR-TT in use when the TR-TT bypass was disabled after render power gating had been
  enabled (R882, I54). Safe. -/
  | bypassAfterPowerGating
  /-- Raised by a configuration-space offset outside the three capability structures of R65, or an access that is not one of their
  registers (R5: other volumes' registers). Safe. -/
  | undefinedConfigRegister
deriving DecidableEq, Repr

/-- The host address widths of R7: 39 bits (client) and 46 bits (server). -/
inductive HostWidth where
  | client39 | server46
deriving DecidableEq, Repr

/-- The platform parameters of R7 and D-part 2 (each fixed by BIOS, fuses or an unnamed control). The sizes range over the sets
of R7: the aperture has 2^gmadrLog * 128 MB, GSM 2^gsmLog MB, DSM gms * 32 MB with gms at most 128 (R107). `imageTrtt` and `imageMocs` are the DWords
of a context image at which its TR-TT registers and its block of GAM_MOCS begin, whose format is in another volume (R80; log entry 73). -/
structure Params where
  width : HostWidth
  topOfMemory : Nat
  gmadrBase : Nat
  gmadrLog : Fin 6
  gttmmadrBase : Nat
  gsmBase : Nat
  gsmLog : Fin 4
  dsmBase : Nat
  gms : Fin 129
  numL3Banks : Nat
  pasidCapBase : BitVec 12
  page64k : Bool
  gttCache : Bool
  hangSkip : Bool
  iaCoherentAtomics : Bool
  trttL3PtrOffset : Nat
  trttNullOffset : Nat
  trttInvdOffset : Nat
  trvadrOffset : Nat
  trtteOffset : Nat
  mocsBlockRcs : Nat
  mocsBlockVcs0 : Nat
  mocsBlockVcs1 : Nat
  mocsBlockVecs : Nat
  mocsBlockBcs : Nat
  imageTrtt : Nat
  imageMocs : Nat
  hdcs : List HdcId
deriving DecidableEq, Repr

/-- `HAW` (R7). -/
def Params.haw (p : Params) : Nat :=
  match p.width with
  | .client39 => 39
  | .server46 => 46

/-- `GMADR_SIZE` (R7, R104): 128 MB to 4 GB. -/
def Params.gmadrSize (p : Params) : Nat := 2 ^ p.gmadrLog.val * 0x8000000

/-- `GSM_SIZE` (R7, R106): 1, 2, 4 or 8 MB. -/
def Params.gsmSize (p : Params) : Nat := 2 ^ p.gsmLog.val * 0x100000

/-- `DSM_SIZE` (R7, R107): GMS * 32 MB. -/
def Params.dsmSize (p : Params) : Nat := p.gms.val * 0x2000000

/-- The five descriptor registers of an engine (R30-R33). -/
structure DescRegs where
  desc : QWord
  pdp0 : QWord
  pdp1 : QWord
  pdp2 : QWord
  pdp3 : QWord
deriving DecidableEq, Repr

/-- EngineState (R833). -/
inductive EngineMode where
  | idle | running | halted | hung | wedged
deriving DecidableEq, Repr

/-- How far the context handshake of an engine has come (R850). -/
inductive Phase where
  | quiet | available | ready | launched
deriving DecidableEq, Repr

/-- The fault record (R801, D35). -/
structure PageFault where
  code : BitVec 2
  eng : Engine
  pasid : BitVec 20
  contextId : Word
  vaPage : BitVec 36
  isWrite : Bool
  er : Bool
  pr : Bool
  level : Nat
deriving DecidableEq, Repr

/-- Why a catastrophic error was raised (R845). -/
inductive CatastrophicCause where
  | adUpdateNonWb | atomicNonWb
deriving DecidableEq, Repr

/-- Events pending for software (R800, R810, R820, R828, R845, R852). -/
inductive Event where
  | legacyPageFault (va : QWord) (isWrite : Bool) (code : BitVec 2)
  | trttInvalidTile
  | descriptorError
  | catastrophic (cause : CatastrophicCause) (contextId : Word) (va : QWord)
  | streamFirstFault
deriving DecidableEq, Repr

/-- A colour channel's name (R501). -/
inductive ChanName where
  | r | g | b | a
deriving DecidableEq, Repr

/-- Uncompressed formats this volume defines bit by bit (R501-R523); `channels` lists the channels from the LSB up. -/
inductive PixelFormat where
  | channels (l : List (ChanName × Nat))
  | intensity (bits : Nat)
  | luminance (bits : Nat) (alphaBits : Nat)
  | r1 | mono8 | p4a4 | a4p4 | p8a8 | a8p8 | p8 | p2
  | yuyv | yvyu | uyvy | vyuy
  | d32s8 | d32 | d24s8 | d16 | stencil8
deriving DecidableEq, Repr

/-- The ASTC profile of a surface format (R651, R688). -/
inductive AstcProfile where
  | u8srgb | ldrFlt16 | fullFlt16
deriving DecidableEq, Repr

/-- The ASTC surface format in force (R651). -/
structure AstcFormat where
  width : Nat
  height : Nat
  profile : AstcProfile
deriving DecidableEq, Repr

/-- How the sampler turns the bytes of an element into texels: a pixel format, a block format with the port its blocks arrive at,
an ASTC format, the three planes of a planar surface (R513), or no texel at all (bytes as they are). -/
inductive TexelFormat where
  | raw
  | pixel (f : PixelFormat)
  | block (p : Port) (f : FormatFlags)
  | astc (f : AstcFormat)
  | planar
deriving DecidableEq, Repr

/-- What a sampler read is still to do: the pieces of the element not yet read, the bytes it has (R130), the texel inside the block
(R740), the address of the auxiliary surface's tile (R291). -/
structure TexelRead where
  how : TexelFormat
  bx : Nat
  by_ : Nat
  more : List (QWord × BitVec 3)
  got : Block
  gotBytes : Nat
  aux : Option QWord
deriving DecidableEq, Repr

/-- Who waits for the result of a translation: the client itself, an HDC at its walk port (R376), or the sampler for the bytes of a
texel (R500). -/
inductive Origin where
  | client
  | hdc (r : HdcRequest)
  | sampler (t : TexelRead)
deriving DecidableEq, Repr

/-- A request, the descriptor it is served under, for whom, whether it carries that descriptor itself (R300) or takes the one of the
context loaded when it is served, how many changes of control registers came before it (R901), and the addresses beyond its element
that its cache lines and alignment unit cover (R770-R772). -/
structure Request where
  acc : Access
  desc : QWord
  origin : Origin
  explicit : Bool
  issued : Nat
  pads : List QWord
deriving DecidableEq, Repr

/-- A request waiting for a page response (R825), with the group index of its page request (R841). -/
structure Waiting where
  req : Request
  fault : PageFault
  prg : Nat
deriving DecidableEq, Repr

/-- A page request in the queue that software sees (R825, R836). -/
structure PageRequest where
  prg : Nat
  last : Bool
  fault : PageFault
deriving DecidableEq, Repr

/-- `IommuCtx` (R320, I44): what the IOMMU supplies for a function and PASID, from its root, context and PASID tables; also the
copy of it that the Context Cache and a PASID Cache keep (R56, R57). -/
structure IommuCtx where
  fn : BitVec 3
  pasid : BitVec 20
  nxe : Bool
  smep : Bool
  wpe : Bool
  neste : Bool
  eafe : Bool
  fl64kpe : Bool
  cd : Bool
  pml4 : QWord
deriving DecidableEq, Repr

/-- A faulted entry of the TLBs with its reason (R60, R358), and the page request it stands for. -/
structure FaultedPage where
  pasid : BitVec 20
  vaPage : BitVec 36
  code : BitVec 2
  isWrite : Bool
  er : Bool
  prg : Nat
deriving DecidableEq, Repr

/-- The stages of the translation caches that an invalidation may name (R370). -/
inductive CacheStage where
  | all | final | intermediate
deriving DecidableEq, Repr

/-- An invalidation of less than everything (R370, R371, R825): values read before it (`mark` entries of history) are gone for the
PASID, the page and the stages it names. -/
structure ScopeMark where
  pasid : Option (BitVec 20)
  page : Option (BitVec 36)
  stage : CacheStage
  mark : Nat
deriving DecidableEq, Repr

/-- What the machine holds for one engine (R30-R35, R57, R60, R61, R811, R833, R850, R871). -/
structure EngineSt where
  regs : DescRegs
  ctx : Option DescRegs
  phase : Phase
  mode : EngineMode
  msgToGam : Word
  msgToCs : Word
  miss : Option Waiting
  outstanding : List Waiting
  stalled : List Request
  behind : List Request
  events : List Event
  pasidCache : Option IommuCtx
  contextBad : Bool
  invMark : Nat
  scopeMarks : List ScopeMark
  faulted : List FaultedPage
  availPending : Bool
  leaving : Bool
  mmioRequests : List PageRequest
  resetting : Bool
deriving DecidableEq, Repr

/-- The five engines (R30). -/
structure Engines where
  rcs : EngineSt
  vcs0 : EngineSt
  vcs1 : EngineSt
  vecs : EngineSt
  bcs : EngineSt
deriving DecidableEq, Repr

/-- A fence register, as the abstract record of R23. -/
structure Fence where
  enable : Bool
  base : Nat
  last : Nat
  pitch : Nat
  walkY : Bool
deriving DecidableEq, Repr

/-- The MMIO registers that are not per engine (R22, R24, R27, R40-R45, R402, R828). -/
structure Regs where
  l3Ptr : QWord
  nullTile : Word
  invalidTile : Word
  trvadr : Word
  trtte : Word
  r4dfc : Word
  r404c : Word
  r4a30 : Word
  adNonWb : Word
  idicr : Word
  fbcdr : Word
  pat0 : Word
  pat1 : Word
  pat2 : Word
  pat3 : Word
  maxReqCounts : List Word
  fences : List Fence
  nullTileCount : Nat
  faultCount : Nat
  mchbarAlias : Bool
  powerGating : Bool
  lateBypass : Bool
  lncf : List (BitVec 16)
  gamMocs : List Word
deriving DecidableEq, Repr

/-- The control registers that decide how a request is served (R901, I95): those of TR-TT, the fault-mode override, the A/D option,
the Private PAT. The MOCS tables are not among them: a change of an entry in use is refused (R490). -/
structure ControlRegs where
  l3Ptr : QWord
  nullTile : Word
  invalidTile : Word
  trvadr : Word
  trtte : Word
  r4dfc : Word
  r404c : Word
  adNonWb : Word
  pat0 : Word
  pat1 : Word
  pat2 : Word
  pat3 : Word
  lateBypass : Bool
deriving DecidableEq, Repr

/-- The PCI extended capability registers of Device 2 (R65-R75). -/
structure PciCaps where
  pasidNco : BitVec 12
  pasidControl : BitVec 16
  atsNco : BitVec 12
  atsControl : BitVec 16
  priControl : BitVec 16
  priStatus : BitVec 16
  priCapacity : Word
  priAllocation : Word
deriving DecidableEq, Repr

/-- A PASID-state counter (R35, R871). -/
structure PasidCount where
  pasid : BitVec 20
  count : Int
deriving DecidableEq, Repr

/-- A physical range with its memory type (MTRR), the last matching range of the list winning (R157, R480; log entry 65). -/
structure MemRange where
  base : Nat
  size : Nat
  ty : MemType
deriving DecidableEq, Repr

/-- How far an access is coherent with the processor (R31, R154): not at all, at LLC (what the GPU's own caches hold is not), or
in the GPU's caches too. -/
inductive Coherency where
  | none | atLlc | full
deriving DecidableEq, Repr

/-- Who wrote memory, as far as ordering and coherency ask (R150, R154, R155, R475): the GPU or the processor side, the blitter, a
line cached write-back in LLC, how far the access is coherent with the processor, and which client of which engine. -/
structure Writer where
  gpu : Bool
  blt : Bool
  writeBack : Bool
  coherency : Coherency
  client : Option (Engine × Client)
deriving DecidableEq, Repr

/-- A value that memory held before a write: the QWord index, the value, which of its bytes were overwritten, and by whom. The history
is what a retained translation or a stale cached line may still show (R351, R154, R891). -/
structure OldValue where
  qaddr : Nat
  value : QWord
  bytes : BitVec 8
  writer : Writer
deriving DecidableEq, Repr

/-- The accumulated rights of a walk: AND of R/W, AND of U/S, OR of XD (R320). -/
structure Rights where
  rw : Bool
  us : Bool
  xd : Bool
deriving DecidableEq, Repr

/-- A finished translation (R344). -/
structure Translation where
  pa : Nat
  pageBits : Nat
  rights : Rights
  dirty : Bool
  typeBits : BitVec 3
deriving DecidableEq, Repr

/-- How a single entry leaves a walk (R311, R344). -/
inductive WalkEnd where
  | none
  | next (level base : Nat) (ips : Bool)
  | translated (t : Translation)
  | nullPage
  | fault (code : BitVec 2) (level : Nat)
  | nonWb
deriving DecidableEq, Repr

/-- The walk that the single-entry objects drive: accumulated rights, whether the parent selected 64 KB pages, and how the
last entry left the walk. -/
structure WalkLatch where
  rights : Rights
  ips : Bool
  result : WalkEnd
deriving DecidableEq, Repr

/-- How a TR-TT entry leaves the TR-TT walk (R400). -/
inductive TrEnd where
  | none
  | next (base : Nat)
  | nullTile
  | invalidTile
  | newVa (va : QWord)
deriving DecidableEq, Repr

/-- The index fields of a virtual address (R205). -/
structure VaIndices where
  pml4 : Nat
  pdp : Nat
  pd : Nat
  pt : Nat
  pt64 : Nat
  offset : Nat
deriving DecidableEq, Repr

/-- How the last request ended (R800, R807, R808, R832). -/
inductive Status where
  | none | done | nullPage | nullTile | invalidTile | invalidAccess | faulted | waiting | never | dropped | clear
deriving DecidableEq, Repr

/-- The completion the client of the last request sees (R830): data, null indicator, fault code, physical address, type, and the
faulting mode of R466. -/
structure Completion where
  status : Status
  data : QWord
  nullIndicator : Bool
  code : BitVec 2
  pa : Nat
  memType : MemType
  faultMode : BitVec 2
deriving DecidableEq, Repr

/-- The last memory type and the HDC-to-L3 control bits [3:2] for it (R199, R465). -/
structure TypeLatch where
  ty : MemType
  l3Control : BitVec 2
deriving DecidableEq, Repr

/-- L3 cacheability of a line (R462, R465, R471): `byControl` is what the two HDC-to-L3 control bits say, `reserved` the value 00b
for a client that is no EU access, `ucOrWb` the reserved value 10b (I60). -/
inductive L3Cacheability where
  | uncacheable | writeBack | byControl (bits : BitVec 2) | reserved | ucOrWb
deriving DecidableEq, Repr

/-- The outcome of a MOCS lookup (R461-R471). -/
structure CacheControls where
  l3 : L3Cacheability
  ty : MemType
  target : CacheTarget
  snoop : Bool
  fenced : Bool
deriving DecidableEq, Repr

/-- The outcome of a tiling or layout function (R261, R283): the offset, the graphics virtual address, and the texel inside the
block for compressed formats (R740). -/
structure TileResult where
  offset : Nat
  gva : QWord
  inBlockX : Nat
  inBlockY : Nat
deriving DecidableEq, Repr

/-- The corner and the aligned size of a level of a surface, in texels (R741, R742, R762, R764). -/
structure LodOrigin where
  x : Nat
  y : Nat
  z : Nat
  width : Nat
  height : Nat
  depth : Nat
deriving DecidableEq, Repr

/-- The rows of the chroma planes, from the start of the Y plane (R514). -/
structure PlanarOffsets where
  u : Nat
  v : Nat
deriving DecidableEq, Repr

/-- A channel of a decoded texel: `unorm v max` is v/max, `snorm v max` is v/max, `half` an FP16 pattern, `raw` a field of
`bits` bits (0: no such field) whose number format another volume gives, `srgb` an sRGB value with its linear value, `free` an open value. -/
inductive Chan where
  | unorm (v max : Nat)
  | snorm (v : Int) (max : Nat)
  | half (w : BitVec 16)
  | raw (v bits : Nat)
  | srgb (v : Nat) (linear : QWord)
  | free (v : QWord)
deriving DecidableEq, Repr

/-- One texel. -/
structure Texel where
  r : Chan
  g : Chan
  b : Chan
  a : Chan
deriving DecidableEq, Repr

/-- A decoded block: its footprint and its texels, row after row. -/
structure TexelBlock where
  width : Nat
  height : Nat
  texels : List Texel
deriving DecidableEq, Repr

/-- A translation held by the mini-TLB of an HDC (R62, R376). -/
structure MiniTlbEntry where
  src : HdcId
  vaPage : QWord
  pa : Word
  isWrite : Bool
  memType : BitVec 3
deriving DecidableEq, Repr

/-- The HDC page-walk port (R62, R375, R376): requests waiting for their response (each holds one of the HDC's two credits),
the two sides of the invalidation protocol, the acknowledgements, the requests dropped meanwhile. -/
structure HdcPort where
  pending : List HdcRequest
  serviceOff : Bool
  quiesced : Bool
  acks : List HdcId
  droppedReqs : List HdcRequest
  miniTlb : List MiniTlbEntry
deriving DecidableEq, Repr

/-- Names for the registers whose MMIO offset is not in the volume (R22, R23, R27, R828). -/
inductive NamedReg where
  | adNonWb | idicr | fbcdr | nullTileCount | faultCount
  | maxReqCount (i : Nat)
deriving DecidableEq, Repr

/-- The PCI capability registers (R66-R75). -/
inductive PciReg where
  | pasidHeader | pasidCapability | pasidControl | atsHeader | atsCapability | atsControl
  | priHeader | priControl | priStatus | priCapacity | priAllocation
deriving DecidableEq, Repr

/-- Answers of software to a page request (R825, R841). -/
inductive ResponseCode where
  | success | unsuccessful | responseFailure
deriving DecidableEq, Repr

/-- Kinds of surface (R732-R762). -/
inductive SurfaceKind where
  | typedBuffer | rawBuffer | structuredBuffer | s1d | s2d | s3d | ccs3d
deriving DecidableEq, Repr

/-- What the alignment parameters of a 2D surface come from (R747). -/
inductive AlignSource where
  | given | depthD16 | depthOther | stencil | bcEtcEac | fxt1 | astc
deriving DecidableEq, Repr

/-- Multisample storage of a surface (R750-R757). -/
inductive MsFormat where
  | none | ims | mss
deriving DecidableEq, Repr

/-- The Auxiliary Surface Mode of a surface (R751, R757, R290). -/
inductive AuxMode where
  | none | ccs | mcs | hiz
deriving DecidableEq, Repr

/-- Whether the host reaches the surface through a fence as well (R282, R285), and whether under the same GTT mapping. -/
inductive Sharing where
  | clientOnly
  | sameMapping (fence : Nat)
  | remapped (fence : Nat)
deriving DecidableEq, Repr

/-- The planes of a planar surface (R513-R515): half- or full-pitch chroma, chroma subsampled by 2 (4:2:0) or by 4 (4:1:0) in each
direction, which plane comes first, the height of the V plane, the row that the field "Y Offset for U or UV Plane" gives the first
chroma plane, if it is programmed, independent addresses of the U and V planes. -/
structure Planar where
  halfPitch : Bool
  quarter : Bool
  uBelowY : Bool
  vHeight : Nat
  yOffset : Option Nat
  separate : Option (QWord × QWord)
deriving DecidableEq, Repr

/-- A plane of a planar surface. -/
inductive Plane where
  | y | u | v
deriving DecidableEq, Repr

/-- A surface description (49_surface_layout.md): the named fields of the surface state, its clear value (R752) among them. -/
structure Surface where
  kind : SurfaceKind
  tile : TileMode
  base : QWord
  width : Nat
  height : Nat
  depth : Nat
  elemBits : ElemBits
  blockW : Nat
  blockH : Nat
  pitch : Nat
  qpitch : Nat
  alignH : Nat
  alignV : Nat
  alignFrom : AlignSource
  mipCount : Nat
  mipTailStart : Nat
  xOffset : Nat
  yOffset : Nat
  samples : Samples
  msFormat : MsFormat
  quiltW : Nat
  quiltH : Nat
  cube : Bool
  aux : AuxMode
  clear : Texel
  shared : Sharing
  planar : Option Planar
deriving DecidableEq, Repr

/-- Coordinates in a surface: texel, array index (or depth), level, sample slice (or sample), cube face, quilt square, plane. -/
structure Coord where
  u : Nat
  v : Nat
  r : Nat
  lod : Nat
  ss : Nat
  face : Nat
  qx : Nat
  qy : Nat
  plane : Plane
deriving DecidableEq, Repr

/-- What a flush writes back (R154, R475, R890): the GPU's own caches, the processor's, LLC. -/
inductive FlushTarget where
  | gpu | cpu | llc
deriving DecidableEq, Repr

/-- The transactions of the machine that are not encoded objects of the opcode table (D1, R5, R40): memory requests of
engines, surface accesses and texel reads, host and command-streamer accesses, page responses, invalidations, resets, and the
pure functions of the volume. -/
inductive Op where
  | request (r : Access)
  | surface (r : Access) (f : Surface) (c : Coord) (high : Bool)
  | writePixel (r : Access) (f : Surface) (c : Coord) (how : PixelFormat) (red green blue alpha : Word)
  | sample (r : Access) (f : Surface) (c : Coord) (how : TexelFormat) (aux : Option QWord)
  | texelReturn (r : Request)
  | pickTexel (bx by_ : Nat)
  | resume (r : Request)
  | rewalk (r : Request)
  | hostAccess (write : Bool) (addr : Nat) (size : Nat) (data : QWord)
  | peerAccess (write : Bool) (addr : Nat) (size : Nat) (data : QWord)
  | mmioRead (off : Nat)
  | mmioWrite (off : Nat) (data : Word)
  | csMmioRead (e : Engine) (off : Nat)
  | csMmioWrite (e : Engine) (off : Nat) (data : Word)
  | namedRead (r : NamedReg)
  | namedWrite (r : NamedReg) (data : Word)
  | setFence (i : Nat) (f : Fence)
  | memWrite (pa : Nat) (size : Nat) (data : QWord)
  | pciRead (r : PciReg)
  | pciWrite (r : PciReg) (data : Word)
  | configRead (off : BitVec 12) (size : Nat)
  | configWrite (off : BitVec 12) (size : Nat) (data : Word)
  | setIommu (c : List IommuCtx)
  | setMemRanges (m : List MemRange)
  | setPalette (i : Nat) (data : Word)
  | setMchbarAlias (on : Bool)
  | enablePowerGating
  | pageResponse (prg : Nat) (code : ResponseCode)
  | lastResponse (e : Engine) (contextId : Word)
  | switchOut (e : Engine)
  | terminate (contextId : Word)
  | invalidateEngine (e : Engine)
  | invalidateAll
  | invalidatePasid (p : BitVec 20)
  | invalidateScope (p : BitVec 20) (page : Option (BitVec 36)) (stage : CacheStage)
  | invalidateTexture
  | invalidateInstruction
  | invalidationWait
  | flush (t : FlushTarget)
  | holdPageRequest (prg : Nat)
  | servicePageRequest (prg : Nat)
  | engineReset (e : Engine)
  | flr
  | busReset
  | mocsLookup (e : Engine) (index : BitVec 6) (addr : Nat) (typeBits : BitVec 3) (coherent hdc isWrite : Bool)
  | layout (s : Surface) (c : Coord)
  | lodOrigin (s : Surface) (lod : Nat)
  | auxSample (r : Access) (aux : QWord)
  | mcsLayout (f : Surface) (c : Coord)
  | mcsSample (f : Surface) (mcs : QWord) (sample : Nat)
  | planarOffsets (halfPitch : Bool) (uBelowY : Bool) (yHeight vHeight : Nat)
  | decodePixel (f : PixelFormat) (bits : Block)
  | encodePixel (f : PixelFormat) (r g b a : Word)
deriving DecidableEq, Repr

/-- What the environment or the machine itself presents next: an encoded object at a port, a message that one unit of the
machine sends another, or a transaction of another kind. -/
inductive Input where
  | object (p : Port) (bytes : List Byte)
  | message (i : Instr)
  | op (o : Op)
deriving DecidableEq, Repr

/-- A context whose LAST marker waits for its response, by engine (R836). -/
structure LastMark where
  eng : Engine
  contextId : Word
deriving DecidableEq, Repr

/-- The whole machine. -/
structure State where
  params : Params
  mem : List Host.Cell
  history : List OldValue
  texMark : Nat
  icMark : Nat
  gpuMark : Nat
  cpuMark : Nat
  llcMark : Nat
  waitMark : Nat
  engines : Engines
  regs : Regs
  priorRegs : List ControlRegs
  pci : PciCaps
  iommu : List IommuCtx
  contextCache : List IommuCtx
  pasidCounts : List PasidCount
  memRanges : List MemRange
  pageRequests : List PageRequest
  nextPrg : Nat
  detached : List Nat
  lastQueued : List LastMark
  flrPending : Bool
  notifications : List Word
  hdc : HdcPort
  palette : List Word
  walk : WalkLatch
  trWalk : TrEnd
  indices : VaIndices
  ggttOffset : Nat
  atomicReturn : QWord
  completion : Completion
  memType : TypeLatch
  cache : CacheControls
  tile : TileResult
  lodOrigin : LodOrigin
  planar : PlanarOffsets
  pixel : Block
  texels : TexelBlock
  texel : Texel
  astcFormat : AstcFormat
  draws : Nat
  inputs : List Input
deriving DecidableEq, Repr

/-- A descriptor register set of zeros: "Xh" in the source (R31-R33). DESIGN CHOICE, log entry 7. -/
def DescRegs.zero : DescRegs := ⟨0, 0, 0, 0, 0⟩

/-- An engine after reset (R873): idle, no context, nothing in flight. -/
def EngineSt.reset : EngineSt where
  regs := DescRegs.zero
  ctx := none
  phase := .quiet
  mode := .idle
  msgToGam := 0
  msgToCs := 0
  miss := none
  outstanding := []
  stalled := []
  behind := []
  events := []
  pasidCache := none
  contextBad := false
  invMark := 0
  scopeMarks := []
  faulted := []
  availPending := false
  leaving := false
  mmioRequests := []
  resetting := false

/-- The five engines after reset. -/
def Engines.reset : Engines :=
  ⟨EngineSt.reset, EngineSt.reset, EngineSt.reset, EngineSt.reset, EngineSt.reset⟩

/-- The platform parameters of the reset state. The spec gives sets or nothing; DESIGN CHOICE, log entry 8. -/
def Params.reset : Params where
  width := .client39
  topOfMemory := 2 ^ 39
  gmadrBase := 2 ^ 40
  gmadrLog := 1
  gttmmadrBase := 2 ^ 41
  gsmBase := 0x7F800000
  gsmLog := 3
  dsmBase := 0x7B800000
  gms := 2
  numL3Banks := 1
  pasidCapBase := 0x100
  page64k := false
  gttCache := false
  hangSkip := false
  iaCoherentAtomics := false
  trttL3PtrOffset := 0x4DE0
  trttNullOffset := 0x4DE8
  trttInvdOffset := 0x4DEC
  trvadrOffset := 0x4DF0
  trtteOffset := 0x4DF4
  mocsBlockRcs := 0
  mocsBlockVcs0 := 1
  mocsBlockVcs1 := 2
  mocsBlockVecs := 3
  mocsBlockBcs := 4
  imageTrtt := 0x400
  imageMocs := 0x408
  hdcs := [⟨0, 0⟩, ⟨0, 1⟩, ⟨0, 2⟩]

/-- One period of the default L3 control table (R51). -/
def lncfPeriod : List (BitVec 16) :=
  [0x0000, 0x0010, 0x0013, 0x0017, 0x001F, 0x0020, 0x0013, 0x0017,
   0x001F, 0x0030, 0x0013, 0x0017, 0x001F, 0x0000, 0x0000, 0x0000]

/-- One period of the default memory-interface control table (R53): bits 13:0. The default of bits 31:14 is unspecified (R53, R85);
0 here (DESIGN CHOICE, log entry 9). -/
def gamMocsPeriod : List Word :=
  [0x30, 0x34, 0x38, 0x31, 0x32, 0x36, 0x3A, 0x33, 0x37, 0x3B, 0x32, 0x36, 0x3A, 0x33, 0x37, 0x3B]

/-- The default block of one engine: bits 13:0 of entries 0 to 31 from R53; their bits 31:14, and entries 32 to 63, have no printed
default (R53, R85; DESIGN CHOICE 0, log entry 9). -/
def gamMocsBlock : List Word := gamMocsPeriod ++ gamMocsPeriod ++ List.replicate 32 0

/-- A disabled fence (R23; DESIGN CHOICE, log entry 7). -/
def Fence.off : Fence := ⟨false, 0, 0, 0, false⟩

/-- The registers after reset (R85, R873). That render power gating is off and no late bypass is remembered, here and after a device
reset, is a DESIGN CHOICE (log entry 80): R882 names the gating and no rule gives it a reset value. So is each bit of 404Ch, 4A30h and of the
A/D option register that R27 leaves without a default, bit 0 of the last among them (log entry 45). -/
def Regs.reset : Regs where
  l3Ptr := 0
  nullTile := 0
  invalidTile := 0
  trvadr := 0
  trtte := 0
  r4dfc := 0
  r404c := 0
  r4a30 := 0
  adNonWb := 0
  idicr := 0
  fbcdr := 0
  pat0 := 0
  pat1 := 0
  pat2 := 0
  pat3 := 0
  maxReqCounts := List.replicate 16 0
  fences := List.replicate 16 Fence.off
  nullTileCount := 0
  faultCount := 0
  mchbarAlias := true
  powerGating := false
  lateBypass := false
  lncf := lncfPeriod ++ lncfPeriod ++ lncfPeriod ++ lncfPeriod
  gamMocs := gamMocsBlock ++ gamMocsBlock ++ gamMocsBlock ++ gamMocsBlock
    ++ gamMocsBlock ++ gamMocsBlock ++ gamMocsBlock ++ gamMocsBlock

/-- The PCI capability registers after reset (R66-R75); the offsets of the chain are the platform's (log entry 68). -/
def PciCaps.reset : PciCaps := ⟨0x200, 0, 0x300, 0, 0, 0, 0, 0⟩

/-- No rights lost yet (R320). -/
def Rights.all : Rights := ⟨true, true, false⟩

/-- No walk in progress. -/
def WalkLatch.reset : WalkLatch := ⟨Rights.all, false, .none⟩

/-- No request completed yet. -/
def Completion.reset : Completion := ⟨.none, 0, false, 0, 0, .wb, 0⟩

/-- The HDC port after reset. -/
def HdcPort.reset : HdcPort := ⟨[], false, false, [], [], []⟩

/-- The machine right after reset (R873): every engine idle, no context loaded, no request in flight, the registers at their
defaults, memory with nothing listed, no input presented. -/
def State.reset : State where
  params := Params.reset
  mem := []
  history := []
  texMark := 0
  icMark := 0
  gpuMark := 0
  waitMark := 0
  cpuMark := 0
  llcMark := 0
  engines := Engines.reset
  regs := Regs.reset
  priorRegs := []
  pci := PciCaps.reset
  iommu := []
  contextCache := []
  pasidCounts := []
  memRanges := []
  pageRequests := []
  nextPrg := 0
  detached := []
  lastQueued := []
  flrPending := false
  notifications := []
  hdc := HdcPort.reset
  palette := List.replicate 256 0
  walk := WalkLatch.reset
  trWalk := .none
  indices := ⟨0, 0, 0, 0, 0, 0⟩
  ggttOffset := 0
  atomicReturn := 0
  completion := Completion.reset
  memType := ⟨.wb, 3⟩
  cache := ⟨.uncacheable, .uc, .none, false, false⟩
  tile := ⟨0, 0, 0, 0⟩
  lodOrigin := ⟨0, 0, 0, 0, 0, 0⟩
  planar := ⟨0, 0⟩
  pixel := 0
  texels := ⟨0, 0, []⟩
  texel := ⟨.raw 0 0, .raw 0 0, .raw 0 0, .raw 0 0⟩
  astcFormat := ⟨4, 4, .u8srgb⟩
  draws := 0
  inputs := []

end Sys2Proof.Machine
end

