-- ==== Sys2Proof/Machine/Ops.lean ====
section
/-! DEFINITION. The named operations every meaning is built from: physical memory, the history of overwritten values, draws
of open values, the engines, taking a page fault and returning from one. -/

namespace Sys2Proof.Machine

open Sys2Proof

/-- Why a meaning stops. -/
inductive Stop where
  | fault (f : Fault)
  | refuse (r : Refusal)
deriving DecidableEq, Repr

/-- The result of an operation that may stop. -/
abbrev Res (α : Type) := Except Stop α

/-- The outcome of a step from the result of a meaning. -/
def toOutcome : Res State → Host.Outcome State Fault Refusal
  | .ok s => .next s
  | .error (.fault f) => .fault f
  | .error (.refuse r) => .refused r

/-- Stops with a named refusal. -/
def refuse {α : Type} (r : Refusal) : Res α := .error (.refuse r)

/-! ### Physical memory (R110) -/

/-- What an address that memory does not list reads as: 0 (DESIGN CHOICE, log entry 10; R880: memory is not initialised). -/
def unlisted : Byte := 0

/-- One byte of memory. -/
def memRead : List Host.Cell → Nat → Byte
  | [], _ => unlisted
  | (k, b) :: r, a => if k = a then b else memRead r a

/-- Stores one byte, keeping the canonical form. -/
def memWrite : List Host.Cell → Nat → Byte → List Host.Cell
  | [], a, b => if b = unlisted then [] else [(a, b)]
  | (k, c) :: r, a, b =>
    if a < k then (if b = unlisted then (k, c) :: r else (a, b) :: (k, c) :: r)
    else if a = k then (if b = unlisted then r else (a, b) :: r)
    else (k, c) :: memWrite r a b

/-- Every address of the list is above `k`. -/
def Memory.above (k : Nat) : List Host.Cell → Bool
  | [] => true
  | (a, _) :: _ => decide (k < a)

/-- The canonical form: addresses strictly rising, no entry that reads as an unlisted address does. -/
def Memory.wf : List Host.Cell → Bool
  | [] => true
  | (a, b) :: r => (b != unlisted) && Memory.above a r && Memory.wf r

/-- Stores `n` bytes of a value, the least significant at the lowest address (R130). -/
def memWriteLe (m : List Host.Cell) (a : Nat) : Nat → QWord → List Host.Cell
  | 0, _ => m
  | n + 1, v => memWriteLe (memWrite m a (byteAt v 0)) (a + 1) n (v >>> 8)

/-- Reads `n` bytes, little-endian (R130). -/
def memReadLe (m : List Host.Cell) (a : Nat) : Nat → QWord
  | 0 => 0
  | n + 1 => (memReadLe m (a + 1) n <<< 8) ||| (memRead m a).setWidth 64

/-- `Mem64[pa]` (R9). -/
def mem64 (s : State) (pa : Nat) : QWord := memReadLe s.mem pa 8

/-- The `n` bytes from `pa` exist (R109, R110, I20). -/
def physExists (s : State) (pa n : Nat) : Bool :=
  decide (pa + n ≤ s.params.topOfMemory) && decide (pa + n ≤ 2 ^ s.params.haw)

/-- Stops with the fault of I20 where the bytes do not exist. -/
def checkPhys (s : State) (pa n : Nat) : Res Unit :=
  if physExists s pa n then .ok () else .error (.fault .noSuchPhysicalAddress)

/-- The processor side writes: the host, the IOMMU. -/
def Writer.cpu : Writer := ⟨false, false, false, .full, none⟩

/-- The page walker, GTI and the other units of the GPU whose accesses are write-back and coherent (R154, R480): a display read may miss
what they wrote until the LLC is flushed, like every write-back write of the GPU (R475). -/
def Writer.gam : Writer := ⟨true, false, true, .full, none⟩

/-- The GPU where it accesses Global GTT entries, uncacheable (R186): nothing of what it wrote waits in LLC. -/
def Writer.ggtt : Writer := { Writer.gam with writeBack := false }

/-- The bytes of QWord `q` that an access to `n` bytes at `pa` touches. -/
def touchedBytes (q pa n : Nat) : BitVec 8 :=
  BitVec.ofNat 8 ((List.range 8).foldl (fun m i => if pa ≤ 8 * q + i ∧ 8 * q + i < pa + n then m + 2 ^ i else m) 0)

/-- The values about to be overwritten, newest first: at most two QWords for an access of at most 8 bytes (R351). -/
def oldValues (s : State) (pa n : Nat) (w : Writer) : List OldValue :=
  let q0 := pa / 8
  let q1 := (pa + n - 1) / 8
  let one (q : Nat) : OldValue := ⟨q, mem64 s (8 * q), touchedBytes q pa n, w⟩
  if q0 = q1 then [one q0] else [one q1, one q0]

/-- Stores `n` bytes at a physical address and records what they replaced. -/
def store (s : State) (pa n : Nat) (v : QWord) (w : Writer) : State :=
  { s with mem := memWriteLe s.mem pa n v, history := oldValues s pa n w ++ s.history }

/-- The entries of a history, newest first, that `p` admits; `p` also sees how many entries are older. -/
def olderWhere (p : OldValue → Nat → Bool) : List OldValue → List OldValue
  | [] => []
  | o :: r => if p o r.length then o :: olderWhere p r else olderWhere p r

/-- The bytes of `a` that a mask names, the others from `b`. -/
def mergeBytes (mask : BitVec 8) (a b : QWord) : QWord :=
  let bits : QWord := (List.range 8).foldl (fun w i => if mask.getLsbD i then w ||| (0xFF#64 <<< (8 * i)) else w) 0
  (a &&& bits) ||| (b &&& ~~~bits)

/-- What a reader may still see of QWord `q` beside the value in memory, newest first (R154, R891): the whole QWord as it was before a
write that may be hidden from the reader, with the reader's own later writes to it (R150, D8). `now` is the QWord after the writes of
the history, `mine` and `wrote` the bytes the reader wrote since and their values. -/
def oldViews (own : Writer → Bool) (hides : OldValue → Nat → Bool) (q : Nat) :
    List OldValue → QWord → BitVec 8 → QWord → List QWord
  | [], _, _, _ => []
  | o :: r, now, mine, wrote =>
    if o.qaddr = q then
      let new := if own o.writer then o.bytes &&& ~~~mine else 0
      let wrote := mergeBytes new now wrote
      let mine := mine ||| new
      let rest := oldViews own hides q r o.value mine wrote
      if hides o r.length then mergeBytes mine wrote o.value :: rest else rest
    else oldViews own hides q r now mine wrote

/-- The same of the QWord that holds an address. -/
def viewsAt (s : State) (own : Writer → Bool) (hides : OldValue → Nat → Bool) (pa : Nat) : List QWord :=
  oldViews own hides (pa / 8) s.history (mem64 s (8 * (pa / 8))) 0 0

/-- The low `n` bytes of a value. -/
def lowBytes (v : QWord) (n : Nat) : QWord := v &&& BitVec.ofNat 64 (2 ^ (8 * n) - 1)

/-- An access that is single-copy atomic (R153, D9): 1, 2, 4 or 8 bytes, aligned to its size. -/
def singleCopy (pa n : Nat) : Bool := (n == 1 || n == 2 || n == 4 || n == 8) && pa % n == 0

/-! ### Draws of open values -/

/-- The k-th choice of the current draw. -/
def choiceAt (s : State) (k : Nat) : Nat := Config.choice (s.draws + k)

/-- Advances the counter of draws. -/
def advanceDraws (s : State) (n : Nat) : State := { s with draws := s.draws + n }

/-- The k-th free value of the current draw: the spec states none. -/
def freeAt (s : State) (k : Nat) : QWord := Config.freeWord (s.draws + k)

/-- Picks the current value or one of the older ones (R351, D16, I95). -/
def pickValue {α : Type} (s : State) (k : Nat) (current : α) (retained : List α) : α :=
  match retained with
  | [] => current
  | _ :: _ =>
    match choiceAt s k % (retained.length + 1) with
    | 0 => current
    | i + 1 => retained.getD i current

/-! ### Engines -/

/-- The state of one engine. -/
def engineOf (s : State) : Engine → EngineSt
  | .rcs => s.engines.rcs
  | .vcs0 => s.engines.vcs0
  | .vcs1 => s.engines.vcs1
  | .vecs => s.engines.vecs
  | .bcs => s.engines.bcs

/-- The engines with one of them replaced. -/
def Engines.set (es : Engines) : Engine → EngineSt → Engines
  | .rcs, x => { es with rcs := x }
  | .vcs0, x => { es with vcs0 := x }
  | .vcs1, x => { es with vcs1 := x }
  | .vecs, x => { es with vecs := x }
  | .bcs, x => { es with bcs := x }

/-- Replaces the state of one engine. -/
def setEngine (s : State) (e : Engine) (x : EngineSt) : State := { s with engines := s.engines.set e x }

/-- Changes the state of one engine. -/
def updEngine (s : State) (e : Engine) (f : EngineSt → EngineSt) : State := setEngine s e (f (engineOf s e))

/-- All engines (R30). -/
def allEngines : List Engine := [.rcs, .vcs0, .vcs1, .vecs, .bcs]

/-- Adds a pending event to an engine unless it is pending already (R810: PendingEvents is a set). -/
def raiseEvent (s : State) (e : Engine) (v : Event) : State :=
  updEngine s e fun x => if x.events.contains v then x else { x with events := x.events ++ [v] }

/-- The page-table pointers in force for an engine: those latched with its context, or the descriptor registers while no
context is loaded (R35, R341-R343). -/
def pointersOf (x : EngineSt) : DescRegs :=
  match x.ctx with
  | some c => c
  | none => x.regs

/-- The PASID in force (R32). -/
def pasidOf (x : EngineSt) : BitVec 20 := (pointersOf x).pdp0.extractLsb' 0 20

/-- Drops the retained translations of an engine, faulted entries included (R371, R358). -/
def dropRetained (s : State) (e : Engine) : State :=
  updEngine s e fun x => { x with invMark := s.history.length, scopeMarks := [], faulted := [] }

/-- The invalidation covers a faulted entry, which is a final entry (R358, R370). -/
def ScopeMark.coversFaulted (m : ScopeMark) (p : FaultedPage) : Bool :=
  m.stage != .intermediate && m.pasid.all (· == p.pasid) && m.page.all (· == p.vaPage)

/-- Drops what an engine retains of a PASID, a page, a stage (R370, R371, R358). -/
def dropScope (s : State) (m : ScopeMark) (e : Engine) : State :=
  updEngine s e fun x =>
    { x with scopeMarks := m :: x.scopeMarks, faulted := x.faulted.filter fun p => !m.coversFaulted p }

/-- The same on every engine. -/
def dropScopeEverywhere (s : State) (m : ScopeMark) : State := allEngines.foldl (fun s e => dropScope s m e) s

/-! ### Requests -/

/-- A request that is issued now and carries its own descriptor (R300). -/
def ownRequest (s : State) (a : Access) (desc : QWord) : Request := ⟨a, desc, .client, true, s.priorRegs.length, []⟩

/-- A request that is issued now under the descriptor of a context (R100). -/
def loadedRequest (s : State) (a : Access) (desc : QWord) (o : Origin) (pads : List QWord) : Request :=
  ⟨a, desc, o, false, s.priorRegs.length, pads⟩

/-! ### Completion of a request (R344, R830) -/

/-- Records how the last request ended. -/
def complete (s : State) (c : Completion) : State := { s with completion := c }

/-- A request that cannot be served now is kept until it can (R820, R825, R850). -/
def stall (s : State) (r : Request) (st : Status) : State :=
  complete (updEngine s r.acc.eng fun x => { x with stalled := x.stalled ++ [r] }) ⟨st, 0, false, 0, 0, .wb, 0⟩

/-- A request keeps behind one that waits in Stream mode, or behind one that does so (R150, D8, R829): it has no answer, and is presented again
once a wait of its engine ends. -/
def keepBehind (s : State) (r : Request) : State :=
  complete (updEngine s r.acc.eng fun x => { x with behind := x.behind ++ [r] }) ⟨.waiting, 0, false, 0, 0, .wb, 0⟩

/-- The 3-bit MTRR encoding of a type (R199). -/
def memTypeCode : MemType → BitVec 3
  | .uc => 0
  | .wc => 1
  | .wt => 4
  | .wp => 5
  | .wb => 6

/-- The response goes out on the broadcast bus. While an invalidation has stopped the service path none is sent, and the
request is one of those dropped, which its HDC sends again (R375). -/
def sendHdcResponse (s : State) (h : HdcRequest) (resp : GamResponse) : State :=
  if !s.hdc.serviceOff then { s with inputs := .message (.gamPageResponse resp) :: s.inputs }
  else if s.hdc.pending.contains h then
    { s with hdc := { s.hdc with pending := s.hdc.pending.erase h, droppedReqs := s.hdc.droppedReqs ++ [h] } }
  else s

/-! ### Taking a page fault (R801, R820-R829) -/

/-- The fault mode that applies (R821). -/
inductive FaultMode where
  | hang | halt | stream
deriving DecidableEq, Repr

/-- Stream-capable clients (R826): coherent HDC accesses and instruction-cache accesses. Instruction/State is one client (R101), and
every access of it counts as one of the instruction cache, a read of state too (DESIGN CHOICE, log entry 20). -/
def streamCapable (a : Access) : Bool :=
  (a.client == .hdc && a.coherent) || a.client == .instructionState

/-- The request is translated by the Global GTT (R300, R802): display accesses always, and marked requests. -/
def usesGgtt (r : Request) : Bool :=
  r.acc.useGgtt || r.acc.client == .displayOverlay || walkMode r.desc == .ggtt

/-- `FaultMode(req)` of R821. -/
def faultModeOf (s : State) (r : Request) : Res FaultMode :=
  if usesGgtt r then .ok .hang
  else if bit r.desc 3 then .ok .hang
  else if bit s.regs.r404c 0 then .ok .halt
  else match field r.desc 6 2 with
    | 0 => refuse .hangInAdvancedContext
    | 1 => .ok .halt
    | 2 => if streamCapable r.acc then .ok .stream else .ok .halt
    | _ => refuse .reservedFaultModel

/-- The two faulting-mode bits that travel with a response: always the mode of the context descriptor (R466, I63), whichever mode a fault
would take; their encoding is taken to be that of its Fault Model field (log entry 69). -/
def faultModeBits (desc : QWord) : BitVec 2 := desc.extractLsb' 6 2

/-- The clients that take a fault code with their response (R830): HDC, sampler, instruction cache. -/
def takesCode (a : Access) : Bool := a.client == .hdc || a.client == .samplerCache || a.client == .instructionState

/-- The fault code that the response to a request carries (R830). -/
def codeFor (r : Request) (code : BitVec 2) : BitVec 2 := if takesCode r.acc then code else 0

/-! ### Responses (R197, R376, R830) -/

/-- The response GAM gives an HDC (R197, R376, R466). -/
def hdcResponse (h : HdcRequest) (kind : ResponseKind) (pa : Word) (dirty : Bool) (code : BitVec 2) (memType : BitVec 3)
    (mode : BitVec 2) : GamResponse :=
  ⟨true, h.src, pa, h.isWrite, dirty, code, memType, h.tracking, mode, kind⟩

/-- The bytes that one read brought the sampler, below those it had (D9, R130). -/
def TexelRead.add (t : TexelRead) (data : QWord) (n : Nat) : TexelRead :=
  { t with got := t.got ||| ((data.setWidth 128 &&& BitVec.ofNat 128 (2 ^ (8 * n) - 1)) <<< (8 * t.gotBytes)),
           gotBytes := t.gotBytes + n }

/-- The data of a read reaches the sampler, which goes on with it before anything else. -/
def returnTexel (s : State) (r : Request) (t : TexelRead) (data : QWord) : State :=
  match t.how with
  | .raw => s
  | _ => { s with inputs := .op (.texelReturn { r with origin := .sampler (t.add data (r.acc.size.toNat + 1)) }) :: s.inputs }

/-- What waits for the outcome of a translation that gives none (R830, R832): an HDC gets a response marked with the fault code,
whose other fields are open; the sampler gets the open data. -/
def answerInvalid (s : State) (r : Request) (code : BitVec 2) (data : QWord) : State :=
  match r.origin with
  | .client => s
  | .hdc h =>
    sendHdcResponse s h (hdcResponse h .invalid ((freeAt s 0).setWidth 32 &&& 0x07FFFFFF) (bit (freeAt s 1) 0) code
      ((freeAt s 1).extractLsb' 1 3) (faultModeBits r.desc))
  | .sampler t => returnTexel s r t data

/-- InvalidAccess (R832): a read returns an unspecified value, a write or atomic changes no memory; the response is marked
with the fault code where the client has the signal (R830). -/
def invalidAccess (s : State) (r : Request) (code : BitVec 2) : State :=
  let data := if r.acc.kind = .write then 0 else freeAt s 2
  advanceDraws (answerInvalid (complete s ⟨.invalidAccess, data, false, codeFor r code, 0, .wb, faultModeBits r.desc⟩) r code data) 3

/-- The fault record of R801. -/
def faultRecord (s : State) (r : Request) (va : QWord) (code : BitVec 2) (level : Nat) : PageFault where
  code := code
  eng := r.acc.eng
  pasid := pasidOf (engineOf s r.acc.eng)
  contextId := r.desc.extractLsb' 32 32
  vaPage := va.extractLsb' 12 36
  isWrite := r.acc.kind != .read
  er := r.acc.ifetch
  pr := !bit r.desc 3 && bit r.desc 8
  level := level

/-- The mode of an engine that is to be Hung or Wedged: once it is either, only a reset leads out (R832, R833). -/
def EngineMode.stick (m new : EngineMode) : EngineMode :=
  match m with
  | .hung => .hung
  | .wedged => .wedged
  | _ => new

/-- Fault-and-Hang (R820): with HANG_SKIP the request completes as an invalid access; else the engine is Hung, the event is
pending for software, and the request never completes. -/
def takeHang (s : State) (r : Request) (f : PageFault) (va : QWord) : State :=
  if s.params.hangSkip then invalidAccess s r f.code
  else
    let s := stall s r .never
    let s := updEngine s r.acc.eng fun x => { x with mode := x.mode.stick .hung }
    raiseEvent s r.acc.eng (.legacyPageFault va f.isWrite f.code)

/-- Appends a page request to the queue that software sees (R825). -/
def queuePageRequest (s : State) (f : PageFault) : State :=
  { s with pageRequests := s.pageRequests ++ [⟨s.nextPrg, false, f⟩], nextPrg := s.nextPrg + 1 }

/-- A faulted entry gives the reason of a fault (R358): a page that is not present faults every access; one that refused a data access
for its privilege refuses a fetch too, not the other way round; a refused write says nothing of reads (DEDUCED, log entry 78). -/
def FaultedPage.sameReason (p : FaultedPage) (f : PageFault) : Bool :=
  p.code == f.code &&
    (match f.code with
      | 1 => true
      | 2 => !p.er || f.er
      | _ => p.isWrite == f.isWrite)

/-- A faulted entry of the TLBs covers a fault: the same page and the same reason (R358). -/
def FaultedPage.covers (p : FaultedPage) (f : PageFault) : Bool :=
  p.pasid == f.pasid && p.vaPage == f.vaPage && p.sameReason f

/-- The faulted entry of an engine that filters a fault (R358). -/
def filteringEntry (s : State) (e : Engine) (f : PageFault) : Option FaultedPage :=
  (engineOf s e).faulted.find? fun p => p.covers f

/-- A faulted entry that would filter a fault may have been the victim of a replacement meanwhile (R358: "LRA selection where the entry
becomes a victim for replacement"; R351): by draw it has left (log entry 78). -/
def loseVictims (s : State) (e : Engine) (f : PageFault) : State :=
  match filteringEntry s e f with
  | none => s
  | some _ =>
    if choiceAt s 0 % 2 = 0 then advanceDraws s 1
    else updEngine (advanceDraws s 1) e fun x => { x with faulted := x.faulted.filter fun p => !p.covers f }

/-- The group index under which a fault waits: that of the faulted entry that filters it, else a new one (R358, R841). -/
def prgFor (s : State) (e : Engine) (f : PageFault) : Nat :=
  match filteringEntry s e f with
  | some p => p.prg
  | none => s.nextPrg

/-- A fault is reported: its page request goes to software and its page becomes a faulted entry, unless a faulted entry filters
it (R358, R825). -/
def reportFault (s : State) (e : Engine) (f : PageFault) : State :=
  match filteringEntry s e f with
  | some _ => s
  | none =>
    updEngine (queuePageRequest s f) e fun x =>
      { x with faulted := ⟨f.pasid, f.vaPage, f.code, f.isWrite, f.er, s.nextPrg⟩ :: x.faulted }

/-- A request waits at the top of its engine's miss queue, and the engine is Halted (R825). R833 has an engine with a context in mind; a
request under a descriptor of its own halts an Idle engine too (DESIGN CHOICE, log entry 96). -/
def waitHalted (s : State) (w : Waiting) : State :=
  complete (updEngine s w.req.acc.eng fun x => { x with miss := some w, mode := x.mode.stick .halted }) ⟨.waiting, 0, false, 0, 0, .wb, 0⟩

/-- Fault-and-Halt (R825): the page request goes to software and the request waits for the response; a fault that arrives
while another waits is not walked and waits behind it. -/
def takeHalt (s : State) (r : Request) (f : PageFault) : State :=
  match (engineOf s r.acc.eng).miss with
  | some _ => stall s r .waiting
  | none =>
    let s := loseVictims s r.acc.eng f
    waitHalted (reportFault s r.acc.eng f) ⟨r, f, prgFor s r.acc.eng f⟩

/-- The client's answer to a fault in Stream mode (R829, R806): the code, and data that is not valid. -/
def answerFaulted (s : State) (r : Request) (code : BitVec 2) : State :=
  advanceDraws
    (answerInvalid (complete s ⟨.faulted, freeAt s 2, false, codeFor r code, 0, .wb, faultModeBits r.desc⟩) r code (freeAt s 2)) 3

/-- A request waits in Stream mode (R829, R828): it is outstanding, the fault counter rises, the first fault is signalled, the client
sees the fault code, other requests go on. R828 and R861 speak of fault counters and give neither number nor place (N78): the model
holds one for the whole machine (DESIGN CHOICE, log entry 45). -/
def waitStreamed (s : State) (w : Waiting) : State :=
  let e := w.req.acc.eng
  let first := (engineOf s e).outstanding.isEmpty
  let s := updEngine s e fun x => { x with outstanding := x.outstanding ++ [w] }
  let s := { s with regs := { s.regs with faultCount := s.regs.faultCount + 1 } }
  answerFaulted (if first then raiseEvent s e .streamFirstFault else s) w.req w.fault.code

/-- Fault-and-Stream (R829): the page request goes to software, and the request is outstanding. -/
def takeStream (s : State) (r : Request) (f : PageFault) : State :=
  let s := loseVictims s r.acc.eng f
  waitStreamed (reportFault s r.acc.eng f) ⟨r, f, prgFor s r.acc.eng f⟩

/-- Taking the fault that a walk found for a request to the address of some that wait in Stream mode, for the responses `prgs` (R150, D8). Where
the faulted entry of the same response filters it, it is taken in its mode and the response ends its wait too (R358). Any other would send
a page request of its own: it is taken once the request is presented again, which keeps behind until then (log entry 60). A fault that hangs
waits for no response. -/
def takeBehind (m : FaultMode) (s : State) (r : Request) (f : PageFault) (va : QWord) (prgs : List Nat) : State :=
  if m = .hang then takeHang s r f va
  else match (filteringEntry s r.acc.eng f).filter fun p => prgs.all (· == p.prg) with
    | none => keepBehind s r
    | some p =>
      if m = .stream then waitStreamed s ⟨r, f, p.prg⟩
      else if (engineOf s r.acc.eng).miss.isSome then keepBehind s r
      else waitHalted s ⟨r, f, p.prg⟩

/-- Taking a page fault in a mode: the one operation every fault of the machine goes through (R820, R825, R829). -/
def takeFault (m : FaultMode) (s : State) (r : Request) (f : PageFault) (va : QWord) : State :=
  match m with
  | .hang => takeHang s r f va
  | .halt => takeHalt s r f
  | .stream => takeStream s r f

/-- No page request of an engine is sent while a reset of it waits (R871): a fault that would send one waits for the reset. A fault that
hangs sends none (R820). -/
def heldByReset (s : State) (e : Engine) (m : FaultMode) : Bool := (engineOf s e).resetting && m != .hang

/-- Taking a page fault of a request in the mode that applies to it (R821), unless a reset of its engine waits (R871). -/
def takePageFault (s : State) (r : Request) (va : QWord) (code : BitVec 2) (level : Nat) : Res State := do
  let m ← faultModeOf s r
  pure (if heldByReset s r.acc.eng m then stall s r .waiting else takeFault m s r (faultRecord s r va code level) va)

/-- A fault that no page response can repair (R406, R832): the engine is Wedged and the request completes as an invalid access. -/
def takeUnrecoverable (s : State) (r : Request) (code : BitVec 2) : State :=
  invalidAccess (updEngine s r.acc.eng fun x => { x with mode := x.mode.stick .wedged }) r code

/-- The read of a TR-TT table for a request (R406). -/
def tableRead (r : Request) : Request := { r with acc := { r.acc with kind := .read, ifetch := false } }

/-- Taking a page fault that the read of a TR-TT table for a request meets (R406, R801): the fault is about that read; it is
Fault-and-Halt in an advanced context, and unrecoverable in a legacy one, which cannot wait for a repair. -/
def takeTableFault (s : State) (r : Request) (va : QWord) (code : BitVec 2) (level : Nat) : Res State := do
  let m ← faultModeOf s r
  match m with
  | .hang => pure (takeUnrecoverable s r code)
  | m =>
    pure (if heldByReset s r.acc.eng m then stall s r .waiting else takeHalt s r (faultRecord s (tableRead r) va code level))

/-- A catastrophic error (R845): the event is pending, the engine is Wedged and its context in error, and the request
completes as an invalid access. -/
def takeCatastrophic (s : State) (r : Request) (cause : CatastrophicCause) (va : QWord) : State :=
  let s := raiseEvent s r.acc.eng (.catastrophic cause (r.desc.extractLsb' 32 32) va)
  let s := updEngine s r.acc.eng fun x => { x with mode := x.mode.stick .wedged, contextBad := true }
  invalidAccess s r 0

/-! ### Returning from a page fault: the page response (R825, R829, R837, R841) -/

/-- The Context Available message of an engine, as a word (R34). -/
def availableWord : Word := 0x00010001

/-- The Context Available object of an engine. -/
def availableMessage : Engine → Instr
  | .rcs => .msgRcsContextAvailable availableWord
  | .vcs0 => .msgVcs0ContextAvailable availableWord
  | .vcs1 => .msgVcs1ContextAvailable availableWord
  | .vecs => .msgVecsContextAvailable availableWord
  | .bcs => .msgBcsContextAvailable availableWord

/-- What is presented again once an engine's miss is resolved: the requests whose pages the response repaired, which are walked again from
the top (R825); those that kept behind and the stalled ones, accesses like any other that may find a retained translation (R351); then the
switch-out
of a terminated context and a Context Available that waited for the fault services to complete (R840, R842). -/
def resumeStalled (s : State) (e : Engine) (repaired : List Request) : State :=
  let x := engineOf s e
  let again : List Input := (repaired.map fun r => .op (.rewalk r)) ++ (x.behind ++ x.stalled).map fun r => .op (.resume r)
  let out : List Input := if x.leaving && x.miss.isNone then [.op (.switchOut e)] else []
  let avail : List Input := if x.availPending then [.message (availableMessage e)] else []
  let s := setEngine s e { x with stalled := [], behind := [], availPending := false }
  { s with inputs := again ++ out ++ avail ++ s.inputs }

/-- The request at the top of a miss queue waits for the response `prg`. -/
def missMatches (s : State) (prg : Nat) (e : Engine) : Bool :=
  match (engineOf s e).miss with
  | some w => w.prg == prg
  | none => false

/-- The requests of an engine that wait in Stream mode for the response `prg`. -/
def outstandingMatches (s : State) (prg : Nat) (e : Engine) : List Waiting :=
  (engineOf s e).outstanding.filter fun w => w.prg == prg

/-- Some request of an engine waits for the response `prg`. -/
def awaits (s : State) (prg : Nat) (e : Engine) : Bool := missMatches s prg e || !(outstandingMatches s prg e).isEmpty

/-- The Response Failure bit of the Page Request Status register (R74, R841). -/
def setRf (s : State) : State := { s with pci := { s.pci with priStatus := s.pci.priStatus ||| 1 } }

/-- The Unexpected Page Request Group Index bit (R74, R841). -/
def setUprgi (s : State) : State := { s with pci := { s.pci with priStatus := s.pci.priStatus ||| 2 } }

/-- The page request with an index leaves the queue. -/
def dropPageRequest (s : State) (prg : Nat) : State :=
  { s with pageRequests := s.pageRequests.filter fun q => q.prg != prg }

/-- The pages that a page request is about, by PASID and address. -/
def pagesOf (s : State) (prg : Nat) : List (BitVec 20 × BitVec 36) :=
  (s.pageRequests.filter fun q => q.prg == prg).map fun q => (q.fault.pasid, q.fault.vaPage)

/-- The faulted entries that a page response drops (R370): those of a page it answers, "via address matching to kick the faulted entries
within the matching PASID", and those under its group index. -/
def FaultedPage.answered (p : FaultedPage) (prg : Nat) (pages : List (BitVec 20 × BitVec 36)) : Bool :=
  p.prg == prg || pages.contains (p.pasid, p.vaPage)

/-- The faulted entries that a page response answers leave every engine's TLBs, whatever its status and whoever waits for it (R370, R358,
R837). -/
def dropAnswered (s : State) (prg : Nat) : State :=
  let pages := pagesOf s prg
  allEngines.foldl (fun s e => updEngine s e fun x =>
    { x with faulted := x.faulted.filter fun p => !p.answered prg pages }) s

/-- The retained translations of a repaired page leave, and its faulted entries: those of its PASID, on every engine (R825, R370). The
HDC mini-TLBs keep what they hold: a page response is not taken for one of the invalidation events that R375 broadcasts (DESIGN CHOICE,
log entry 91). -/
def dropPage (s : State) (w : Waiting) : State :=
  dropScopeEverywhere s ⟨some w.fault.pasid, some w.fault.vaPage, .all, s.history.length⟩

/-- The engine runs an advanced context (R31). -/
def runsAdvanced (x : EngineSt) : Bool :=
  match x.ctx with
  | some c => !bit c.desc 3
  | none => false

/-- An engine that runs an advanced context of the PASID. -/
def runsPasid (s : State) (p : BitVec 20) (e : Engine) : Bool :=
  runsAdvanced (engineOf s e) && pasidOf (engineOf s e) == p

/-- A Response Failure terminates the advanced context of its PASID with an error (R841): the engines that run it are Wedged, and
the context is marked bad. -/
def failPasid (s : State) (p : BitVec 20) : State :=
  (allEngines.filter (runsPasid s p)).foldl
    (fun s e => updEngine s e fun x => { x with mode := x.mode.stick .wedged, contextBad := true }) (setRf s)

/-- The PASID of the page request with an index, of a LAST marker or not. -/
def pasidOfRequest (s : State) (prg : Nat) : Option (BitVec 20) :=
  (s.pageRequests.find? fun q => q.prg == prg).map fun q => q.fault.pasid

/-- What a Response Failure does besides, whoever waits for the response (R74, R841). -/
def failRequest (s : State) (prg : Nat) (code : ResponseCode) : State :=
  if code = .responseFailure then
    match pasidOfRequest s prg with
    | some p => failPasid s p
    | none => setRf s
  else s

/-- The engine of a wait that ends without a repair is Wedged, and its context in error after a Response Failure (R825, R832, R841). -/
def wedge (s : State) (e : Engine) (code : ResponseCode) : State :=
  updEngine s e fun x =>
    { x with mode := x.mode.stick .wedged, contextBad := x.contextBad || decide (code = .responseFailure) }

/-- An unsuccessful response: the waiting request becomes an invalid access and the engine is Wedged (R825, R832). -/
def failWaiting (s : State) (e : Engine) (w : Waiting) (code : ResponseCode) : State :=
  invalidAccess (wedge s e code) w.req w.fault.code

/-- An unsuccessful response to a request that waits in Stream mode (R829, R832). The client of an HDC request, and the sampler, have had
their answer. -/
def failStream (s : State) (e : Engine) (w : Waiting) (code : ResponseCode) : State :=
  match w.req.origin with
  | .client => failWaiting s e w code
  | _ => wedge s e code

/-- A request that waits in Stream mode is walked again by the machine (R829): a client's. An HDC has had its answer, and its execution
unit, which is outside the model, sends the request again itself (R829, R843). -/
def retriedHere (w : Waiting) : Bool :=
  match w.req.origin with
  | .client => true
  | _ => false

/-- The request at the top of the miss queue, if it waits for the response `prg`. -/
def topMatches (s : State) (prg : Nat) (e : Engine) : List Waiting := (engineOf s e).miss.toList.filter fun w => w.prg == prg

/-- The records of the waits for a response leave their engine, which runs again if it was Halted for it (R825, R833); one that was Idle with
no context before it was Halted is Running too (DESIGN CHOICE, log entry 96). -/
def clearWaits (prg : Nat) (success : Bool) (x : EngineSt) : EngineSt :=
  let mine := x.miss.any fun w => w.prg == prg
  { x with
    outstanding := x.outstanding.filter fun w => w.prg != prg
    miss := if mine then none else x.miss
    mode := if mine && success && x.mode == .halted then .running else x.mode }

/-- The response ends the waits of an engine (R825, R829): with a repair the retained translations of the pages are dropped and the requests
walked again, without one the requests end as invalid accesses (R832). Those that wait in Stream mode come first: a request at the top of
the miss queue that touches the address of one was issued after it (R150, D8). -/
def endWaits (s : State) (e : Engine) (prg : Nat) (code : ResponseCode) : State :=
  let streamed := outstandingMatches s prg e
  let top := topMatches s prg e
  let s := updEngine s e (clearWaits prg (decide (code = .success)))
  let s := dropPageRequest (dropAnswered (failRequest s prg code) prg) prg
  let s := { s with detached := s.detached.filter (· != prg) }
  match code with
  | .success => resumeStalled ((streamed ++ top).foldl dropPage s) e ((streamed.filter retriedHere ++ top).map (·.req))
  | c =>
    let s := streamed.foldl (fun s w => failStream s e w c) s
    resumeStalled (top.foldl (fun s w => failWaiting s e w c) s) e []

/-- The response to the LAST marker of a context of an engine (R836, R838): the flag clears and the scheduler is told, whatever the
status of the response. -/
def lastResponse (s : State) (e : Engine) (contextId : Word) : State :=
  if s.lastQueued.contains ⟨e, contextId⟩ then
    { s with
      lastQueued := s.lastQueued.filter (· != ⟨e, contextId⟩)
      pageRequests := s.pageRequests.filter fun q => !(q.last && q.fault.eng == e && q.fault.contextId == contextId)
      notifications := s.notifications ++ [contextId] }
  else setUprgi s

/-- A response to a page request that no engine waits for any more, its context being out or its engine reset: it is ignored but for the
faulted entries it drops (R837, R871, R370) and for what a Response Failure does (R74, R841). -/
def detachedResponse (s : State) (prg : Nat) (code : ResponseCode) : State :=
  let s := dropPageRequest (dropAnswered (failRequest s prg code) prg) prg
  { s with detached := s.detached.filter (· != prg) }

/-- A page response arrives (R841): it ends the wait of the requests it matches; one for a context that is no longer loaded, or for an
engine reset meanwhile, is the response of R837; one for a LAST marker is the response of R838; one that matches nothing sets UPRGI and is
ignored. -/
def pageResponse (s : State) (prg : Nat) (code : ResponseCode) : State :=
  match allEngines.find? (awaits s prg) with
  | some e => endWaits s e prg code
  | none =>
    if s.detached.contains prg then detachedResponse s prg code
    else match s.pageRequests.find? fun q => q.last && q.prg == prg with
      | some q => lastResponse (dropAnswered (failRequest s prg code) prg) q.fault.eng q.fault.contextId
      | none => setUprgi s

end Sys2Proof.Machine
end

