-- ==== Sys2Proof/Machine/Texels.lean ====
section
/-! DEFINITION. What the block decoders share: channel extension by bit replication (R540), clamping, sRGB (R550), default
channel values (R551), blocks of texels. -/

namespace Sys2Proof.Machine

open Sys2Proof

/-- `ext4(x)` (R540). -/
def ext4 (x : Nat) : Nat := x * 16 + x
/-- `ext5(x)` (R540). -/
def ext5 (x : Nat) : Nat := x * 8 + x / 4
/-- `ext6(x)` (R540). -/
def ext6 (x : Nat) : Nat := x * 4 + x / 16
/-- `ext7(x)` (R540). -/
def ext7 (x : Nat) : Nat := x * 2 + x / 64

/-- `clamp255(x)` (R540). -/
def clamp255 (x : Int) : Nat := (clampInt 0 255 x).toNat

/-- A colour of three 8-bit channels. -/
structure Rgb where
  r : Nat
  g : Nat
  b : Nat
deriving DecidableEq, Repr

/-- A colour of four 8-bit channels. -/
structure Rgba where
  r : Nat
  g : Nat
  b : Nat
  a : Nat
deriving DecidableEq, Repr

/-- A colour applied channel by channel. -/
def Rgb.map (f : Nat → Nat) (c : Rgb) : Rgb := ⟨f c.r, f c.g, f c.b⟩

/-- Two colours combined channel by channel. -/
def Rgb.map2 (f : Nat → Nat → Nat) (c d : Rgb) : Rgb := ⟨f c.r d.r, f c.g d.g, f c.b d.b⟩

/-- A colour with `d` added to each channel, clamped to 8 bits. -/
def Rgb.addClamped (c : Rgb) (d : Int) : Rgb := c.map fun x => clamp255 ((x : Int) + d)

/-- An opaque colour. -/
def Rgb.opaque (c : Rgb) : Rgba := ⟨c.r, c.g, c.b, 255⟩

/-- The transparent black of R555, R561, R593. -/
def transparent : Rgba := ⟨0, 0, 0, 0⟩

/-- A colour channel: an 8-bit UNORM value, or an sRGB value with its linear value (R550, D20). -/
def colourChan (srgb : Bool) (v : Nat) : Chan :=
  if srgb then .srgb v (Config.srgb8ToLinear (BitVec.ofNat 8 v)) else .unorm v 255

/-- A texel of 8-bit channels; alpha is never converted (R550). -/
def rgbaTexel (srgb : Bool) (c : Rgba) : Texel :=
  ⟨colourChan srgb c.r, colourChan srgb c.g, colourChan srgb c.b, .unorm c.a 255⟩

/-- The default alpha, 1.0 (R551). -/
def alphaOne : Chan := .unorm 255 255

/-- The default of a missing colour channel, 0 (R551, D21). -/
def colourZero : Chan := .unorm 0 255

/-- A texel whose four channels are open values, the k-th of its block. -/
def freeTexel (s : State) (k : Nat) : Texel :=
  ⟨.free (freeAt s (4 * k)), .free (freeAt s (4 * k + 1)), .free (freeAt s (4 * k + 2)), .free (freeAt s (4 * k + 3))⟩

/-- A 4 by 4 block from a function of row and column, row after row (R540). -/
def block4x4 (f : Nat → Nat → Texel) : TexelBlock := ⟨4, 4, (List.range 16).map fun k => f (k / 4) (k % 4)⟩

/-- The open values a block may take: four for each of at most 144 texels. -/
def blockDraws : Nat := 576

/-- Latches a decoded block. -/
def latchBlock (t : TexelBlock) (s : State) : State := advanceDraws { s with texels := t } blockDraws

end Sys2Proof.Machine
end

