-- ==== Sys2Proof/Machine/Ise.lean ====
section
/-! DEFINITION. The ASTC integer sequence encoding (R667-R669), the unquantisation of colour values and indices (R670, R680),
the index modes (R656, R657) and the partition function (R686, R687). -/

namespace Sys2Proof.Machine

open Sys2Proof

/-- A range of an integer sequence (R667): trits and quints are 0 or 1. -/
structure IseRange where
  trits : Nat
  quints : Nat
  bits : Nat
deriving DecidableEq, Repr

/-- `ISEbits(count, range)` (R663, R667, C40). -/
def iseBits (count : Nat) (r : IseRange) : Nat :=
  (count * 8 * r.trits + 4) / 5 + (count * 7 * r.quints + 2) / 3 + count * r.bits

/-- Bits `lo .. lo+len-1` of a bit stream. -/
def streamField (stream lo len : Nat) : Nat := stream / 2 ^ lo % 2 ^ len

/-- Bit `i` of a number, as 0 or 1. -/
def natBit (v i : Nat) : Nat := v / 2 ^ i % 2

/-- The low three trits, from C (R668). -/
def lowTrits (c : Nat) : List Nat :=
  if streamField c 0 2 = 3 then [2 * natBit c 3 + natBit c 2 * (1 - natBit c 3), natBit c 4, 2]
  else if streamField c 2 2 = 3 then [streamField c 0 2, 2, 2]
  else [2 * natBit c 1 + natBit c 0 * (1 - natBit c 1), streamField c 2 2, natBit c 4]

/-- The five trits of `T[7:0]` (R668). -/
def tritsOf (t : Nat) : List Nat :=
  if streamField t 2 3 = 7 then lowTrits (4 * streamField t 5 3 + streamField t 0 2) ++ [2, 2]
  else if streamField t 5 2 = 3 then lowTrits (streamField t 0 5) ++ [natBit t 7, 2]
  else lowTrits (streamField t 0 5) ++ [streamField t 5 2, natBit t 7]

/-- The low two quints, from C (R669). -/
def lowQuints (c : Nat) : List Nat :=
  if streamField c 0 3 = 5 then [streamField c 3 2, 4] else [streamField c 0 3, streamField c 3 2]

/-- The three quints of `Q[6:0]` (R669, D26). -/
def quintsOf (q : Nat) : List Nat :=
  if streamField q 1 2 = 3 then
    if streamField q 5 2 = 0 then
      [4, 4, 4 * natBit q 0 + 2 * (natBit q 4 * (1 - natBit q 0)) + natBit q 3 * (1 - natBit q 0)]
    else lowQuints (8 * streamField q 3 2 + 2 * (3 - streamField q 5 2) + natBit q 0) ++ [4]
  else lowQuints (streamField q 0 5) ++ [streamField q 5 2]

/-- `T[7:0]` of the block that starts at `lo` (R668). -/
def tritWord (stream lo n : Nat) : Nat :=
  streamField stream (lo + n) 2 + 4 * streamField stream (lo + 2 * n + 2) 2 + 16 * streamField stream (lo + 3 * n + 4) 1
    + 32 * streamField stream (lo + 4 * n + 5) 2 + 128 * streamField stream (lo + 5 * n + 7) 1

/-- Where m_j of a trit block lies, from the start of the block (R668). -/
def tritLow (n j : Nat) : Nat := j * n + [0, 2, 4, 5, 7].getD j 0

/-- `Q[6:0]` of the block that starts at `lo` (R669). -/
def quintWord (stream lo n : Nat) : Nat :=
  streamField stream (lo + n) 3 + 8 * streamField stream (lo + 2 * n + 3) 2 + 32 * streamField stream (lo + 3 * n + 5) 2

/-- Where m_j of a quint block lies, from the start of the block (R669). -/
def quintLow (n j : Nat) : Nat := j * n + [0, 3, 5].getD j 0

/-- An element of a sequence: its trit or quint, and its low bits (R667). -/
structure IseValue where
  high : Nat
  low : Nat
deriving DecidableEq, Repr

/-- Element `i` of the sequence in a bit stream that is zero above the sequence (R667). -/
def iseElement (r : IseRange) (stream i : Nat) : IseValue :=
  if r.trits = 1 then
    let lo := i / 5 * (8 + 5 * r.bits)
    ⟨(tritsOf (tritWord stream lo r.bits)).getD (i % 5) 0, streamField stream (lo + tritLow r.bits (i % 5)) r.bits⟩
  else if r.quints = 1 then
    let lo := i / 3 * (7 + 3 * r.bits)
    ⟨(quintsOf (quintWord stream lo r.bits)).getD (i % 3) 0, streamField stream (lo + quintLow r.bits (i % 3)) r.bits⟩
  else ⟨0, streamField stream (i * r.bits) r.bits⟩

/-- The `count` elements of a sequence: bits above it read as 0 (R667). -/
def iseSequence (r : IseRange) (count stream : Nat) : List IseValue :=
  (List.range count).map fun i => iseElement r (stream % 2 ^ iseBits count r) i

/-- The bits of a number in the order of a list, the first the most significant; bit 15 stands for 0. -/
def spreadBits (v : Nat) (l : List Nat) : Nat := l.foldl (fun acc k => 2 * acc + natBit v k) 0

/-- An `n`-bit value repeated, its top `w` bits (R670, R680). -/
def repeatBits (v n w : Nat) : Nat := v * ((2 ^ (n * w) - 1) / (2 ^ n - 1)) / 2 ^ (n * w - w)

/-- The pattern B of a trit or quint colour range, most significant bit first (R670). -/
def colourB (r : IseRange) : List Nat :=
  if r.trits = 1 then
    match r.bits with
    | 2 => [1, 15, 15, 15, 1, 15, 1, 1, 15]
    | 3 => [2, 1, 15, 15, 15, 2, 1, 2, 1]
    | 4 => [3, 2, 1, 15, 15, 15, 3, 2, 1]
    | 5 => [4, 3, 2, 1, 15, 15, 15, 4, 3]
    | 6 => [5, 4, 3, 2, 1, 15, 15, 15, 5]
    | _ => []
  else
    match r.bits with
    | 2 => [1, 15, 15, 15, 15, 1, 1, 15, 15]
    | 3 => [2, 1, 15, 15, 15, 15, 2, 1, 2]
    | 4 => [3, 2, 1, 15, 15, 15, 15, 3, 2]
    | 5 => [4, 3, 2, 1, 15, 15, 15, 15, 4]
    | _ => []

/-- The constant C of a trit or quint colour range (R670). -/
def colourC (r : IseRange) : Nat :=
  (if r.trits = 1 then [0, 204, 93, 44, 22, 11, 5] else [0, 113, 54, 26, 13, 6]).getD r.bits 0

/-- A colour value unquantised to 0..255 (R670). -/
def unquantColour (r : IseRange) (v : IseValue) : Nat :=
  if r.trits = 0 ∧ r.quints = 0 then repeatBits v.low r.bits 8
  else
    let a := 0x1FF * natBit v.low 0
    let t := (v.high * colourC r + spreadBits v.low (colourB r)) ^^^ a
    (a &&& 0x80) ||| (t / 4)

/-- The pattern B of a trit or quint index range (R680). -/
def indexB (r : IseRange) : List Nat :=
  if r.trits = 1 then
    match r.bits with
    | 2 => [1, 15, 15, 15, 1, 15, 1]
    | 3 => [2, 1, 15, 15, 15, 2, 1]
    | _ => []
  else
    match r.bits with
    | 2 => [1, 15, 15, 15, 15, 1, 15]
    | _ => []

/-- The constant C of a trit or quint index range (R680). -/
def indexC (r : IseRange) : Nat :=
  (if r.trits = 1 then [0, 50, 23, 11] else [0, 28, 13]).getD r.bits 0

/-- An index in 0..63 (R680). -/
def unquantIndex63 (r : IseRange) (v : IseValue) : Nat :=
  if r.trits = 0 ∧ r.quints = 0 then repeatBits v.low r.bits 6
  else if r.bits = 0 then
    if r.trits = 1 then [0, 32, 63].getD v.high 0 else [0, 16, 32, 47, 63].getD v.high 0
  else
    let a := 0x7F * natBit v.low 0
    let t := (v.high * indexC r + spreadBits v.low (indexB r)) ^^^ a
    (a &&& 0x20) ||| (t / 4)

/-- An index expanded to 0..64 (R680). -/
def unquantIndex (r : IseRange) (v : IseValue) : Nat :=
  let t := unquantIndex63 r v
  if 32 < t then t + 1 else t

/-- The index range of R and H (R656); R is at least 2 in every row that is not reserved (R657). -/
def indexRange (r : Nat) (h : Bool) : IseRange :=
  match r, h with
  | 2, false => ⟨0, 0, 1⟩
  | 3, false => ⟨1, 0, 0⟩
  | 4, false => ⟨0, 0, 2⟩
  | 5, false => ⟨0, 1, 0⟩
  | 6, false => ⟨1, 0, 1⟩
  | 2, true => ⟨0, 1, 1⟩
  | 3, true => ⟨1, 0, 2⟩
  | 4, true => ⟨0, 0, 4⟩
  | 5, true => ⟨0, 1, 2⟩
  | 6, true => ⟨1, 0, 3⟩
  | _, false => ⟨0, 0, 3⟩
  | _, true => ⟨0, 0, 5⟩

/-- An index mode: the grid, whether there are two planes, the range (R657). -/
structure IndexMode where
  n : Nat
  m : Nat
  dual : Bool
  range : IseRange
deriving DecidableEq, Repr

/-- The index mode of a row of R657; a void extent and a reserved row have none. -/
def indexMode (w : BitVec 11) : Option IndexMode :=
  let a := field w 5 2
  let b := field w 7 2
  let b7 := field w 7 1
  let low := indexRange (2 * field w 0 2 + bitN w 4) (bit w 9)
  let high := indexRange (2 * field w 2 2 + bitN w 4) (bit w 9)
  match astcClass w with
  | .wBp4HAp2 => some ⟨b + 4, a + 2, bit w 10, low⟩
  | .wBp8HAp2 => some ⟨b + 8, a + 2, bit w 10, low⟩
  | .wAp2HBp8 => some ⟨a + 2, b + 8, bit w 10, low⟩
  | .wAp2HBp6 => some ⟨a + 2, b7 + 6, bit w 10, low⟩
  | .wBp2HAp2 => some ⟨b7 + 2, a + 2, bit w 10, low⟩
  | .w12HAp2 => some ⟨12, a + 2, bit w 10, high⟩
  | .wAp2H12 => some ⟨a + 2, 12, bit w 10, high⟩
  | .w6H10 => some ⟨6, 10, bit w 10, high⟩
  | .w10H6 => some ⟨10, 6, bit w 10, high⟩
  | .wAp6HBp6 => some ⟨a + 6, field w 9 2 + 6, false, indexRange (2 * field w 2 2 + bitN w 4) false⟩
  | .voidExtent => none
  | .reservedA => none
  | .reservedB => none

/-- `hash52` (R687). -/
def hash52 (p : Word) : Word :=
  let p := p ^^^ (p >>> 15)
  let p := p - (p <<< 17)
  let p := p + (p <<< 7)
  let p := p + (p <<< 4)
  let p := p ^^^ (p >>> 5)
  let p := p + (p <<< 16)
  let p := p ^^^ (p >>> 7)
  let p := p ^^^ (p >>> 3)
  let p := p ^^^ (p <<< 6)
  p ^^^ (p >>> 17)

/-- A squared and shifted 4-bit seed (R686). -/
def seedTerm (rnum lo sh : Nat) : Nat := (rnum / 2 ^ lo % 16) * (rnum / 2 ^ lo % 16) / 2 ^ sh

/-- The partition of a texel, from the hash and the two shifts (R686): the first of the largest of a, b, c, d. -/
def largestOf (a b c d : Nat) : Nat :=
  if a ≥ b ∧ a ≥ c ∧ a ≥ d then 0 else if b ≥ c ∧ b ≥ d then 1 else if c ≥ d then 2 else 3

/-- `select_partition` for a 2D block (R686). -/
def selectPartition (seed x0 y0 count : Nat) (smallBlock : Bool) : Nat :=
  let x := if smallBlock then 2 * x0 else x0
  let y := if smallBlock then 2 * y0 else y0
  let rnum := (hash52 (BitVec.ofNat 32 (seed + (count - 1) * 1024))).toNat
  let odd := if natBit seed 1 = 1 then 4 else 5
  let three := if count = 3 then 6 else 5
  let sh1 := if natBit seed 0 = 1 then odd else three
  let sh2 := if natBit seed 0 = 1 then three else odd
  let a := (seedTerm rnum 0 sh1 * x + seedTerm rnum 4 sh2 * y + rnum / 2 ^ 14) % 64
  let b := (seedTerm rnum 8 sh1 * x + seedTerm rnum 12 sh2 * y + rnum / 2 ^ 10) % 64
  let c := (seedTerm rnum 16 sh1 * x + seedTerm rnum 20 sh2 * y + rnum / 2 ^ 6) % 64
  let d := (seedTerm rnum 24 sh1 * x + seedTerm rnum 28 sh2 * y + rnum / 2 ^ 2) % 64
  largestOf a b (if count < 3 then 0 else c) (if count < 4 then 0 else d)

/-- The effective index of a texel from the unquantised indices of one plane (R681, D30). -/
def infill (bs bt n m : Nat) (index : Nat → Nat → Nat) (s t : Nat) : Nat :=
  let ds := (1024 + bs / 2) / (bs - 1)
  let dt := (1024 + bt / 2) / (bt - 1)
  let gs := (ds * s * (n - 1) + 32) / 64
  let gt := (dt * t * (m - 1) + 32) / 64
  let js := gs / 16
  let fs := gs % 16
  let jt := gt / 16
  let ft := gt % 16
  let at' (x y : Nat) : Nat := if x < n ∧ y < m then index x y else 0
  let w11 := (fs * ft + 8) / 16
  let w10 := ft - w11
  let w01 := fs - w11
  let w00 := 16 + w11 - fs - ft
  (at' js jt * w00 + at' (js + 1) jt * w01 + at' js (jt + 1) * w10 + at' (js + 1) (jt + 1) * w11 + 8) / 16

end Sys2Proof.Machine
end

