-- ==== Sys2Proof/Machine/AstcEndpoints.lean ====
section
/-! DEFINITION. The ASTC colour endpoints (R671-R677) and their interpolation (R683, R684). -/

namespace Sys2Proof.Machine

open Sys2Proof

/-- An endpoint: 8-bit components, or 12-bit ones for the HDR parts of an endpoint mode. -/
structure AstcEnd where
  r : Int
  g : Int
  b : Int
  a : Int
deriving DecidableEq, Repr

/-- The two endpoints of a partition. -/
structure AstcPair where
  e0 : AstcEnd
  e1 : AstcEnd
deriving DecidableEq, Repr

/-- `bit_transfer_signed(a, b)` (R671): the signed a and the new b. -/
def bitTransfer (a b : Nat) : Int × Int :=
  (signExtendNat (a / 2) 6, ((b / 2 ||| (a &&& 0x80) : Nat) : Int))

/-- `blue_contract` (R671). -/
def blueContract (r g b a : Int) : AstcEnd := ⟨(r + b) / 2, (g + b) / 2, b, a⟩

/-- `clamp_unorm8` (R671). -/
def AstcEnd.clampUnorm8 (e : AstcEnd) : AstcEnd :=
  ⟨clampInt 0 255 e.r, clampInt 0 255 e.g, clampInt 0 255 e.b, clampInt 0 255 e.a⟩

/-- CEM 0 (R671). -/
def endpoints0 (v : Nat → Nat) : AstcPair := ⟨⟨v 0, v 0, v 0, 0xFF⟩, ⟨v 1, v 1, v 1, 0xFF⟩⟩

/-- CEM 1 (R671, C47). -/
def endpoints1 (v : Nat → Nat) : AstcPair :=
  let l0 := v 0 / 4 ||| (v 1 &&& 0xC0)
  let l1 := min 0xFF (l0 + (v 1 &&& 0x3F))
  ⟨⟨l0, l0, l0, 0xFF⟩, ⟨l1, l1, l1, 0xFF⟩⟩

/-- CEM 4 (R671). -/
def endpoints4 (v : Nat → Nat) : AstcPair := ⟨⟨v 0, v 0, v 0, v 2⟩, ⟨v 1, v 1, v 1, v 3⟩⟩

/-- CEM 5 (R671). -/
def endpoints5 (v : Nat → Nat) : AstcPair :=
  let (v1, v0) := bitTransfer (v 1) (v 0)
  let (v3, v2) := bitTransfer (v 3) (v 2)
  ⟨AstcEnd.clampUnorm8 ⟨v0, v0, v0, v2⟩, AstcEnd.clampUnorm8 ⟨v0 + v1, v0 + v1, v0 + v1, v2 + v3⟩⟩

/-- CEM 6 (R671). -/
def endpoints6 (v : Nat → Nat) : AstcPair :=
  ⟨⟨(v 0 * v 3 / 256 : Nat), (v 1 * v 3 / 256 : Nat), (v 2 * v 3 / 256 : Nat), 0xFF⟩, ⟨v 0, v 1, v 2, 0xFF⟩⟩

/-- CEM 8 and 12, with their alphas (R671). -/
def endpointsDirect (v : Nat → Nat) (a0 a1 : Int) : AstcPair :=
  if v 1 + v 3 + v 5 ≥ v 0 + v 2 + v 4 then ⟨⟨v 0, v 2, v 4, a0⟩, ⟨v 1, v 3, v 5, a1⟩⟩
  else ⟨blueContract (v 1) (v 3) (v 5) a1, blueContract (v 0) (v 2) (v 4) a0⟩

/-- CEM 9 and 13, with their alphas (R671). -/
def endpointsOffset (v : Nat → Nat) (a0 a1 : Int) : AstcPair :=
  let (v1, v0) := bitTransfer (v 1) (v 0)
  let (v3, v2) := bitTransfer (v 3) (v 2)
  let (v5, v4) := bitTransfer (v 5) (v 4)
  if v1 + v3 + v5 ≥ 0 then
    ⟨AstcEnd.clampUnorm8 ⟨v0, v2, v4, a0⟩, AstcEnd.clampUnorm8 ⟨v0 + v1, v2 + v3, v4 + v5, a1⟩⟩
  else
    ⟨(blueContract (v0 + v1) (v2 + v3) (v4 + v5) a1).clampUnorm8, (blueContract v0 v2 v4 a0).clampUnorm8⟩

/-- CEM 10 (R671). -/
def endpoints10 (v : Nat → Nat) : AstcPair :=
  ⟨⟨(v 0 * v 3 / 256 : Nat), (v 1 * v 3 / 256 : Nat), (v 2 * v 3 / 256 : Nat), v 4⟩, ⟨v 0, v 1, v 2, v 5⟩⟩

/-- CEM 13 (R671). -/
def endpoints13 (v : Nat → Nat) : AstcPair :=
  let (v7, v6) := bitTransfer (v 7) (v 6)
  endpointsOffset v v6 (v6 + v7)

/-- CEM 2 (R672). -/
def endpoints2 (v : Nat → Nat) : AstcPair :=
  let y0 : Int := if v 1 ≥ v 0 then 16 * v 0 else 16 * v 1 + 8
  let y1 : Int := if v 1 ≥ v 0 then 16 * v 1 else 16 * v 0 - 8
  ⟨⟨y0, y0, y0, 0x780⟩, ⟨y1, y1, y1, 0x780⟩⟩

/-- CEM 3 (R673, D27). -/
def endpoints3 (v : Nat → Nat) : AstcPair :=
  let m := v 0 &&& 0x80 ≠ 0
  let y0 := if m then ((v 1 &&& 0xE0) * 16) ||| ((v 0 &&& 0x7F) * 4) else ((v 1 &&& 0xF0) * 16) ||| ((v 0 &&& 0x7F) * 2)
  let d := if m then (v 1 &&& 0x1F) * 4 else (v 1 &&& 0x0F) * 2
  let y1 := min 0xFFF (y0 + d)
  ⟨⟨y0, y0, y0, 0x780⟩, ⟨y1, y1, y1, 0x780⟩⟩

/-- Bit `x` placed at `pos` in the modes that `mask` names (R674, R675). -/
def placeBit (mode mask x pos : Nat) : Nat := if natBit mask mode = 1 then x * 2 ^ pos else 0

/-- A 12-bit component. -/
def clamp12 (x : Int) : Int := clampInt 0 0xFFF x

/-- An endpoint of three components clamped to 12 bits and the alpha 1.0 (R672, R674, R675). -/
def hdrEnd (r g b : Int) : AstcEnd := ⟨clamp12 r, clamp12 g, clamp12 b, 0x780⟩

/-- Red swapped with the major component (R674, R675). -/
def AstcEnd.swapMajor (e : AstcEnd) (majcomp : Nat) : AstcEnd :=
  match majcomp with
  | 1 => ⟨e.g, e.r, e.b, e.a⟩
  | 2 => ⟨e.b, e.g, e.r, e.a⟩
  | _ => e

/-- The four fields of CEM 7 with their extra bits, before the shift (R674). -/
def cem7Fields (v : Nat → Nat) (mode : Nat) : AstcEnd :=
  let x0 := natBit (v 1) 6
  let x1 := natBit (v 1) 5
  let x2 := natBit (v 2) 6
  let x3 := natBit (v 2) 5
  let x4 := natBit (v 3) 7
  let x5 := natBit (v 3) 6
  let x6 := natBit (v 3) 5
  let put := placeBit mode
  let red := (v 0 &&& 0x3F) ||| put 0x3B x4 6 ||| put 0x04 x3 6 ||| put 0x10 x5 7 ||| put 0x0F x2 7 ||| put 0x05 x1 8
    ||| put 0x0A x0 8 ||| put 0x05 x0 9 ||| put 0x02 x6 9 ||| put 0x01 x3 10 ||| put 0x02 x5 10
  let green := (v 1 &&& 0x1F) ||| put 0x30 x0 6 ||| put 0x3A x1 5
  let blue := (v 2 &&& 0x1F) ||| put 0x30 x2 6 ||| put 0x3A x3 5
  let scale := (v 3 &&& 0x1F) ||| put 0x3D x6 5 ||| put 0x2D x5 6 ||| put 0x04 x4 7
  ⟨red, green, blue, scale⟩

/-- The mode bits of CEM 7: the major component and the mode (R674). -/
def cem7Mode (v : Nat → Nat) : Nat × Nat :=
  let modeval := natBit (v 0) 6 + 2 * natBit (v 0) 7 + 4 * natBit (v 1) 7 + 8 * natBit (v 2) 7
  if modeval < 12 then (modeval / 4, modeval % 4) else if modeval = 15 then (0, 5) else (modeval % 4, 4)

/-- CEM 7 (R674). -/
def endpoints7 (v : Nat → Nat) : AstcPair :=
  let (majcomp, mode) := cem7Mode v
  let f := cem7Fields v mode
  let sh : Int := ([2, 2, 4, 8, 16, 32].getD mode 2 : Nat)
  let red := f.r * sh
  let green := if mode = 5 then f.g * sh else red - f.g * sh
  let blue := if mode = 5 then f.b * sh else red - f.b * sh
  let scale := f.a * sh
  let e := AstcEnd.swapMajor ⟨red, green, blue, 0⟩ majcomp
  ⟨hdrEnd (e.r - scale) (e.g - scale) (e.b - scale), hdrEnd e.r e.g e.b⟩

/-- CEM 11 with a major component other than 3 (R675). -/
def endpoints11Major (v : Nat → Nat) (majcomp : Nat) : AstcPair :=
  let mode := natBit (v 1) 7 + 2 * natBit (v 2) 7 + 4 * natBit (v 3) 7
  let x0 := natBit (v 2) 6
  let x1 := natBit (v 3) 6
  let x2 := natBit (v 4) 6
  let x3 := natBit (v 5) 6
  let x4 := natBit (v 4) 5
  let x5 := natBit (v 5) 5
  let put := placeBit mode
  let dbits := [7, 6, 7, 6, 5, 6, 5, 6].getD mode 0
  let sh : Int := (2 ^ ((mode / 2) ^^^ 3) : Nat)
  let va : Nat := v 0 ||| (natBit (v 1) 6 * 256) ||| put 0xA4 x0 9 ||| put 0x08 x2 9 ||| put 0x50 x4 9 ||| put 0x50 x5 10
    ||| put 0xA0 x1 10 ||| put 0xC0 x2 11
  let vc : Nat := (v 1 &&& 0x3F) ||| put 0x04 x1 6 ||| put 0xE8 x3 6 ||| put 0x20 x2 7
  let vb0 : Nat := (v 2 &&& 0x3F) ||| put 0x5B x0 6 ||| put 0x12 x2 7
  let vb1 : Nat := (v 3 &&& 0x3F) ||| put 0x5B x1 6 ||| put 0x12 x3 7
  let a : Int := va * sh
  let b0 : Int := vb0 * sh
  let b1 : Int := vb1 * sh
  let c : Int := vc * sh
  let d0 : Int := signExtendNat (v 4 &&& 0x7F) dbits * sh
  let d1 : Int := signExtendNat (v 5 &&& 0x7F) dbits * sh
  ⟨(hdrEnd (a - c) (a - b0 - c - d0) (a - b1 - c - d1)).swapMajor majcomp, (hdrEnd a (a - b0) (a - b1)).swapMajor majcomp⟩

/-- CEM 11 (R675). -/
def endpoints11 (v : Nat → Nat) : AstcPair :=
  let majcomp := natBit (v 4) 7 + 2 * natBit (v 5) 7
  if majcomp = 3 then
    ⟨⟨16 * v 0, 16 * v 2, 32 * (v 4 &&& 0x7F : Nat), 0x780⟩, ⟨16 * v 1, 16 * v 3, 32 * (v 5 &&& 0x7F : Nat), 0x780⟩⟩
  else endpoints11Major v majcomp

/-- The HDR alphas of CEM 15 (R677). -/
def cem15Alpha (v6 v7 : Nat) : Int × Int :=
  let mode := natBit v6 7 + 2 * natBit v7 7
  let a := v6 &&& 0x7F
  let b := v7 &&& 0x7F
  if mode = 3 then ((a * 32 : Nat), (b * 32 : Nat))
  else
    let hi : Int := ((a ||| (b * 2 ^ (mode + 1) &&& 0x780)) * 2 ^ (4 - mode) : Nat)
    let d : Int := signExtendNat b (6 - mode) * (2 ^ (4 - mode) : Nat)
    (hi, clamp12 (d + hi))

/-- The endpoints of an endpoint mode from its values (R671-R677). -/
def astcEndpoints (cem : Nat) (v : Nat → Nat) : AstcPair :=
  match cem with
  | 0 => endpoints0 v
  | 1 => endpoints1 v
  | 2 => endpoints2 v
  | 3 => endpoints3 v
  | 4 => endpoints4 v
  | 5 => endpoints5 v
  | 6 => endpoints6 v
  | 7 => endpoints7 v
  | 8 => endpointsDirect v 0xFF 0xFF
  | 9 => endpointsOffset v 0xFF 0xFF
  | 10 => endpoints10 v
  | 11 => endpoints11 v
  | 12 => endpointsDirect v (v 6) (v 7)
  | 13 => endpoints13 v
  | 14 =>
    let p := endpoints11 v
    ⟨{ p.e0 with a := v 6 }, { p.e1 with a := v 7 }⟩
  | _ =>
    let p := endpoints11 v
    let a := cem15Alpha (v 6) (v 7)
    ⟨{ p.e0 with a := a.1 }, { p.e1 with a := a.2 }⟩

/-- The colour of an endpoint mode is HDR (R661). -/
def cemHdr (cem : Nat) : Bool := [2, 3, 7, 11, 14, 15].contains cem

/-- The alpha of an endpoint mode is HDR: CEM 14 has an LDR alpha (R676, R684). -/
def cemHdrAlpha (cem : Nat) : Bool := cemHdr cem && cem != 14

/-- The weighted mean of two 16-bit values (R683). -/
def interpolate16 (c0 c1 i : Nat) : Nat := (c0 * (64 - i) + c1 * i + 32) / 64

/-- UNORM16 to FP16, round to zero (R683). -/
def unorm16ToHalf (c : Nat) : BitVec 16 :=
  if c = 65535 then 0x3C00
  else if c < 4 then BitVec.ofNat 16 (256 * c)
  else
    let k := Nat.log2 c
    BitVec.ofNat 16 ((k - 1) * 1024 + (c - 2 ^ k) * 1024 / 2 ^ k)

/-- The interpolated 16-bit logarithmic value as FP16 (R684). -/
def logToHalf (c : Nat) : BitVec 16 :=
  let e := c / 2048 % 32
  let m := c % 2048
  let mt := if m < 512 then 3 * m else if m ≥ 1536 then 5 * m - 2048 else 4 * m - 512
  let cf := e * 1024 + mt / 8
  if cf ≥ 0x7C00 then 0x7BFF else BitVec.ofNat 16 cf

/-- An LDR component of a format without sRGB (R683). -/
def ldrHalf (c0 c1 : Int) (i : Nat) : Chan := .half (unorm16ToHalf (interpolate16 (257 * c0.toNat) (257 * c1.toNat) i))

/-- An LDR component of a U8sRGB format, as UNORM8 (R683). -/
def ldrUnorm8 (c0 c1 : Int) (i : Nat) : Nat := interpolate16 (256 * c0.toNat + 0x80) (256 * c1.toNat + 0x80) i / 256

/-- An HDR component (R684). -/
def hdrHalf (c0 c1 : Int) (i : Nat) : Chan := .half (logToHalf (interpolate16 (16 * c0.toNat) (16 * c1.toNat) i))

end Sys2Proof.Machine
end

