-- ==== Sys2Proof/Machine/Astc.lean ====
section
/-! DEFINITION. The ASTC block decoder (R650-R690). -/

namespace Sys2Proof.Machine

open Sys2Proof

/-- The error colour of a format (R688, D28). -/
def astcErrorTexel : AstcProfile → Texel
  | .u8srgb => ⟨colourChan true 255, colourChan true 0, colourChan true 255, .unorm 255 255⟩
  | .ldrFlt16 => ⟨.half 0x3C00, .half 0, .half 0x3C00, .half 0x3C00⟩
  | .fullFlt16 => ⟨.half 0xFFFF, .half 0xFFFF, .half 0xFFFF, .half 0xFFFF⟩

/-- A block of a format's footprint, row after row. -/
def astcTexels (f : AstcFormat) (t : Nat → Nat → Texel) : TexelBlock :=
  ⟨f.width, f.height, (List.range (f.width * f.height)).map fun k => t (k % f.width) (k / f.width)⟩

/-- The block that every illegal encoding decodes to (R688). -/
def astcErrorBlock (f : AstcFormat) : TexelBlock := astcTexels f fun _ _ => astcErrorTexel f.profile

/-- A UNORM16 component of an LDR void extent in a colour channel (R666). -/
def voidLdrChan (p : AstcProfile) (alpha : Bool) (c : Nat) : Chan :=
  match p with
  | .u8srgb => if alpha then .unorm (c / 256) 255 else colourChan true (c / 256)
  | .ldrFlt16 => .half (unorm16ToHalf c)
  | .fullFlt16 => .half (unorm16ToHalf c)

/-- The constant colour of a void-extent block (R665, R666). -/
def voidTexel (p : AstcProfile) (b : Block) : Texel :=
  let c (lo : Nat) : Nat := field b lo 16
  if bit b 9 then ⟨.half (BitVec.ofNat 16 (c 64)), .half (BitVec.ofNat 16 (c 80)), .half (BitVec.ofNat 16 (c 96)),
    .half (BitVec.ofNat 16 (c 112))⟩
  else ⟨voidLdrChan p false (c 64), voidLdrChan p false (c 80), voidLdrChan p false (c 96), voidLdrChan p true (c 112)⟩

/-- The extent of a void-extent block is legal: all ones, or each low below its high (R665, R688). -/
def voidExtentLegal (b : Block) : Bool :=
  field b 12 52 == 2 ^ 52 - 1 || (decide (field b 12 13 < field b 25 13) && decide (field b 38 13 < field b 51 13))

/-- A void-extent block (R665). The LDR formats need not check the extent: which colour an illegal one gives is open (R689,
I76). -/
def astcVoidBlock (f : AstcFormat) (b : Block) (s : State) : TexelBlock :=
  let ldr := f.profile != .fullFlt16
  if ldr && bit b 9 then astcErrorBlock f
  else if voidExtentLegal b || (ldr && choiceAt s 0 % 2 == 0) then astcTexels f fun _ _ => voidTexel f.profile b
  else astcErrorBlock f

/-- The number of partitions (R655). -/
def astcPartitions (b : Block) : Nat := field b 11 2 + 1

/-- The selector of the endpoint modes of a block with several partitions (R662). -/
def astcSel (b : Block) : Nat := field b 23 2

/-- The partitions have endpoint modes of their own (R662). -/
def astcMultiCem (b : Block) : Bool := decide (astcPartitions b > 1) && astcSel b != 0

/-- The bits of endpoint mode below the index data (R662). -/
def astcExtraBits (b : Block) : Nat := if astcMultiCem b then 3 * astcPartitions b - 4 else 0

/-- The number of stored indices (R659). -/
def astcIndexCount (m : IndexMode) : Nat := m.n * m.m * (if m.dual then 2 else 1)

/-- The bits of index data (R659). -/
def astcIndexBits (m : IndexMode) : Nat := iseBits (astcIndexCount m) m.range

/-- Where the fields below the index data begin: `e` of R662. -/
def astcExtraLo (b : Block) (m : IndexMode) : Nat := 128 - astcIndexBits m - astcExtraBits b

/-- The endpoint-mode field of several partitions (R662). -/
def astcCemField (b : Block) (m : IndexMode) : Nat := field b 25 4 + 16 * field b (astcExtraLo b m) (astcExtraBits b)

/-- The endpoint mode of partition `i` (R661, R662). -/
def astcCemOf (b : Block) (m : IndexMode) (i : Nat) : Nat :=
  if astcPartitions b = 1 then field b 13 4
  else if astcSel b = 0 then field b 25 4
  else
    let f := astcCemField b m
    4 * (astcSel b - 1 + natBit f i) + streamField f (astcPartitions b + 2 * i) 2

/-- The number of colour values of an endpoint mode (R661, D31). -/
def cemCount (cem : Nat) : Nat := 2 * (cem / 4 + 1)

/-- Where the colour values of partition `i` begin (R663). -/
def astcValueLo (b : Block) (m : IndexMode) : Nat → Nat
  | 0 => 0
  | i + 1 => astcValueLo b m i + cemCount (astcCemOf b m i)

/-- The number of colour values of a block (R663). -/
def astcValueCount (b : Block) (m : IndexMode) : Nat := astcValueLo b m (astcPartitions b)

/-- The bits of a block that are neither index nor colour data (R663, C39). -/
def astcConfigBits (b : Block) (m : IndexMode) : Nat :=
  (if astcPartitions b = 1 then 17 else if astcMultiCem b then 25 + 3 * astcPartitions b else 29) + (if m.dual then 2 else 0)

/-- The colour ranges, the largest first (R663). -/
def colourRanges : List IseRange :=
  [⟨0, 0, 8⟩, ⟨1, 0, 6⟩, ⟨0, 1, 5⟩, ⟨0, 0, 7⟩, ⟨1, 0, 5⟩, ⟨0, 1, 4⟩, ⟨0, 0, 6⟩, ⟨1, 0, 4⟩, ⟨0, 1, 3⟩, ⟨0, 0, 5⟩, ⟨1, 0, 3⟩,
   ⟨0, 1, 2⟩, ⟨0, 0, 4⟩, ⟨1, 0, 2⟩, ⟨0, 1, 1⟩, ⟨0, 0, 3⟩, ⟨1, 0, 1⟩]

/-- The range of the colour values: the largest that fits (R663); none where 0..5 does not fit (R688 item 7). -/
def astcColourRange (b : Block) (m : IndexMode) : Option IseRange :=
  colourRanges.find? fun r =>
    decide (iseBits (astcValueCount b m) r + astcConfigBits b m + astcIndexBits m ≤ 128)

/-- The block is legal but for the fit of its colour values (R659, R688 items 2-6, 8). -/
def astcLegal (f : AstcFormat) (b : Block) (m : IndexMode) : Bool :=
  decide (astcIndexCount m ≤ 64) && decide (24 ≤ astcIndexBits m) && decide (astcIndexBits m ≤ 96)
    && decide (m.n ≤ f.width) && decide (m.m ≤ f.height) && decide (astcValueCount b m ≤ 18)
    && !(m.dual && astcPartitions b == 4)

/-- Where the colour data begins (R655). -/
def astcColourLo (b : Block) : Nat := if astcPartitions b = 1 then 17 else 29

/-- The unquantised colour values (R670). -/
def astcColours (b : Block) (m : IndexMode) (r : IseRange) : List Nat :=
  (iseSequence r (astcValueCount b m) (b.toNat / 2 ^ astcColourLo b)).map (unquantColour r)

/-- The endpoints of a partition. -/
def astcPartitionEnds (b : Block) (m : IndexMode) (colours : List Nat) (p : Nat) : AstcPair :=
  astcEndpoints (astcCemOf b m p) fun k => colours.getD (astcValueLo b m p + k) 0

/-- The low `n` bits of a number, reversed. -/
def reverseBits : Nat → Nat → Nat
  | 0, _ => 0
  | n + 1, v => v % 2 * 2 ^ n + reverseBits n (v / 2)

/-- The unquantised indices: the stream grows downward from bit 127 (R679, R680). -/
def astcIndices (b : Block) (m : IndexMode) : List Nat :=
  (iseSequence m.range (astcIndexCount m) (reverseBits 128 b.toNat)).map (unquantIndex m.range)

/-- The effective index of a plane at a texel (R679, R681). -/
def astcIndexAt (f : AstcFormat) (m : IndexMode) (indices : List Nat) (plane s t : Nat) : Nat :=
  infill f.width f.height m.n m.m
    (fun x y => indices.getD (if m.dual then 2 * (x + y * m.n) + plane else x + y * m.n) 0) s t

/-- The partition of a texel (R686). -/
def astcPartitionAt (f : AstcFormat) (b : Block) (s t : Nat) : Nat :=
  if astcPartitions b = 1 then 0
  else selectPartition (field b 13 10) s t (astcPartitions b) (decide (f.width * f.height < 31))

/-- The texel of an LDR endpoint mode in a U8sRGB format (R683). -/
def astcU8Texel (p : AstcPair) (i : Nat → Nat) : Texel :=
  ⟨colourChan true (ldrUnorm8 p.e0.r p.e1.r (i 0)), colourChan true (ldrUnorm8 p.e0.g p.e1.g (i 1)),
   colourChan true (ldrUnorm8 p.e0.b p.e1.b (i 2)), .unorm (ldrUnorm8 p.e0.a p.e1.a (i 3)) 255⟩

/-- The texel of an FP16 format: HDR components by R684, LDR ones by R683. -/
def astcHalfTexel (cem : Nat) (p : AstcPair) (i : Nat → Nat) : Texel :=
  let colour := if cemHdr cem then hdrHalf else ldrHalf
  let alpha := if cemHdrAlpha cem then hdrHalf else ldrHalf
  ⟨colour p.e0.r p.e1.r (i 0), colour p.e0.g p.e1.g (i 1), colour p.e0.b p.e1.b (i 2), alpha p.e0.a p.e1.a (i 3)⟩

/-- A texel from its endpoints and the index of each component (R683-R685, R688). -/
def astcTexel (p : AstcProfile) (cem : Nat) (ends : AstcPair) (i : Nat → Nat) : Texel :=
  match p with
  | .u8srgb => if cemHdr cem then astcErrorTexel p else astcU8Texel ends i
  | .ldrFlt16 => if cemHdr cem then astcErrorTexel p else astcHalfTexel cem ends i
  | .fullFlt16 => astcHalfTexel cem ends i

/-- The component of the second plane (R664). -/
def astcCcs (b : Block) (m : IndexMode) : Nat := field b (astcExtraLo b m - 2) 2

/-- The texel of a legal block (R685, R690). -/
def astcTexelAt (f : AstcFormat) (b : Block) (m : IndexMode) (colours indices : List Nat) (s t : Nat) : Texel :=
  let p := astcPartitionAt f b s t
  astcTexel f.profile (astcCemOf b m p) (astcPartitionEnds b m colours p) fun c =>
    astcIndexAt f m indices (if m.dual ∧ c = astcCcs b m then 1 else 0) s t

/-- A block with an index mode (R690). -/
def astcModeBlock (f : AstcFormat) (b : Block) (m : IndexMode) : TexelBlock :=
  if astcLegal f b m then
    match astcColourRange b m with
    | some r => astcTexels f (astcTexelAt f b m (astcColours b m r) (astcIndices b m))
    | none => astcErrorBlock f
  else astcErrorBlock f

/-- An ASTC block in the format in force (R690). -/
def astcBlock (f : AstcFormat) (b : Block) (s : State) : TexelBlock :=
  match indexMode (astcModeBits b) with
  | some m => astcModeBlock f b m
  | none => if astcClass (astcModeBits b) = .voidExtent then astcVoidBlock f b s else astcErrorBlock f

end Sys2Proof.Machine
end

