-- ==== Sys2Proof/Machine/AstcObjects.lean ====
section
/-! DEFINITION. The meanings of the ASTC blocks and surface formats (R650-R690). -/

namespace Sys2Proof.Machine

open Sys2Proof

/-- ASTC_VOID_EXTENT_2D: the block decodes under the surface format in force (R665). -/
def execAstcVoidExtent2d (b : Block) (s : State) : Host.Outcome State Fault Refusal :=
  toOutcome (.ok (latchBlock (astcBlock s.astcFormat b s) s))

/-- ASTC_RESERVED_MODE_A: the block decodes under the surface format in force (R657, R688). -/
def execAstcReservedModeA (b : Block) (s : State) : Host.Outcome State Fault Refusal :=
  toOutcome (.ok (latchBlock (astcBlock s.astcFormat b s) s))

/-- ASTC_RESERVED_MODE_B: the block decodes under the surface format in force (R657, R688). -/
def execAstcReservedModeB (b : Block) (s : State) : Host.Outcome State Fault Refusal :=
  toOutcome (.ok (latchBlock (astcBlock s.astcFormat b s) s))

/-- ASTC_MODE_W_Bp4_H_Ap2: the block decodes under the surface format in force (R657, R690). -/
def execAstcModeWBp4HAp2 (b : Block) (s : State) : Host.Outcome State Fault Refusal :=
  toOutcome (.ok (latchBlock (astcBlock s.astcFormat b s) s))

/-- ASTC_MODE_W_Bp8_H_Ap2: the block decodes under the surface format in force (R657, R690). -/
def execAstcModeWBp8HAp2 (b : Block) (s : State) : Host.Outcome State Fault Refusal :=
  toOutcome (.ok (latchBlock (astcBlock s.astcFormat b s) s))

/-- ASTC_MODE_W_Ap2_H_Bp8: the block decodes under the surface format in force (R657, R690). -/
def execAstcModeWAp2HBp8 (b : Block) (s : State) : Host.Outcome State Fault Refusal :=
  toOutcome (.ok (latchBlock (astcBlock s.astcFormat b s) s))

/-- ASTC_MODE_W_Ap2_H_Bp6: the block decodes under the surface format in force (R657, R690). -/
def execAstcModeWAp2HBp6 (b : Block) (s : State) : Host.Outcome State Fault Refusal :=
  toOutcome (.ok (latchBlock (astcBlock s.astcFormat b s) s))

/-- ASTC_MODE_W_Bp2_H_Ap2: the block decodes under the surface format in force (R657, R690). -/
def execAstcModeWBp2HAp2 (b : Block) (s : State) : Host.Outcome State Fault Refusal :=
  toOutcome (.ok (latchBlock (astcBlock s.astcFormat b s) s))

/-- ASTC_MODE_W_12_H_Ap2: the block decodes under the surface format in force (R657, R690). -/
def execAstcModeW12HAp2 (b : Block) (s : State) : Host.Outcome State Fault Refusal :=
  toOutcome (.ok (latchBlock (astcBlock s.astcFormat b s) s))

/-- ASTC_MODE_W_Ap2_H_12: the block decodes under the surface format in force (R657, R690). -/
def execAstcModeWAp2H12 (b : Block) (s : State) : Host.Outcome State Fault Refusal :=
  toOutcome (.ok (latchBlock (astcBlock s.astcFormat b s) s))

/-- ASTC_MODE_W_6_H_10: the block decodes under the surface format in force (R657, R690). -/
def execAstcModeW6H10 (b : Block) (s : State) : Host.Outcome State Fault Refusal :=
  toOutcome (.ok (latchBlock (astcBlock s.astcFormat b s) s))

/-- ASTC_MODE_W_10_H_6: the block decodes under the surface format in force (R657, R690). -/
def execAstcModeW10H6 (b : Block) (s : State) : Host.Outcome State Fault Refusal :=
  toOutcome (.ok (latchBlock (astcBlock s.astcFormat b s) s))

/-- ASTC_MODE_W_Ap6_H_Bp6: the block decodes under the surface format in force (R657, R690). -/
def execAstcModeWAp6HBp6 (b : Block) (s : State) : Host.Outcome State Fault Refusal :=
  toOutcome (.ok (latchBlock (astcBlock s.astcFormat b s) s))

/-- ASTC_CEM_0: the block decodes under the surface format in force (R661, R690). -/
def execAstcCem0 (b : Block) (s : State) : Host.Outcome State Fault Refusal :=
  toOutcome (.ok (latchBlock (astcBlock s.astcFormat b s) s))

/-- ASTC_CEM_1: the block decodes under the surface format in force (R661, R690). -/
def execAstcCem1 (b : Block) (s : State) : Host.Outcome State Fault Refusal :=
  toOutcome (.ok (latchBlock (astcBlock s.astcFormat b s) s))

/-- ASTC_CEM_2: the block decodes under the surface format in force (R661, R690). -/
def execAstcCem2 (b : Block) (s : State) : Host.Outcome State Fault Refusal :=
  toOutcome (.ok (latchBlock (astcBlock s.astcFormat b s) s))

/-- ASTC_CEM_3: the block decodes under the surface format in force (R661, R690). -/
def execAstcCem3 (b : Block) (s : State) : Host.Outcome State Fault Refusal :=
  toOutcome (.ok (latchBlock (astcBlock s.astcFormat b s) s))

/-- ASTC_CEM_4: the block decodes under the surface format in force (R661, R690). -/
def execAstcCem4 (b : Block) (s : State) : Host.Outcome State Fault Refusal :=
  toOutcome (.ok (latchBlock (astcBlock s.astcFormat b s) s))

/-- ASTC_CEM_5: the block decodes under the surface format in force (R661, R690). -/
def execAstcCem5 (b : Block) (s : State) : Host.Outcome State Fault Refusal :=
  toOutcome (.ok (latchBlock (astcBlock s.astcFormat b s) s))

/-- ASTC_CEM_6: the block decodes under the surface format in force (R661, R690). -/
def execAstcCem6 (b : Block) (s : State) : Host.Outcome State Fault Refusal :=
  toOutcome (.ok (latchBlock (astcBlock s.astcFormat b s) s))

/-- ASTC_CEM_7: the block decodes under the surface format in force (R661, R690). -/
def execAstcCem7 (b : Block) (s : State) : Host.Outcome State Fault Refusal :=
  toOutcome (.ok (latchBlock (astcBlock s.astcFormat b s) s))

/-- ASTC_CEM_8: the block decodes under the surface format in force (R661, R690). -/
def execAstcCem8 (b : Block) (s : State) : Host.Outcome State Fault Refusal :=
  toOutcome (.ok (latchBlock (astcBlock s.astcFormat b s) s))

/-- ASTC_CEM_9: the block decodes under the surface format in force (R661, R690). -/
def execAstcCem9 (b : Block) (s : State) : Host.Outcome State Fault Refusal :=
  toOutcome (.ok (latchBlock (astcBlock s.astcFormat b s) s))

/-- ASTC_CEM_10: the block decodes under the surface format in force (R661, R690). -/
def execAstcCem10 (b : Block) (s : State) : Host.Outcome State Fault Refusal :=
  toOutcome (.ok (latchBlock (astcBlock s.astcFormat b s) s))

/-- ASTC_CEM_11: the block decodes under the surface format in force (R661, R690). -/
def execAstcCem11 (b : Block) (s : State) : Host.Outcome State Fault Refusal :=
  toOutcome (.ok (latchBlock (astcBlock s.astcFormat b s) s))

/-- ASTC_CEM_12: the block decodes under the surface format in force (R661, R690). -/
def execAstcCem12 (b : Block) (s : State) : Host.Outcome State Fault Refusal :=
  toOutcome (.ok (latchBlock (astcBlock s.astcFormat b s) s))

/-- ASTC_CEM_13: the block decodes under the surface format in force (R661, R690). -/
def execAstcCem13 (b : Block) (s : State) : Host.Outcome State Fault Refusal :=
  toOutcome (.ok (latchBlock (astcBlock s.astcFormat b s) s))

/-- ASTC_CEM_14: the block decodes under the surface format in force (R661, R690). -/
def execAstcCem14 (b : Block) (s : State) : Host.Outcome State Fault Refusal :=
  toOutcome (.ok (latchBlock (astcBlock s.astcFormat b s) s))

/-- ASTC_CEM_15: the block decodes under the surface format in force (R661, R690). -/
def execAstcCem15 (b : Block) (s : State) : Host.Outcome State Fault Refusal :=
  toOutcome (.ok (latchBlock (astcBlock s.astcFormat b s) s))

/-- The surface format ASTC_LDR_2D_4x4_U8sRGB (R651). -/
def execAstcLdr2d4x4U8srgb (s : State) : Host.Outcome State Fault Refusal :=
  toOutcome (.ok { s with astcFormat := ⟨4, 4, .u8srgb⟩ })

/-- The surface format ASTC_LDR_2D_5x4_U8sRGB (R651). -/
def execAstcLdr2d5x4U8srgb (s : State) : Host.Outcome State Fault Refusal :=
  toOutcome (.ok { s with astcFormat := ⟨5, 4, .u8srgb⟩ })

/-- The surface format ASTC_LDR_2D_5x5_U8sRGB (R651). -/
def execAstcLdr2d5x5U8srgb (s : State) : Host.Outcome State Fault Refusal :=
  toOutcome (.ok { s with astcFormat := ⟨5, 5, .u8srgb⟩ })

/-- The surface format ASTC_LDR_2D_6x5_U8sRGB (R651). -/
def execAstcLdr2d6x5U8srgb (s : State) : Host.Outcome State Fault Refusal :=
  toOutcome (.ok { s with astcFormat := ⟨6, 5, .u8srgb⟩ })

/-- The surface format ASTC_LDR_2D_6x6_U8sRGB (R651). -/
def execAstcLdr2d6x6U8srgb (s : State) : Host.Outcome State Fault Refusal :=
  toOutcome (.ok { s with astcFormat := ⟨6, 6, .u8srgb⟩ })

/-- The surface format ASTC_LDR_2D_8x5_U8sRGB (R651). -/
def execAstcLdr2d8x5U8srgb (s : State) : Host.Outcome State Fault Refusal :=
  toOutcome (.ok { s with astcFormat := ⟨8, 5, .u8srgb⟩ })

/-- The surface format ASTC_LDR_2D_8x6_U8sRGB (R651). -/
def execAstcLdr2d8x6U8srgb (s : State) : Host.Outcome State Fault Refusal :=
  toOutcome (.ok { s with astcFormat := ⟨8, 6, .u8srgb⟩ })

/-- The surface format ASTC_LDR_2D_10x5_U8sRGB (R651). -/
def execAstcLdr2d10x5U8srgb (s : State) : Host.Outcome State Fault Refusal :=
  toOutcome (.ok { s with astcFormat := ⟨10, 5, .u8srgb⟩ })

/-- The surface format ASTC_LDR_2D_10x6_U8sRGB (R651). -/
def execAstcLdr2d10x6U8srgb (s : State) : Host.Outcome State Fault Refusal :=
  toOutcome (.ok { s with astcFormat := ⟨10, 6, .u8srgb⟩ })

/-- The surface format ASTC_LDR_2D_8x8_U8sRGB (R651). -/
def execAstcLdr2d8x8U8srgb (s : State) : Host.Outcome State Fault Refusal :=
  toOutcome (.ok { s with astcFormat := ⟨8, 8, .u8srgb⟩ })

/-- The surface format ASTC_LDR_2D_10x8_U8sRGB (R651). -/
def execAstcLdr2d10x8U8srgb (s : State) : Host.Outcome State Fault Refusal :=
  toOutcome (.ok { s with astcFormat := ⟨10, 8, .u8srgb⟩ })

/-- The surface format ASTC_LDR_2D_10x10_U8sRGB (R651). -/
def execAstcLdr2d10x10U8srgb (s : State) : Host.Outcome State Fault Refusal :=
  toOutcome (.ok { s with astcFormat := ⟨10, 10, .u8srgb⟩ })

/-- The surface format ASTC_LDR_2D_12x10_U8sRGB (R651). -/
def execAstcLdr2d12x10U8srgb (s : State) : Host.Outcome State Fault Refusal :=
  toOutcome (.ok { s with astcFormat := ⟨12, 10, .u8srgb⟩ })

/-- The surface format ASTC_LDR_2D_12x12_U8sRGB (R651). -/
def execAstcLdr2d12x12U8srgb (s : State) : Host.Outcome State Fault Refusal :=
  toOutcome (.ok { s with astcFormat := ⟨12, 12, .u8srgb⟩ })

/-- The surface format ASTC_LDR_2D_4x4_FLT16 (R651). -/
def execAstcLdr2d4x4Flt16 (s : State) : Host.Outcome State Fault Refusal :=
  toOutcome (.ok { s with astcFormat := ⟨4, 4, .ldrFlt16⟩ })

/-- The surface format ASTC_LDR_2D_5x4_FLT16 (R651). -/
def execAstcLdr2d5x4Flt16 (s : State) : Host.Outcome State Fault Refusal :=
  toOutcome (.ok { s with astcFormat := ⟨5, 4, .ldrFlt16⟩ })

/-- The surface format ASTC_LDR_2D_5x5_FLT16 (R651). -/
def execAstcLdr2d5x5Flt16 (s : State) : Host.Outcome State Fault Refusal :=
  toOutcome (.ok { s with astcFormat := ⟨5, 5, .ldrFlt16⟩ })

/-- The surface format ASTC_LDR_2D_6x5_FLT16 (R651). -/
def execAstcLdr2d6x5Flt16 (s : State) : Host.Outcome State Fault Refusal :=
  toOutcome (.ok { s with astcFormat := ⟨6, 5, .ldrFlt16⟩ })

/-- The surface format ASTC_LDR_2D_6x6_FLT16 (R651). -/
def execAstcLdr2d6x6Flt16 (s : State) : Host.Outcome State Fault Refusal :=
  toOutcome (.ok { s with astcFormat := ⟨6, 6, .ldrFlt16⟩ })

/-- The surface format ASTC_LDR_2D_8x5_FLT16 (R651). -/
def execAstcLdr2d8x5Flt16 (s : State) : Host.Outcome State Fault Refusal :=
  toOutcome (.ok { s with astcFormat := ⟨8, 5, .ldrFlt16⟩ })

/-- The surface format ASTC_LDR_2D_8x6_FLT16 (R651). -/
def execAstcLdr2d8x6Flt16 (s : State) : Host.Outcome State Fault Refusal :=
  toOutcome (.ok { s with astcFormat := ⟨8, 6, .ldrFlt16⟩ })

/-- The surface format ASTC_LDR_2D_10x5_FLT16 (R651). -/
def execAstcLdr2d10x5Flt16 (s : State) : Host.Outcome State Fault Refusal :=
  toOutcome (.ok { s with astcFormat := ⟨10, 5, .ldrFlt16⟩ })

/-- The surface format ASTC_LDR_2D_10x6_FLT16 (R651). -/
def execAstcLdr2d10x6Flt16 (s : State) : Host.Outcome State Fault Refusal :=
  toOutcome (.ok { s with astcFormat := ⟨10, 6, .ldrFlt16⟩ })

/-- The surface format ASTC_LDR_2D_8x8_FLT16 (R651). -/
def execAstcLdr2d8x8Flt16 (s : State) : Host.Outcome State Fault Refusal :=
  toOutcome (.ok { s with astcFormat := ⟨8, 8, .ldrFlt16⟩ })

/-- The surface format ASTC_LDR_2D_10x8_FLT16 (R651). -/
def execAstcLdr2d10x8Flt16 (s : State) : Host.Outcome State Fault Refusal :=
  toOutcome (.ok { s with astcFormat := ⟨10, 8, .ldrFlt16⟩ })

/-- The surface format ASTC_LDR_2D_10x10_FLT16 (R651). -/
def execAstcLdr2d10x10Flt16 (s : State) : Host.Outcome State Fault Refusal :=
  toOutcome (.ok { s with astcFormat := ⟨10, 10, .ldrFlt16⟩ })

/-- The surface format ASTC_LDR_2D_12x10_FLT16 (R651). -/
def execAstcLdr2d12x10Flt16 (s : State) : Host.Outcome State Fault Refusal :=
  toOutcome (.ok { s with astcFormat := ⟨12, 10, .ldrFlt16⟩ })

/-- The surface format ASTC_LDR_2D_12x12_FLT16 (R651). -/
def execAstcLdr2d12x12Flt16 (s : State) : Host.Outcome State Fault Refusal :=
  toOutcome (.ok { s with astcFormat := ⟨12, 12, .ldrFlt16⟩ })

/-- The surface format ASTC_FULL_2D_4x4_FLT16 (R651). -/
def execAstcFull2d4x4Flt16 (s : State) : Host.Outcome State Fault Refusal :=
  toOutcome (.ok { s with astcFormat := ⟨4, 4, .fullFlt16⟩ })

/-- The surface format ASTC_FULL_2D_5x4_FLT16 (R651). -/
def execAstcFull2d5x4Flt16 (s : State) : Host.Outcome State Fault Refusal :=
  toOutcome (.ok { s with astcFormat := ⟨5, 4, .fullFlt16⟩ })

/-- The surface format ASTC_FULL_2D_5x5_FLT16 (R651). -/
def execAstcFull2d5x5Flt16 (s : State) : Host.Outcome State Fault Refusal :=
  toOutcome (.ok { s with astcFormat := ⟨5, 5, .fullFlt16⟩ })

/-- The surface format ASTC_FULL_2D_6x5_FLT16 (R651). -/
def execAstcFull2d6x5Flt16 (s : State) : Host.Outcome State Fault Refusal :=
  toOutcome (.ok { s with astcFormat := ⟨6, 5, .fullFlt16⟩ })

/-- The surface format ASTC_FULL_2D_6x6_FLT16 (R651). -/
def execAstcFull2d6x6Flt16 (s : State) : Host.Outcome State Fault Refusal :=
  toOutcome (.ok { s with astcFormat := ⟨6, 6, .fullFlt16⟩ })

/-- The surface format ASTC_FULL_2D_8x5_FLT16 (R651). -/
def execAstcFull2d8x5Flt16 (s : State) : Host.Outcome State Fault Refusal :=
  toOutcome (.ok { s with astcFormat := ⟨8, 5, .fullFlt16⟩ })

/-- The surface format ASTC_FULL_2D_8x6_FLT16 (R651). -/
def execAstcFull2d8x6Flt16 (s : State) : Host.Outcome State Fault Refusal :=
  toOutcome (.ok { s with astcFormat := ⟨8, 6, .fullFlt16⟩ })

/-- The surface format ASTC_FULL_2D_10x5_FLT16 (R651). -/
def execAstcFull2d10x5Flt16 (s : State) : Host.Outcome State Fault Refusal :=
  toOutcome (.ok { s with astcFormat := ⟨10, 5, .fullFlt16⟩ })

/-- The surface format ASTC_FULL_2D_10x6_FLT16 (R651). -/
def execAstcFull2d10x6Flt16 (s : State) : Host.Outcome State Fault Refusal :=
  toOutcome (.ok { s with astcFormat := ⟨10, 6, .fullFlt16⟩ })

/-- The surface format ASTC_FULL_2D_8x8_FLT16 (R651). -/
def execAstcFull2d8x8Flt16 (s : State) : Host.Outcome State Fault Refusal :=
  toOutcome (.ok { s with astcFormat := ⟨8, 8, .fullFlt16⟩ })

/-- The surface format ASTC_FULL_2D_10x8_FLT16 (R651). -/
def execAstcFull2d10x8Flt16 (s : State) : Host.Outcome State Fault Refusal :=
  toOutcome (.ok { s with astcFormat := ⟨10, 8, .fullFlt16⟩ })

/-- The surface format ASTC_FULL_2D_10x10_FLT16 (R651). -/
def execAstcFull2d10x10Flt16 (s : State) : Host.Outcome State Fault Refusal :=
  toOutcome (.ok { s with astcFormat := ⟨10, 10, .fullFlt16⟩ })

/-- The surface format ASTC_FULL_2D_12x10_FLT16 (R651). -/
def execAstcFull2d12x10Flt16 (s : State) : Host.Outcome State Fault Refusal :=
  toOutcome (.ok { s with astcFormat := ⟨12, 10, .fullFlt16⟩ })

/-- The surface format ASTC_FULL_2D_12x12_FLT16 (R651). -/
def execAstcFull2d12x12Flt16 (s : State) : Host.Outcome State Fault Refusal :=
  toOutcome (.ok { s with astcFormat := ⟨12, 12, .fullFlt16⟩ })

end Sys2Proof.Machine
end

