-- ==== Sys2Proof/Machine/Flags.lean ====
section
/-! DEFINITION. The sticky flags that hardware sets in paging entries (R420-R450): Accessed (bit 5), Dirty (bit 6), Extended
Access (bit 10). These are the only flags of the machine (R20). -/

namespace Sys2Proof.Machine

open Sys2Proof

/-- The Accessed flag. -/
def flagA : QWord := 0x20
/-- The Dirty flag. -/
def flagD : QWord := 0x40
/-- The Extended Access flag. -/
def flagEA : QWord := 0x400

/-- `new` of `PageAtomic(i, w, e, r)` (R420). -/
def pageAtomic (i w e r : Bool) (q : QWord) : QWord :=
  let leaf := !i || bit q 7
  let wfault := r && w && !bit q 1
  if !bit q 0 then q
  else if wfault && !leaf then q
  else q ||| flagA ||| (if e then flagEA else 0) ||| (if r && leaf && !wfault then flagD else 0)

/-- The read form of the second family (R443; R441, R442, R444, R445 behave exactly the same). -/
def aUpdate (q : QWord) : QWord := if !bit q 0 then q else q ||| flagA

/-- The write form of the second family that checks Present and R/W (R447; R446). -/
def adUpdate (q : QWord) : QWord := if !bit q 0 || !bit q 1 then q else q ||| flagA ||| flagD

/-- The write form for which read-only does not matter (R448). -/
def adUpdateIgnoringRo (q : QWord) : QWord := if !bit q 0 then q else q ||| flagA ||| flagD

/-- The 8-bit opcode GAM issues (R195, R330, R437): intermediate, WPE, EA, R/W. -/
def atomicOpcode (i w e r : Bool) : Byte :=
  0xC0 ||| (if i then 8 else 0) ||| (if w then 4 else 0) ||| (if e then 2 else 0) ||| (if r then 1 else 0)

/-- Applies a flag computation to the QWord at `pa`: one indivisible read, compute, write; memory is written only when the
value changes (R420). -/
def applyAtomic (f : QWord → QWord) (s : State) (pa : Nat) : QWord × State :=
  let q := mem64 s pa
  let n := f q
  (n, if n = q then s else store s pa 8 n Writer.gam)

/-- The MTRR type of a physical address (R157, R480): that of the last listed range that covers it (DESIGN CHOICE, log entry 65);
outside every range an open one. -/
def mtrrType (s : State) (pa : Nat) : MemType :=
  s.memRanges.foldl (fun t r => if r.base ≤ pa ∧ pa < r.base + r.size then r.ty else t) (Config.mtrrDefault (pa / 4096))

/-- A context entry is that of a function and PASID. -/
def IommuCtx.isFor (c : IommuCtx) (fn : BitVec 3) (pasid : BitVec 20) : Bool := c.fn == fn && c.pasid == pasid

/-- The IOMMU context of a function and PASID, as the tables hold it now (R343, I44). -/
def iommuLookup (s : State) (fn : BitVec 3) (pasid : BitVec 20) : Option IommuCtx :=
  s.iommu.find? fun c => c.isFor fn pasid

/-- Every copy of that context an engine may use: the tables' own, the Context Cache's, its PASID Cache's (R56, R57, R350). -/
def contextCopies (s : State) (e : Engine) (fn : BitVec 3) (pasid : BitVec 20) : List IommuCtx :=
  (iommuLookup s fn pasid).toList ++ s.contextCache.filter (fun c => c.isFor fn pasid)
    ++ (engineOf s e).pasidCache.toList.filter (fun c => c.isFor fn pasid)

/-- The context that an engine uses: any of those copies (R351: a cached one may be used, or have been dropped). -/
def contextInForce (s : State) (e : Engine) (fn : BitVec 3) (pasid : BitVec 20) : Option IommuCtx :=
  match contextCopies s e fn pasid with
  | [] => none
  | [c] => some c
  | c :: r => some ((c :: r).getD (choiceAt s 6 % (r.length + 1)) c)

/-- The CD control of the context in force of an engine under a descriptor (R452, I44); 0 where the IOMMU supplies none. -/
def cdOf (s : State) (e : Engine) (desc : QWord) : Bool :=
  match contextInForce s e (desc.extractLsb' 9 3) (pasidOf (engineOf s e)) with
  | some c => c.cd
  | none => false

/-- The CD control of the loaded context of an engine. -/
def contextCd (s : State) (e : Engine) : Bool := cdOf s e (pointersOf (engineOf s e)).desc

/-- An atomic on a paging entry at `pa` may proceed: its memory is write-back and CD is 0, or the option bit ignores the type
(R452, R485). The type of an entry's own location is that of its MTRR range alone (DESIGN CHOICE, log entry 65: R480 gives no type
per class of access). -/
def adUpdateAllowed (s : State) (pa : Nat) (cd : Bool) : Bool :=
  bit s.regs.adNonWb 1 || (decide (mtrrType s pa = .wb) && !cd)

end Sys2Proof.Machine
end

