-- ==== Sys2Proof/Machine/Operands.lean ====
section
/-! DEFINITION. How operands are read: virtual-address fields, descriptor fields, entry address fields, memory types. -/

namespace Sys2Proof.Machine

open Sys2Proof

/-! ### Virtual addresses (R205) -/

/-- The 9-bit index of a walk level: PML4 va[47:39], PDP va[38:30], PD va[29:21], PT va[20:12] (R310). -/
def levelIndex (va : QWord) (level : Nat) : Nat := field va (12 + 9 * (level - 1)) 9

/-- The PT index of a 64 KB page: va[20:16] followed by four zeros (R313). -/
def index64k (va : QWord) : Nat := field va 16 5 * 16

/-- Splits an address of a 4-level mode (R205). -/
def splitVa (va : QWord) : VaIndices :=
  ⟨levelIndex va 4, levelIndex va 3, levelIndex va 2, levelIndex va 1, index64k va, field va 0 12⟩

/-- Splits an address of the legacy 32-bit mode: va[31:30] selects the PDP register (R205, R341). -/
def splitVa32 (va : QWord) : VaIndices :=
  ⟨0, field va 30 2, levelIndex va 2, levelIndex va 1, index64k va, field va 0 12⟩

/-- Splits a global address (R205, R340). -/
def splitGgtt (va : QWord) : VaIndices := ⟨0, 0, 0, field va 12 20, 0, field va 0 12⟩

/-- Splits an address of the TR-VA window: L3, L2, L1 indices (R205, R400); `pml4` holds the window bits va[47:44]. -/
def splitTrtt (va : QWord) : VaIndices :=
  ⟨field va 44 4, field va 35 9, field va 26 9, field va 16 10, 0, field va 0 16⟩

/-- The byte offset of the GGTT entry that MI_UPDATE_GTT names: page_address[31:12] << 3 (R206). -/
def ggttEntryOffset (addr : Word) : Nat := field addr 12 20 * 8

/-! ### Entries -/

/-- The ADDR field `e[HAW-1:lo]`, as an address (R312; bits 63:HAW are ignored or reserved, I41). -/
def entryAddr (haw lo : Nat) (e : QWord) : Nat := e.toNat % 2 ^ haw / 2 ^ lo * 2 ^ lo

/-- The low `k` bits of an address. -/
def pageOffset (va : QWord) (k : Nat) : Nat := va.toNat % 2 ^ k

/-- PAT, PCD, PWT of a leaf: PAT is bit 12 of a 1 GB or 2 MB page and bit 7 of a PTE (R173-R177, R187). -/
def typeBitsOf (large : Bool) (e : QWord) : BitVec 3 :=
  BitVec.ofNat 3 ((if large then bitN e 12 else bitN e 7) * 4 + bitN e 4 * 2 + bitN e 3)

/-! ### Registers -/

/-- The GAM_MOCS block of an engine (R52, I14). -/
def mocsBlock (p : Params) : Engine → Nat
  | .rcs => p.mocsBlockRcs
  | .vcs0 => p.mocsBlockVcs0
  | .vcs1 => p.mocsBlockVcs1
  | .vecs => p.mocsBlockVecs
  | .bcs => p.mocsBlockBcs

/-- The memory-interface control entry of a request (R461). -/
def gamMocsOf (s : State) (e : Engine) (index : Nat) : Word :=
  s.regs.gamMocs.getD (64 * mocsBlock s.params e + index) 0

/-- The Private PAT registers as one value (R463). -/
def privatePat (s : State) : BitVec 128 := s.regs.pat3 ++ s.regs.pat2 ++ s.regs.pat1 ++ s.regs.pat0

/-! ### Memory types (R199) -/

/-- The HDC-to-L3 control bits [3:2] for a type (R465): WP reads as WB and writes as WC. -/
def l3Control : MemType → Bool → BitVec 2
  | .uc, _ => 0
  | .wc, _ => 1
  | .wt, _ => 2
  | .wp, true => 1
  | .wp, false => 3
  | .wb, _ => 3

/-- The type that the two HDC-to-L3 control bits stand for (R465). -/
def typeOfControl (b : BitVec 2) : MemType :=
  if b = 0 then .uc else if b = 1 then .wc else if b = 2 then .wt else .wb

/-! ### Cache controls (R461-R471) -/

/-- The match of the skip-caching address bits: every enabled bit of addr[11:9] is 0 (R470, R471). -/
def skipMatch (scc addr : Nat) : Bool :=
  (!scc.testBit 0 || !addr.testBit 9) && (!scc.testBit 1 || !addr.testBit 10) && (!scc.testBit 2 || !addr.testBit 11)

/-- The target allows LLC. -/
def CacheTarget.allowsLlc : CacheTarget → Bool
  | .llcOnly => true
  | .llcOrEllc => true
  | .ellcOnly => false
  | .none => false

/-- `SkipCaching(r, type, target, addr)` of R470. -/
def skipCaching (r : Word) (ty : MemType) (target : CacheTarget) (addr : Nat) : MemType × CacheTarget :=
  let scc := field r 8 3
  if scc = 0 ∨ ty = .uc then (ty, target)
  else
    let keep := if bit r 7 then !skipMatch scc addr else skipMatch scc addr
    if keep then (ty, target)
    else if CacheTarget.allowsLlc target then (ty, .ellcOnly)
    else (.uc, .none)

/-- `LLCType(e, m, pte)` of R463. The leaf of a Global GTT entry has no type bits, which count as 000 here (DESIGN CHOICE, log
entry 81). -/
def llcType (s : State) (r : Word) (typeBits : BitVec 3) (addr : Nat) : MemType × CacheTarget :=
  let ty := match field r 0 2 with
    | 0 => Config.pageTableType typeBits (privatePat s)
    | 1 => .uc
    | 2 => .wt
    | _ => .wb
  let target := match field r 2 2 with
    | 0 => Config.pageTableTarget typeBits (privatePat s)
    | 1 => .llcOnly
    | _ => .llcOrEllc
  skipCaching r ty target addr

/-- L3 cacheability from an L3 control entry (R462, R471): a line that skip caching excludes is uncacheable, whatever the client;
00b leaves it to the two HDC-to-L3 control bits, and is reserved for clients that are no EU accesses; the reserved value 10b is one
of UC and WB (I60). For an L3 coherent HDC access those two bits override the memory type of the entry (R465). -/
def l3Cacheability (w : BitVec 16) (addr : Nat) (hdc override : Bool) (bits : BitVec 2) : L3Cacheability :=
  if bit w 0 && !skipMatch (field w 1 3) addr then .uncacheable
  else if override then .byControl bits
  else match field w 4 2 with
    | 0 => if hdc then .byControl bits else .reserved
    | 1 => .uncacheable
    | 2 => .ucOrWb
    | _ => .writeBack

/-- The request is translated in an advanced context (R300). -/
def isAdvanced (r : Request) : Bool := !usesGgtt r && !bit r.desc 3

/-- The effective type of a page in an advanced context (R464). -/
def advancedType (s : State) (e : Engine) (desc : QWord) (typeBits : BitVec 3) (addr : Nat) : MemType :=
  Config.effType typeBits (mtrrType s addr) (cdOf s e desc)

/-- What a cache lookup is for: the engine, the MOCS index, the address, the type bits of the leaf, whether the access is coherent,
of the HDC, a write, and the descriptor of an advanced context. -/
structure CacheQuery where
  eng : Engine
  index : Nat
  addr : Nat
  typeBits : BitVec 3
  coherent : Bool
  hdc : Bool
  isWrite : Bool
  advanced : Option QWord
deriving DecidableEq, Repr

/-- UC with Fence (R463): LeCC = 00 on a coherent cycle of a legacy context. A cycle is coherent if its surface is (DESIGN CHOICE, log
entry 82). -/
def fencedCycle (s : State) (q : CacheQuery) : Bool :=
  q.advanced.isNone && decide (field (gamMocsOf s q.eng q.index) 0 2 = 0) && q.coherent

/-- The access is L3 coherent (R465): of the HDC in an advanced context, to which alone its coherent mode applies (R464); that every such
access is one, whatever bit 5 of the descriptor, is a DESIGN CHOICE (log entry 82). -/
def l3Coherent (q : CacheQuery) : Bool := q.hdc && q.advanced.isSome

/-- The type and the target of a request (R463, R464): in an advanced context both are the page table's, and no field of the MOCS entry
takes part, skip caching neither (DESIGN CHOICE for the target, log entry 83). UC with Fence makes the access uncacheable after skip
caching has gone by the page table's type, so that its target may be the one skip caching leaves (DESIGN CHOICE, log entry 82). Of an L3
coherent access GAM takes the type from the two bits that the HDC passes, which make WP write-back for a read and write-combining for a
write (R465). -/
def typeAndTarget (s : State) (q : CacheQuery) : MemType × CacheTarget :=
  match q.advanced with
  | some d =>
    let ty := advancedType s q.eng d q.typeBits q.addr
    (if l3Coherent q then typeOfControl (l3Control ty q.isWrite) else ty, Config.pageTableTarget q.typeBits (privatePat s))
  | none =>
    let (ty, target) := llcType s (gamMocsOf s q.eng q.index) q.typeBits q.addr
    (if fencedCycle s q then .uc else ty, target)

/-- The controls that a request with a MOCS index and a leaf entry gets (R461-R471). -/
def cacheControlsOf (s : State) (q : CacheQuery) : CacheControls :=
  let (ty, target) := typeAndTarget s q
  { l3 := l3Cacheability (s.regs.lncf.getD q.index 0) q.addr q.hdc (l3Coherent q) (l3Control ty q.isWrite)
    ty := ty
    target := target
    snoop := bit (gamMocsOf s q.eng q.index) 14
    fenced := fencedCycle s q }

/-- The cache query of a request at a translated address: that of the first byte, whose address bits decide skip caching for all of an
access that crosses a 512-byte boundary in its page (R470; DESIGN CHOICE, log entry 59). -/
def cacheQueryOf (r : Request) (index : Nat) (t : Translation) : CacheQuery where
  eng := r.acc.eng
  index := index
  addr := t.pa
  typeBits := t.typeBits
  coherent := r.acc.coherent
  hdc := r.acc.client == .hdc
  isWrite := r.acc.kind != .read
  advanced := if isAdvanced r then some r.desc else none

/-- The type and the target in effect for an access: from the page table, MTRR and CD in an advanced context (R464), from MOCS in a
legacy context (R463); an access controlled by the GTT only takes the page table's (R460). -/
def effectiveControls (s : State) (r : Request) (t : Translation) : MemType × CacheTarget :=
  if r.acc.gttControl && !isAdvanced r then
    (Config.pageTableType t.typeBits (privatePat s), Config.pageTableTarget t.typeBits (privatePat s))
  else typeAndTarget s (cacheQueryOf r r.acc.mocs.toNat t)

/-- The type in effect for an access (R157). -/
def effectiveType (s : State) (r : Request) (t : Translation) : MemType := (effectiveControls s r t).1

/-- The type lets a cache hold the line of a read, or of a write: UC and WC do not (DEDUCED for WC, log entry 77), and WP, which reads as WB
and writes as WC, does for a read (R465). -/
def MemType.cacheable : MemType → Bool → Bool
  | .uc, _ => false
  | .wc, _ => false
  | .wt, _ => true
  | .wp, isWrite => !isWrite
  | .wb, _ => true

/-- The type of a page as GAM reports it to the HDC, before the HDC's control bits come back with an access (R376, R464, R465). -/
def reportedType (s : State) (r : Request) (t : Translation) : MemType :=
  if isAdvanced r then advancedType s r.acc.eng r.desc t.typeBits t.pa else effectiveType s r t

/-- The type an access is performed with: a data atomic that is not aborted runs as on write-back memory (R455, R7). -/
def performedType (s : State) (r : Request) (t : Translation) : MemType :=
  if r.acc.kind = .atomic then .wb else effectiveType s r t

/-- LLC may hold the line of an access (R157): its type is cacheable and its target allows LLC. -/
def llcCaches (s : State) (r : Request) (t : Translation) : Bool :=
  MemType.cacheable (performedType s r t) (r.acc.kind != .read) && CacheTarget.allowsLlc (effectiveControls s r t).2

/-- The access is to be coherent with the processor's caches (R154): a coherent surface, a data atomic (R455), the snoop bit of its MOCS
entry, or, for EU data accesses, the L3 coherency bit of an advanced context's descriptor (R31). -/
def coherentAccess (s : State) (r : Request) : Bool :=
  r.acc.coherent || r.acc.kind == .atomic || (!r.acc.gttControl && bit (gamMocsOf s r.acc.eng r.acc.mocs.toNat) 14)
    || (isAdvanced r && bit r.desc 5 && r.acc.client == .hdc)

/-- How far an access is coherent: not at all where LLC does not cache it, which breaks its coherency whatever it is to be (R154, R157,
R470); else fully where it is to be coherent, and at LLC for every other stream of an advanced context, whatever descriptor bit 5 says of EU
data accesses (R31). -/
def coherencyOf (s : State) (r : Request) (t : Translation) : Coherency :=
  if !llcCaches s r t then .none
  else if coherentAccess s r then .full
  else if isAdvanced r then .atLlc
  else .none

/-- How many entries of history the flushes cover, after which an access of this coherency sees nothing stale: the GPU's own caches
where it is coherent at LLC, both sides' where it is not coherent at all (R154); `none` where nothing is ever stale. -/
def flushedFor (s : State) : Coherency → Option Nat
  | .full => none
  | .atLlc => some s.gpuMark
  | .none => some (min s.gpuMark s.cpuMark)

end Sys2Proof.Machine
end

