-- ==== Sys2Proof/Machine/Walk.lean ====
section
/-! DEFINITION. The page walk (R300-R360): what one entry does to a walk, the four walks, and the meanings of the entries, the
index splits and MI_UPDATE_GTT as single objects. -/

namespace Sys2Proof.Machine

open Sys2Proof

/-- The dialects of paging entries (R170, R311). -/
inductive Dialect where
  | ia32e | legacy64 | legacy32 | ggtt
deriving DecidableEq, Repr

/-- What controls a walk: the dialect, the request's kind, and the PASID and IOMMU controls of an advanced context (R320, R343). -/
structure WalkCtl where
  dialect : Dialect
  isWrite : Bool
  er : Bool
  supervisor : Bool
  ad : Bool
  nxe : Bool
  smep : Bool
  wpe : Bool
  eafe : Bool
  cd : Bool
  en64k : Bool
  pasid : Option (BitVec 20)
deriving DecidableEq, Repr

/-- `Accumulate(acc, e)`: AND of R/W, AND of U/S, OR of XD (R320). -/
def accumulate (acc : Rights) (e : QWord) : Rights := ⟨acc.rw && bit e 1, acc.us && bit e 2, acc.xd || bit e 63⟩

/-- The rights accumulated after an entry of a dialect: access rights are those of IA-32e walks (R320); the bits that an entry of another
dialect ignores are not read (R189, R321). -/
def accumulateIn (d : Dialect) (acc : Rights) (e : QWord) : Rights := if d = .ia32e then accumulate acc e else acc

/-- A reserved bit of an IA-32e entry is set (R331): 51:HAW at every level, bit 7 of a PML4E, 29:13 of a 1 GB page, 20:13 of
a 2 MB page, 15:12 of a 64 KB page. -/
def reservedViolated (haw level : Nat) (ips : Bool) (e : QWord) : Bool :=
  decide (field e haw (52 - haw) ≠ 0)
    || (decide (level = 4) && bit e 7)
    || (decide (level = 3) && bit e 7 && decide (field e 13 17 ≠ 0))
    || (decide (level = 2) && bit e 7 && decide (field e 13 8 ≠ 0))
    || (decide (level = 1) && ips && decide (field e 12 4 ≠ 0))

/-- A user-mode request meets a supervisor entry, or an instruction fetch an XD entry with NXE = 1 (R320): what can be
refused as soon as the entry is read. -/
def privilegeRefused (c : WalkCtl) (acc : Rights) : Bool :=
  (!c.supervisor && !acc.us) || (c.er && c.nxe && acc.xd)

/-- A supervisor fetch with SMEP = 1 needs U/S = 0 in at least one entry: known only at the leaf (R320). -/
def smepRefused (c : WalkCtl) (acc : Rights) : Bool := c.supervisor && c.er && c.smep && acc.us

/-- A write or atomic is refused by R/W = 0 in user mode, or in supervisor mode with WPE = 1 (R320). -/
def writeRefused (c : WalkCtl) (acc : Rights) : Bool := c.isWrite && (!c.supervisor || c.wpe) && !acc.rw

/-- The entry maps a page: at the PT level always, at the PD and PDP levels with PS = 1 where the dialect has large pages
(R187, R311, R341). -/
def isLeaf (d : Dialect) (level : Nat) (e : QWord) : Bool :=
  decide (level = 1) || ((decide (level = 2) || decide (level = 3)) && decide (d ≠ .legacy32) && bit e 7)

/-- The page size of a leaf, as a number of offset bits (R312). -/
def leafBits (level : Nat) (ips : Bool) : Nat :=
  if level = 1 then (if ips then 16 else 12) else if level = 2 then 21 else 30

/-- The translation that a leaf gives (R312, R344). A Global GTT entry has no type bits: 000 (R186, R340; DESIGN CHOICE, log entry 81).
Only an IA-32e leaf has a D bit: for the others a page response sends 0 (R197; DESIGN CHOICE, log entry 89). -/
def leafTranslation (haw : Nat) (d : Dialect) (level : Nat) (ips : Bool) (va e : QWord) (acc : Rights) : Translation :=
  let k := leafBits level ips
  { pa := entryAddr haw k e + pageOffset va k
    pageBits := k
    rights := if d = .ia32e then acc else ⟨decide (d = .ggtt) || bit e 1, true, false⟩
    dirty := decide (d = .ia32e) && bit e 6
    typeBits := if d = .ggtt then 0 else typeBitsOf (decide (level ≠ 1)) e }

/-- `Step(dialect, level, ...)` of R311 on the entry value read: P, reserved bits, U/S then XD / SMEP, R/W, in the order of
R804; in the legacy dialects only the leaf's Null bit and R/W bit (R321, R322). -/
def entryStep (haw : Nat) (c : WalkCtl) (level : Nat) (ips : Bool) (va : QWord) (acc : Rights) (e : QWord) : WalkEnd :=
  let acc' := accumulateIn c.dialect acc e
  let leaf := isLeaf c.dialect level e
  if !bit e 0 then .fault 1 level
  else if c.dialect = .ia32e then
    if reservedViolated haw level ips e then .fault 1 level
    else if privilegeRefused c acc' || (leaf && smepRefused c acc') then .fault 2 level
    else if writeRefused c acc' then .fault 3 level
    else if leaf then .translated (leafTranslation haw c.dialect level ips va e acc')
    else .next (level - 1) (entryAddr haw 12 e) (decide (level = 2) && bit e 11 && c.en64k)
  else if !leaf then .next (level - 1) (entryAddr haw 12 e) (decide (level = 2) && bit e 11 && c.en64k)
  else if c.dialect ≠ .ggtt && bit e 9 then .nullPage
  else if c.dialect ≠ .ggtt && c.isWrite && !bit e 1 then .fault 3 level
  else .translated (leafTranslation haw c.dialect level ips va e acc')

/-- A retained value that the walk may use without memory (R351): in an A/D-managed walk only one whose Accessed flag is set,
and for a write at the leaf only one whose Dirty flag is set (R355, R356). -/
def retainedUsable (c : WalkCtl) (level : Nat) (q : QWord) : Bool :=
  !c.ad || (bit q 5 && (!c.isWrite || !isLeaf c.dialect level q || bit q 6))

/-- The retained values of a QWord for an engine: what memory held there since the last invalidation that covers it, of everything or,
as `covers` says of a value, of less (R351, R371, D16). -/
def retainedValues (s : State) (eng : Engine) (covers : ScopeMark → QWord → Bool) (pa : Nat) : List QWord :=
  (olderWhere (fun o k => o.qaddr == pa / 8 && decide ((engineOf s eng).invMark ≤ k)
    && (engineOf s eng).scopeMarks.all fun m => !covers m o.value || decide (m.mark ≤ k)) s.history).map (·.value)

/-- The invalidation of less than everything covers a cached translation (R370, R371): its PASID, its stage, and the `2^span` bytes
from the start of which it maps the address. -/
def ScopeMark.covers (m : ScopeMark) (pasid : Option (BitVec 20)) (va : QWord) (span : Nat) (leaf : Bool) : Bool :=
  m.pasid.all (fun p => pasid == some p)
    && m.page.all (fun g => g.toNat * 4096 / 2 ^ span == va.toNat % 2 ^ 48 / 2 ^ span)
    && (match m.stage with
      | .all => true
      | .final => leaf
      | .intermediate => !leaf)

/-- How many address bits lie below what an entry of a level maps (R310, R313). -/
def entrySpan (level : Nat) (ips : Bool) : Nat := if level = 1 && ips then 16 else 12 + 9 * (level - 1)

/-- The entry values that a walk may still use (R351): overwritten since the last invalidation that covers them. -/
def retainedEntries (s : State) (eng : Engine) (c : WalkCtl) (va : QWord) (level : Nat) (ips : Bool) (pa : Nat) : List QWord :=
  retainedValues s eng (fun m q => m.covers c.pasid va (entrySpan level ips) (isLeaf c.dialect level q)) pa

/-- Reads the entry at `pa` for a walk: a plain read, or in an A/D-managed walk the atomic of R330; `none` when the atomic
must change an entry in memory that is not write-back (R452): a change of A or D, and, which the rule does not name, one of EA alone
(DESIGN CHOICE, log entry 92). `fresh` forbids retained values (R353). -/
def readEntry (s : State) (eng : Engine) (c : WalkCtl) (fresh : Bool) (va : QWord) (level : Nat) (ips : Bool) (pa : Nat) :
    Res (Option QWord × State) := do
  checkPhys s pa 8
  let kept := if fresh then [] else (retainedEntries s eng c va level ips pa).filter (retainedUsable c level)
  let q := mem64 s pa
  if !kept.isEmpty && decide (choiceAt s level % (kept.length + 1) ≠ 0) then
    pure (some (pickValue s level q kept), s)
  else if c.ad then
    let n := pageAtomic (decide (level ≠ 1)) c.wpe c.eafe c.isWrite q
    if n = q then pure (some q, s)
    else if adUpdateAllowed s pa c.cd then pure (some n, store s pa 8 n Writer.gam)
    else pure (none, s)
  else pure (some q, s)

/-- The entry address at a level (R310, R313). -/
def entryAddress (level base : Nat) (ips : Bool) (va : QWord) : Nat :=
  base + 8 * (if level = 1 && ips then index64k va else levelIndex va level)

/-- A leaf that the GTT cache must not meet (R360, I43): a 2 MB or 1 GB page. -/
def gttCacheViolated (s : State) (c : WalkCtl) (level : Nat) (e : QWord) : Bool :=
  s.params.gttCache && bit e 0 && isLeaf c.dialect level e && decide (1 < level)

/-- Walks down from a level (R311): each read uses the result of the one before. -/
def walkFrom (eng : Engine) (c : WalkCtl) (fresh : Bool) (va : QWord) :
    Nat → Nat → Bool → Rights → State → Res (WalkEnd × State)
  | 0, _, _, _, s => pure (.fault 1 0, s)
  | l + 1, base, ips, acc, s => do
    let (q?, s) ← readEntry s eng c fresh va (l + 1) ips (entryAddress (l + 1) base ips va)
    match q? with
    | none => pure (.nonWb, s)
    | some e =>
      if gttCacheViolated s c (l + 1) e then refuse .gttCacheEnabled
      else match entryStep s.params.haw c (l + 1) ips va acc e with
      | .next _ base' ips' => walkFrom eng c fresh va l base' ips' (accumulateIn c.dialect acc e) s
      | r => pure (r, s)

/-- The Global GTT walk (R340): one level, in GSM; an index beyond the table is a not-present entry (I22). -/
def walkGgtt (eng : Engine) (c : WalkCtl) (fresh : Bool) (va : QWord) (s : State) : Res (WalkEnd × State) :=
  let off := 8 * field va 12 20
  if s.params.gsmSize < off + 8 then pure (.fault 1 1, s)
  else do
    let (q?, s) ← readEntry s eng c fresh va 1 false (s.params.gsmBase + off)
    match q? with
    | none => pure (.nonWb, s)
    | some e => pure (entryStep s.params.haw c 1 false va Rights.all e, s)

/-- The controls of a walk without IOMMU: legacy modes and the GGTT (R321, R330). -/
def legacyCtl (p : Params) (d : Dialect) (isWrite : Bool) : WalkCtl :=
  ⟨d, isWrite, false, false, false, false, false, false, false, false, p.page64k, none⟩

/-- The controls of an advanced walk (R343): descriptor bits 8 and 4, the IOMMU context. -/
def advancedCtl (desc : QWord) (x : IommuCtx) (isWrite er : Bool) : WalkCtl :=
  ⟨.ia32e, isWrite, er, bit desc 8, bit desc 4, x.nxe, x.smep, x.wpe, x.eafe, x.cd, x.fl64kpe, some x.pasid⟩

/-- The PDP register that va[31:30] selects (R341). -/
def pdpRegister (p : DescRegs) (va : QWord) : QWord :=
  match field va 30 2 with
  | 0 => p.pdp0
  | 1 => p.pdp1
  | 2 => p.pdp2
  | _ => p.pdp3

/-- Which table a request is translated by, and how (R300). -/
def walkModeOf (r : Request) : WalkMode := if usesGgtt r then .ggtt else walkMode r.desc

/-- One walk of a request's mode (R340-R343). -/
def walkOnce (s : State) (r : Request) (va : QWord) (isWrite fresh : Bool) : Res (WalkEnd × State) :=
  let e := r.acc.eng
  let ptrs := pointersOf (engineOf s e)
  match walkModeOf r with
  | .ggtt => walkGgtt e (legacyCtl s.params .ggtt isWrite) fresh va s
  | .ppgtt32 =>
    walkFrom e (legacyCtl s.params .legacy32 isWrite) fresh va 2 (entryAddr s.params.haw 12 (pdpRegister ptrs va)) false
      Rights.all s
  | .ppgtt48 =>
    walkFrom e (legacyCtl s.params .legacy64 isWrite) fresh va 4 (entryAddr s.params.haw 12 ptrs.pdp0) false Rights.all s
  | .advanced =>
    if s.params.gttCache then refuse .gttCacheEnabled
    else match contextInForce s e (r.desc.extractLsb' 9 3) (pasidOf (engineOf s e)) with
    | none => refuse .noIommuContext
    | some x =>
      walkFrom e (advancedCtl r.desc x isWrite r.acc.ifetch) fresh va 4 (entryAddr s.params.haw 12 x.pml4) false
        Rights.all s

/-- A walk that found a fault. -/
def WalkEnd.isFault : WalkEnd → Bool
  | .fault _ _ => true
  | _ => false

/-- The translation of a request's address (R344): a walk that may use retained values, and, if that one refuses, a fresh walk
of memory, which alone can report a fault (R353, R805). A `fresh` request, one that a page response released, always walks memory
(R825). -/
def translate (s : State) (r : Request) (va : QWord) (isWrite fresh : Bool) : Res (WalkEnd × State) := do
  let (w, s1) ← walkOnce s r va isWrite fresh
  let (w, s1) ← if w.isFault && !fresh then walkOnce (advanceDraws s1 8) r va isWrite true else pure (w, s1)
  pure (w, advanceDraws s1 8)

/-! ### One entry as an object -/

/-- The controls of a single-entry walk: those of the engine's context for IA-32e entries (all rights where the IOMMU supplies
no context), the legacy ones otherwise. -/
def entryCtl (s : State) (d : Dialect) (a : Access) : WalkCtl :=
  let isWrite := a.kind != .read
  match d with
  | .ia32e =>
    let x := engineOf s a.eng
    let desc := (pointersOf x).desc
    match contextInForce s a.eng (desc.extractLsb' 9 3) (pasidOf x) with
    | some c => { advancedCtl desc c isWrite a.ifetch with ad := false }
    | none => ⟨.ia32e, isWrite, a.ifetch, bit desc 8, false, false, false, false, false, false, false, some (pasidOf x)⟩
  | d => legacyCtl s.params d isWrite

/-- The descriptor a single entry's fault is handled under: that of the engine's context, with its dialect's mode bits. -/
def entryRequest (s : State) (d : Dialect) (a : Access) : Request :=
  let desc := (pointersOf (engineOf s a.eng)).desc
  match d with
  | .ggtt => ownRequest s { a with useGgtt := true } desc
  | .ia32e => ownRequest s a (desc &&& 0xFFFFFFFFFFFFFFF7)
  | _ => ownRequest s a (desc ||| 0x108)

/-- The level a walk of the dialect begins at (R340-R343): no rights have been accumulated there. -/
def isTopLevel (d : Dialect) (level : Nat) : Bool :=
  match d with
  | .ia32e => decide (level = 4)
  | .legacy64 => decide (level = 4)
  | .legacy32 => decide (level = 2)
  | .ggtt => decide (level = 1)

/-- The meaning of a paging entry read at a level of a walk: the step of R311 on it, from the rights accumulated so far; the
result is latched, and a fault is taken. -/
def walkEntry (d : Dialect) (level : Nat) (ips : Bool) (e : QWord) (a : Access) (s : State) : Res State := do
  let c := entryCtl s d a
  let acc := if isTopLevel d level then Rights.all else s.walk.rights
  match entryStep s.params.haw c level ips a.va acc e with
  | .fault code l =>
    let s := { s with walk := ⟨Rights.all, false, .fault code l⟩ }
    takePageFault s (entryRequest s d a) a.va code l
  | .next l base ips' => pure { s with walk := ⟨accumulateIn d acc e, ips', .next l base ips'⟩ }
  | w => pure { s with walk := ⟨Rights.all, false, w⟩ }

/-- An entry that the decoder rejects at a paging port, P = 0 or a reserved bit 7: a page fault with code 01 (R801). -/
def rejectedEntry (p : Port) (a : Access) (level : Nat) (s : State) : Res State :=
  let d : Dialect := match p with
    | .ggttPte => .ggtt
    | .legacy32Pd => .legacy32
    | .legacyPt64 => .legacy64
    | .legacyPt4 => .legacy64
    | .legacyPml4 => .legacy64
    | .legacyPdp => .legacy64
    | .legacyPd => .legacy64
    | _ => .ia32e
  let s := { s with walk := ⟨Rights.all, false, .fault 1 level⟩ }
  takePageFault s (entryRequest s d a) a.va 1 level

/-- The meaning of MI_UPDATE_GTT's address form (R206): the entry goes to its QWord in GSM, uncacheable (R186); an offset beyond the table
names no entry. -/
def updateGgtt (addr : Word) (a : GttUpdateArgs) (s : State) : Res State :=
  let off := ggttEntryOffset addr
  let s := { s with ggttOffset := off }
  if s.params.gsmSize < off + 8 then pure s
  else do
    checkPhys s (s.params.gsmBase + off) 8
    pure (store s (s.params.gsmBase + off) 8 a.entry Writer.ggtt)

end Sys2Proof.Machine
end

