-- ==== Sys2Proof/Machine/Trtt.lean ====
section
/-! DEFINITION. Tiled-Resources translation (R390-R410): when it applies, the three-level walk, Null and Invalid tiles. -/

namespace Sys2Proof.Machine

open Sys2Proof

/-- TR-TT is on for the device: the bypass is disabled and the enable bit set (R391, R392). -/
def trttOn (s : State) : Bool := bit s.regs.r4dfc 0 && bit s.regs.trtte 0

/-- The address lies in the TR-VA window (R391 item 5); `none` where the mask is one the hardware does not support (I6). -/
def inTrWindow (s : State) (va : QWord) : Option Bool :=
  match field s.regs.trvadr 4 4 with
  | 0 => some false
  | 15 => some (decide (field va 44 4 = field s.regs.trvadr 0 4))
  | _ => none

/-- Whether TR-TT translates an address of a request (R391): the render engine, a 48-bit PPGTT context, the window. The conditions are on
the context; a request of such a context that is marked to use the Global GTT (R300) passes TR-TT by (DESIGN CHOICE, log entry 90). -/
def trttApplies (s : State) (r : Request) (va : QWord) : Res Bool :=
  if !trttOn s || decide (r.acc.eng ≠ .rcs) then .ok false
  else if s.regs.lateBypass then refuse .bypassAfterPowerGating
  else match walkMode r.desc with
    | .ggtt => refuse .trttInvalidContext
    | .ppgtt32 => refuse .trttInvalidContext
    | _ =>
      if usesGgtt r then .ok false
      else match inTrWindow s va with
        | some b => .ok b
        | none => refuse .unsupportedTrvaMask

/-- What an L3 or L2 entry does (R190, R191, R400): bit 0 Invalid first (R404), bit 1 Null, else the next table. -/
def trPointerStep (e : QWord) : TrEnd :=
  if bit e 0 then .invalidTile else if bit e 1 then .nullTile else .next (field e 12 36 * 4096)

/-- What an L1 entry does (R192, R400): compared with the Invalid value first (R404), then the Null value, else it is
bits 47:16 of the new address. -/
def trLeafStep (s : State) (e : Word) (va : QWord) : TrEnd :=
  if e = s.regs.invalidTile then .invalidTile
  else if e = s.regs.nullTile then .nullTile
  else .newVa (BitVec.ofNat 64 (e.toNat * 65536 + field va 0 16))

/-- How a table read ends: the value, or how its own page walk stopped. -/
inductive TrRead where
  | value (q : QWord)
  | stopped (w : WalkEnd)
deriving DecidableEq, Repr

/-- How many address bits lie below what a TR-TT entry of a level maps (R205, R400). -/
def tileSpan : Nat → Nat
  | 3 => 35
  | 2 => 26
  | _ => 16

/-- The PASID whose invalidations cover what a request retains: that of an advanced context (R370). -/
def pasidInForce (s : State) (r : Request) : Option (BitVec 20) :=
  if isAdvanced r then some (pasidOf (engineOf s r.acc.eng)) else none

/-- The values of the entry at `pa` of a level, for an address in the TR-VA window, that a TR TLB may still hold (R351, R407): those
overwritten since the last invalidation that covers the entry (R370, R371); none for a request that is walked again (R825). -/
def retainedTiles (s : State) (r : Request) (va : QWord) (level pa : Nat) (fresh : Bool) : List QWord :=
  if fresh then []
  else (retainedValues s r.acc.eng (fun m _ => m.covers (pasidInForce s r) va (tileSpan level) (decide (level = 1))) pa).map
    fun q => q.ushiftRight (8 * (pa % 8))

/-- The MOCS entry of the TR-TT walker's own accesses (R461). -/
def trttMocs : Nat := 62

/-- The request by which the TR-TT walker reads a table for a request (R400). -/
def tableRequest (r : Request) : Request :=
  { r with acc := { r.acc with ifetch := false, kind := .read, gttControl := false, mocs := BitVec.ofNat 6 trttMocs } }

/-- `ReadVA64` / `ReadVA32` (R400): the table address is a graphics virtual address, translated by the context's own walk; one
that lies in the TR-VA window is refused (I51). The read goes by MOCS entry 62 of the render engine's block, whose controls are
latched (R461); no L3 control entry is named for it, and it is latched as a read that L3 does not hold (log entry 64). `tva` is the address in the window for which the entry of the level is read; the value may be one retained since the
last invalidation (R407). -/
def trRead (s : State) (r : Request) (tva : QWord) (level addr n : Nat) (fresh : Bool) : Res (TrRead × State) := do
  let va : QWord := BitVec.ofNat 64 addr
  if inTrWindow s va = some true then refuse .trttTableInWindow
  else if field (gamMocsOf s .rcs trttMocs) 11 3 ≠ 0 then refuse .reservedPageFaultingMode
  else
    let (w, s) ← translate s (tableRequest r) va false fresh
    match w with
    | .translated t =>
      checkPhys s t.pa n
      let v := pickValue s 5 (memReadLe s.mem t.pa n) (retainedTiles s r tva level t.pa fresh)
      pure (.value v, { s with cache := { cacheControlsOf s (cacheQueryOf (tableRequest r) trttMocs t) with l3 := .uncacheable } })
    | .nullPage => pure (.value 0, s)
    | w => pure (.stopped w, s)

/-- How the TR-TT walk ends. -/
inductive TrOut where
  | ends (t : TrEnd)
  | stopped (w : WalkEnd) (va : QWord)
deriving DecidableEq, Repr

/-- The three-level walk (R400). -/
def trWalk (s : State) (r : Request) (va : QWord) (fresh : Bool) : Res (TrOut × State) := do
  let a3 := field s.regs.l3Ptr 16 32 * 65536 + 8 * field va 35 9
  let (x3, s) ← trRead s r va 3 a3 8 fresh
  match x3 with
  | .stopped w => pure (.stopped w (BitVec.ofNat 64 a3), s)
  | .value e3 =>
    match trPointerStep e3 with
    | .next b2 =>
      let a2 := b2 + 8 * field va 26 9
      let (x2, s) ← trRead s r va 2 a2 8 fresh
      match x2 with
      | .stopped w => pure (.stopped w (BitVec.ofNat 64 a2), s)
      | .value e2 =>
        match trPointerStep e2 with
        | .next b1 =>
          let a1 := b1 + 4 * field va 16 10
          let (x1, s) ← trRead s r va 1 a1 4 fresh
          match x1 with
          | .stopped w => pure (.stopped w (BitVec.ofNat 64 a1), s)
          | .value e1 => pure (.ends (trLeafStep s (e1.setWidth 32) va), s)
        | t => pure (.ends t, s)
    | t => pure (.ends t, s)

/-- A Null tile is counted (R402); an Invalid tile raises its interrupt (R403, R810). -/
def noteTile (s : State) (e : Engine) : TrEnd → State
  | .nullTile => { s with regs := { s.regs with nullTileCount := s.regs.nullTileCount + 1 } }
  | .invalidTile => raiseEvent s e .trttInvalidTile
  | _ => s

/-- The meaning of a TR-TT entry read by the TR-TT walker: its step, latched; a Null or Invalid tile completes the access with
zeros, the null indicator and the fault mode of the engine's context (R402, R403, R466); on a TileX surface it has no defined result
(R405). -/
def trEntry (t : TrEnd) (a : Access) (s : State) : Res State :=
  let mode := faultModeBits (pointersOf (engineOf s a.eng)).desc
  let s := { s with trWalk := t }
  match t with
  | .nullTile =>
    if a.tileX then refuse .nullTileOnTileX
    else .ok (complete (noteTile s a.eng t) ⟨.nullTile, 0, true, 0, 0, .wb, mode⟩)
  | .invalidTile =>
    if a.tileX then refuse .nullTileOnTileX
    else .ok (complete (noteTile s a.eng t) ⟨.invalidTile, 0, true, 0, 0, .wb, mode⟩)
  | _ => .ok s

end Sys2Proof.Machine
end

