-- ==== Sys2Proof/Machine/Request.lean ====
section
/-! DEFINITION. Serving one memory request end to end (R100): the gate of the engine's state, TR-TT, the page walk, the data
access, and the completion the client sees (R800, R830). -/

namespace Sys2Proof.Machine

open Sys2Proof

/-- Where an address leads: a physical address, a null completion, or a stop of the walk with the address it is about; `beside` is the null
completion of a byte that is fetched with an access and takes no part in it (R770, R772). -/
inductive Resolved where
  | pa (t : Translation)
  | null (st : Status)
  | beside (st : Status)
  | fault (code : BitVec 2) (level : Nat) (va : QWord)
  | tableFault (code : BitVec 2) (level : Nat) (va : QWord)
  | nonWb (va : QWord)
deriving DecidableEq, Repr

/-- The end of a page walk, as where the address leads. -/
def resolvedOf (w : WalkEnd) (va : QWord) : Resolved :=
  match w with
  | .translated t => .pa t
  | .nullPage => .null .nullPage
  | .fault c l => .fault c l va
  | .nonWb => .nonWb va
  | .next l _ _ => .fault 1 l va
  | .none => .fault 1 0 va

/-- Where the walk for a TR-TT table stopped: its fault is that of a table read (R406). The catastrophic error of an A/D update that the
walk needs in memory that is not write-back carries the address of the table entry, `va` (DESIGN CHOICE, log entry 71). -/
def tableStopOf (w : WalkEnd) (va : QWord) : Resolved :=
  match resolvedOf w va with
  | .fault c l v => .tableFault c l v
  | x => x

/-- The page walk of an address that TR-TT does not change (any more). -/
def resolveVa (s : State) (r : Request) (va : QWord) (fresh : Bool) : Res (Resolved × State) := do
  let (w, s) ← translate s r va (r.acc.kind != .read) fresh
  pure (resolvedOf w va, s)

/-- The address path of one piece of an access (R100, R122, R390): TR-TT where it applies, one pass only, then the walk. -/
def resolve (s : State) (r : Request) (va : QWord) (fresh : Bool) : Res (Resolved × State) := do
  if ← trttApplies s r va then
    let (o, s) ← trWalk s r va fresh
    match o with
    | .stopped w tva => pure (tableStopOf w tva, s)
    | .ends (.newVa va') => resolveVa s r va' fresh
    | .ends t =>
      if r.acc.tileX then refuse .nullTileOnTileX
      else
        let st : Status := if t = .invalidTile then .invalidTile else .nullTile
        pure (.null st, s)
  else resolveVa s r va fresh

/-- Bytes of an access: 1 to 8. -/
def accessSize (a : Access) : Nat := a.size.toNat + 1

/-- Bytes of the access in the page of its first byte. -/
def firstLen (a : Access) : Nat := min (accessSize a) (4096 - a.va.toNat % 4096)

/-- The blitter has written one of the bytes that an access reads since the last texture invalidate (R891). -/
def bltWrote (s : State) (pa n : Nat) : Bool :=
  (s.history.take (s.history.length - s.texMark)).any fun o =>
    o.writer.blt && (o.bytes &&& touchedBytes o.qaddr pa n) != 0

/-- A client may still see the value that a write replaced, `k` entries of history being older (R154, R155, R475, R891, D10). The
texture cache: for bytes that the blitter has written since the last texture invalidate, any value held since then. The instruction
cache: anything overwritten since its last invalidate. The display, which reads memory and not LLC: what was written write-back since
the last LLC flush. An access that is not coherent in the GPU's caches: what the processor overwrote since the flush that its
coherency needs. -/
def mayHide (s : State) (r : Request) (t : Translation) (pa n : Nat) (o : OldValue) (k : Nat) : Bool :=
  (match r.acc.client with
    | .samplerCache => bltWrote s pa n && decide (s.texMark ≤ k)
    | .instructionState => decide (s.icMark ≤ k)
    | .displayOverlay => o.writer.gpu && o.writer.writeBack && decide (s.llcMark ≤ k)
    | _ => false)
  || (!o.writer.gpu && (flushedFor s (coherencyOf s r t)).any fun m => decide (m ≤ k))

/-- A write is the requester's own: the same client of the same engine (R150, D8). -/
def isOwnWrite (r : Request) (w : Writer) : Bool := w.client == some (r.acc.eng, r.acc.client)

/-- The values of `n` bytes that a request may still be shown beside the one in memory: none older than its client's last write there
(D8). -/
def staleBytes (s : State) (r : Request) (t : Translation) (pa n : Nat) : List QWord :=
  (viewsAt s (isOwnWrite r) (mayHide s r t pa n) pa).map fun q => lowBytes (q.ushiftRight (8 * (pa % 8))) n

/-- The data of a read, byte by byte. -/
def readBytes (s : State) (r : Request) (t : Translation) : Nat → Nat → QWord
  | _, 0 => 0
  | pa, n + 1 =>
    (readBytes s r t (pa + 1) n <<< 8) |||
      (pickValue s (8 + pa % 8) ((memRead s.mem pa).setWidth 64) (staleBytes s r t pa 1) &&& 0xFF)

/-- The data that a read of `n` bytes finds where its page leads: one value for an aligned access (R153, D9), else byte by byte. -/
def readData (s : State) (r : Request) (t : Translation) (n : Nat) : QWord :=
  if singleCopy t.pa n then pickValue s (8 + t.pa % 8) (memReadLe s.mem t.pa n) (staleBytes s r t t.pa n)
  else readBytes s r t t.pa n

/-- Where one piece of an access leads, with its length. -/
structure Piece where
  res : Resolved
  len : Nat
deriving DecidableEq, Repr

/-- The first piece that stops the access, if any. -/
def firstStop : List Piece → Option Resolved
  | [] => none
  | p :: r =>
    match p.res with
    | .pa _ => firstStop r
    | .null _ => firstStop r
    | .beside _ => firstStop r
    | x => some x

/-- Stops where a piece's bytes do not exist. -/
def checkPieces (s : State) : List Piece → Res Unit
  | [] => .ok ()
  | p :: r =>
    match p.res with
    | .pa t => (checkPhys s t.pa p.len).bind fun _ => checkPieces s r
    | _ => checkPieces s r

/-- Reads the pieces: null pieces read zero (R402, R807). -/
def readPieces (s : State) (q : Request) : List Piece → QWord
  | [] => 0
  | p :: r =>
    let rest := readPieces s q r <<< (8 * p.len)
    match p.res with
    | .pa t => readData s q t p.len ||| rest
    | _ => rest

/-- Who writes, for a request whose page has a type (R150, R154, R475). -/
def writerOf (s : State) (q : Request) (t : Translation) : Writer :=
  ⟨true, decide (q.acc.eng = .bcs), decide (performedType s q t = .wb), coherencyOf s q t, some (q.acc.eng, q.acc.client)⟩

/-- Writes the pieces: writes to null pieces are dropped (R402, R807). -/
def writePieces (s : State) (q : Request) : List Piece → QWord → State
  | [], _ => s
  | p :: r, v =>
    let s := match p.res with
      | .pa t => store s t.pa p.len v (writerOf s q t)
      | _ => s
    writePieces s q r (v >>> (8 * p.len))

/-- The status of an access whose pieces all resolved: of one that leads to memory with one piece and to a Null or Invalid tile, or a Null
page, with the other, the null completion; its bytes in memory are read or written all the same (DESIGN CHOICE, log entry 59). -/
def piecesStatus : List Piece → Status
  | [] => .done
  | p :: r =>
    match p.res with
    | .null st => st
    | _ => piecesStatus r

/-- The first physical address of an access. -/
def piecesTranslation : List Piece → Option Translation
  | [] => none
  | p :: r =>
    match p.res with
    | .pa t => some t
    | _ => piecesTranslation r

/-- A piece ends in a null completion of a kind. -/
def hasNull (st : Status) (ps : List Piece) : Bool :=
  ps.any fun p => match p.res with
    | .null x => x == st
    | _ => false

/-- A tile that TR-TT does not map, by the null completion it gives. -/
def tileOfStatus : Status → TrEnd
  | .nullTile => .nullTile
  | .invalidTile => .invalidTile
  | _ => .none

/-- Every fetch beside an access that meets a Null tile is counted, every one that meets an Invalid tile raises its interrupt (R402, R403,
R770; log entry 84). -/
def noteBeside (e : Engine) : List Piece → State → State
  | [], s => s
  | p :: r, s =>
    noteBeside e r (match p.res with
      | .beside st => noteTile s e (tileOfStatus st)
      | _ => s)

/-- An access that completes with a Null tile is counted, once (R402); one with an Invalid tile raises its interrupt (R403); what is fetched
beside it counts too. -/
def noteTiles (s : State) (e : Engine) (ps : List Piece) : State :=
  let s := if hasNull .nullTile ps then noteTile s e .nullTile else s
  let s := if hasNull .invalidTile ps then noteTile s e .invalidTile else s
  noteBeside e ps s

/-- A data atomic may not be carried out: a page of it is not write-back, or CD is 1 (R455, R153, R485), unless GPU-IA atomics
there are supported (R7). -/
def atomicAborted (s : State) (r : Request) (ps : List Piece) : Bool :=
  !s.params.iaCoherentAtomics && ps.any fun p => match p.res with
    | .pa t => decide (effectiveType s r t ≠ .wb) || (isAdvanced r && cdOf s r.acc.eng r.desc)
    | _ => false

/-- The response to an HDC for a resolved page (R376): its translation, or that it has none (log entry 67). The PA field holds PA[38:12],
its 27 bits (R197); what it carries of a PA above bit 38, where HAW is 46, no rule says: those bits are dropped (DESIGN CHOICE, log entry
89). -/
def hdcPageResponse (s : State) (r : Request) (h : HdcRequest) (t? : Option Translation) (ty : MemType) : GamResponse :=
  match t? with
  | some t =>
    hdcResponse h .translation (BitVec.ofNat 32 (t.pa / 4096 % 2 ^ 27)) t.dirty 0 (memTypeCode ty) (faultModeBits r.desc)
  | none =>
    hdcResponse h .null ((freeAt s 0).setWidth 32 &&& 0x07FFFFFF) (bit (freeAt s 1) 0) 0 ((freeAt s 1).extractLsb' 1 3)
      (faultModeBits r.desc)

/-- A data atomic returns what was there (log entry 11), past any read-only cache (R455). -/
def atomicReads (r : Request) : Request := { r with acc := { r.acc with client := .renderCache } }

/-- Carries out a resolved request (R100): the HDC port gets its response; a client's read, write or atomic is performed. An
atomic on memory that is not write-back is aborted (R455). -/
def perform (s : State) (r : Request) (ps : List Piece) : Res State := do
  checkPieces s ps
  let s := noteTiles s r.acc.eng ps
  let st := piecesStatus ps
  let nullInd := st != .done
  let t? := piecesTranslation ps
  let mode := faultModeBits r.desc
  let typeOf (f : Translation → MemType) : MemType := match t? with
    | some t => f t
    | none => .wb
  let ty := typeOf (effectiveType s r)
  let pa := match t? with
    | some t => t.pa
    | none => 0
  match r.origin with
  | .hdc h =>
    let told := typeOf (reportedType s r)
    pure (sendHdcResponse (advanceDraws (complete s ⟨st, 0, nullInd, 0, pa, told, mode⟩) 8) h (hdcPageResponse s r h t? told))
  | o =>
    match r.acc.kind with
    | .read =>
      let data := readPieces s r ps
      let s := advanceDraws (complete s ⟨st, data, nullInd, 0, pa, ty, mode⟩) 16
      match o with
      | .sampler t => pure (returnTexel s r t data)
      | _ => pure s
    | .write => pure (advanceDraws (complete (writePieces s r ps r.acc.data) ⟨st, 0, nullInd, 0, pa, ty, mode⟩) 8)
    | .atomic =>
      if atomicAborted s r ps then pure (takeCatastrophic s r .atomicNonWb r.acc.va)
      else
        let old := readPieces s (atomicReads r) ps
        pure (advanceDraws (complete (writePieces s r ps r.acc.data) ⟨st, old, nullInd, 0, pa, ty, mode⟩) 8)

/-- Resolves the pieces of an access: one, or two where it crosses a 4 KB page. -/
def resolvePieces (s : State) (r : Request) (fresh : Bool) : Res (List Piece × State) := do
  let n := firstLen r.acc
  let (x, s) ← resolve s r r.acc.va fresh
  if accessSize r.acc ≤ n then pure ([⟨x, n⟩], s)
  else match x with
    | .fault _ _ _ => pure ([⟨x, n⟩], s)
    | .tableFault _ _ _ => pure ([⟨x, n⟩], s)
    | .nonWb _ => pure ([⟨x, n⟩], s)
    | _ =>
      let (y, s) ← resolve s r (r.acc.va + BitVec.ofNat 64 n) fresh
      pure ([⟨x, n⟩, ⟨y, accessSize r.acc - n⟩], s)

/-- The Page Faulting Mode of the request's MOCS entry is a reserved value (R824, I61). -/
def reservedPfm (s : State) (r : Request) : Bool :=
  !r.acc.gttControl && decide (field (gamMocsOf s r.acc.eng r.acc.mocs.toNat) 11 3 ≠ 0)

/-- What becomes of a request whose walk faults: the fault is taken (R821); it waits behind a waiting miss (R825); on a Wedged
engine it is an invalid access (R832); a request that an engine reset discards did not happen (R871); it touches the address of requests
that wait in Stream mode for the responses `prgs` (R150, D8). -/
inductive OnFault where
  | take | wait | invalid | discard
  | behind (prgs : List Nat)
deriving DecidableEq, Repr

/-- A request that is served no further for now. -/
def setAside (f : OnFault) (s : State) (r : Request) : State :=
  match f with
  | .behind _ => keepBehind s r
  | _ => stall s r .waiting

/-- A request behind others that wait in Stream mode takes the fault of its own walk (R805); of a terminated context that is still loaded
none is reported (R842). -/
def faultBehind (s : State) (r : Request) (m : FaultMode) (f : PageFault) (va : QWord) (prgs : List Nat) : State :=
  if (engineOf s r.acc.eng).leaving then invalidAccess s r f.code else takeBehind m s r f va prgs

/-- A request whose walk found a fault. -/
def onFault (f : OnFault) (s : State) (r : Request) (va : QWord) (code : BitVec 2) (level : Nat) : Res State :=
  match f with
  | .take => takePageFault s r va code level
  | .wait => .ok (stall s r .waiting)
  | .invalid => .ok (invalidAccess s r code)
  | .discard => .ok (stall s r .waiting)
  | .behind prgs => do
    let m ← faultModeOf s r
    pure (faultBehind s r m (faultRecord s r va code level) va prgs)

/-- A request for which the read of a TR-TT table found a fault (R406). -/
def onTableFault (f : OnFault) (s : State) (r : Request) (va : QWord) (code : BitVec 2) (level : Nat) : Res State :=
  match f with
  | .take => takeTableFault s r va code level
  | .wait => .ok (stall s r .waiting)
  | .invalid => .ok (invalidAccess s r code)
  | .discard => .ok (stall s r .waiting)
  | .behind prgs => do
    match ← faultModeOf s r with
    | .hang => pure (takeUnrecoverable s r code)
    | _ => pure (faultBehind s r .halt (faultRecord s (tableRead r) va code level) va prgs)

/-- A request whose walk would update a paging entry in memory that is not write-back (R452, R845): behind a waiting miss it is not
walked yet (R825), behind one in Stream mode it is taken once the request is presented again, and discarded it did not happen. -/
def onNonWb (f : OnFault) (s : State) (r : Request) (va : QWord) : State :=
  match f with
  | .take => takeCatastrophic s r .adUpdateNonWb va
  | .invalid => takeCatastrophic s r .adUpdateNonWb va
  | f => setAside f s r

/-- What follows for a request from where its pieces lead: it is performed, or the fault or catastrophic error that the walk found
is taken. -/
def conclude (s : State) (r : Request) (f : OnFault) (ps : List Piece) : Res State :=
  match firstStop ps with
  | some (.fault code level va) => onFault f s r va code level
  | some (.tableFault code level va) => onTableFault f s r va code level
  | some (.nonWb va) => pure (onNonWb f s r va)
  | _ => perform s r ps

/-- The address of the auxiliary surface's tile that a sample needs (R291). -/
def auxAddress (r : Request) : Option QWord :=
  match r.origin with
  | .sampler t => t.aux
  | _ => none

/-- A piece of the access lies in a tile that TR-TT does not map. -/
def tileUnmapped (ps : List Piece) : Bool := hasNull .nullTile ps || hasNull .invalidTile ps

/-- Where the auxiliary tile of a sample leads, as a piece without bytes: one that TR-TT does not map, under a mapped main tile, is
refused (R291, I28). Under an unmapped main tile the response is the NULL one whatever the auxiliary tile, which is not looked at
(DESIGN CHOICE for the order, log entry 79). -/
def auxPieces (s : State) (r : Request) (ps : List Piece) (fresh : Bool) : Res (List Piece × State) :=
  match auxAddress r, firstStop ps with
  | some va, none =>
    if tileUnmapped ps then pure (ps, s)
    else do
      let (x, s) ← resolve s r va fresh
      match x with
      | .null .nullPage => pure (ps, s)
      | .null _ => refuse .auxiliaryUnmapped
      | .pa _ => pure (ps, s)
      | x => pure (ps ++ [⟨x, 0⟩], s)
  | _, _ => pure (ps, s)

/-- The fetch of a byte beyond the element: a read whose value takes part in nothing (R770, R772). On a TileX surface too it may meet a Null or
Invalid tile, which is counted or raises its interrupt: R405 is taken to speak of the access itself (DESIGN CHOICE, log entry 84). -/
def padRequest (r : Request) (va : QWord) : Request :=
  { r with acc := { r.acc with kind := .read, tileX := false, size := 0, va := va } }

/-- The cache lines and the alignment unit of an element are fetched with it, or some of them by draw: the first page of them that has
no translation stops the access (R770, R772, R803, R898; log entry 84); those that TR-TT does not map are kept, to be counted. -/
def touchPads (r : Request) (fresh : Bool) : List QWord → State → Res (List Piece × State)
  | [], s => pure ([], s)
  | va :: rest, s =>
    if choiceAt s 0 % 2 = 0 then touchPads r fresh rest (advanceDraws s 1)
    else do
      let (x, s) ← resolve (advanceDraws s 1) (padRequest r va) va fresh
      match x with
      | .pa _ => touchPads r fresh rest s
      | .null st => do
        let (ps, s) ← touchPads r fresh rest s
        pure (⟨.beside st, 0⟩ :: ps, s)
      | x => pure ([⟨x, 0⟩], s)

/-- The pieces of an access with those of its padding, where the access itself has all its translations. -/
def padPieces (s : State) (r : Request) (ps : List Piece) (fresh : Bool) : Res (List Piece × State) :=
  match r.pads, firstStop ps with
  | p :: pads, none => do
    let (qs, s) ← touchPads r fresh (p :: pads) s
    pure (ps ++ qs, s)
  | _, _ => pure (ps, s)

/-- All that a request translates: its bytes, its auxiliary tile, its padding. -/
def allPieces (s : State) (r : Request) (fresh : Bool) : Res (List Piece × State) := do
  let (ps, s) ← resolvePieces s r fresh
  let (ps, s) ← auxPieces s r ps fresh
  padPieces s r ps fresh

/-- The walk of a request found a fault. -/
def walkFaults (ps : List Piece) : Bool :=
  match firstStop ps with
  | some (.fault _ _ _) => true
  | some (.tableFault _ _ _) => true
  | _ => false

/-- A request goes on after its walk. Behind a waiting miss only one that needed no update of a paging entry does: its translation may be one
already held (R825, log entry 70). Behind requests that wait in Stream mode only one that faults does: it may not be performed before them
(R150, D8). -/
def goesOn (f : OnFault) (s s' : State) (ps : List Piece) : Bool :=
  match f with
  | .wait => s'.history.length == s.history.length
  | .behind _ => walkFaults ps
  | _ => true

/-- Serves a request of an engine that may translate: resolve, then conclude, or set it aside, its walk undone. -/
def serveHere (s : State) (r : Request) (fresh : Bool) (f : OnFault) : Res State := do
  if reservedPfm s r then refuse .reservedPageFaultingMode
  else
    let (ps, s') ← allPieces s r fresh
    if goesOn f s s' ps then conclude s' r f ps
    else .ok (setAside f (advanceDraws s (s'.draws - s.draws)) r)

/-- The control registers of the moment (R901). -/
def Regs.controls (g : Regs) : ControlRegs :=
  ⟨g.l3Ptr, g.nullTile, g.invalidTile, g.trvadr, g.trtte, g.r4dfc, g.r404c, g.adNonWb, g.pat0, g.pat1, g.pat2, g.pat3, g.lateBypass⟩

/-- The registers with other control registers. -/
def Regs.withControls (g : Regs) (c : ControlRegs) : Regs :=
  { g with l3Ptr := c.l3Ptr, nullTile := c.nullTile, invalidTile := c.invalidTile, trvadr := c.trvadr, trtte := c.trtte
           r4dfc := c.r4dfc, r404c := c.r404c, adNonWb := c.adNonWb, pat0 := c.pat0, pat1 := c.pat1, pat2 := c.pat2
           pat3 := c.pat3, lateBypass := c.lateBypass }

/-- The control registers that a request sees which was issued before they changed: each, by draw, as it is now or as it was at some
time since (R901, I95). -/
def controlsSeen (s : State) (r : Request) : ControlRegs :=
  let old := s.priorRegs.take (s.priorRegs.length - r.issued)
  let pick {α : Type} (k : Nat) (f : ControlRegs → α) : α := pickValue s k (f s.regs.controls) (old.map f)
  { l3Ptr := pick 0 (·.l3Ptr), nullTile := pick 1 (·.nullTile), invalidTile := pick 2 (·.invalidTile), trvadr := pick 3 (·.trvadr)
    trtte := pick 4 (·.trtte), r4dfc := pick 5 (·.r4dfc), r404c := pick 6 (·.r404c), adNonWb := pick 7 (·.adNonWb)
    pat0 := pick 8 (·.pat0), pat1 := pick 9 (·.pat1), pat2 := pick 10 (·.pat2), pat3 := pick 11 (·.pat3)
    lateBypass := pick 5 (·.lateBypass) }

/-- Serves a request: under the registers as they are, or, where they changed after it was issued, under those it sees (R901). -/
def serveNow (s : State) (r : Request) (fresh : Bool) (f : OnFault) : Res State :=
  if s.priorRegs.length ≤ r.issued then serveHere s r fresh f
  else do
    let t ← serveHere { advanceDraws s 16 with regs := s.regs.withControls (controlsSeen s r) } r fresh f
    pure { t with regs := t.regs.withControls s.regs.controls }

/-- Two requests are the same client's and touch a byte of the same address space in common (D8). -/
def Request.overlaps (r q : Request) : Bool :=
  r.acc.client == q.acc.client && walkModeOf r == walkModeOf q
    && decide (r.acc.va.toNat < q.acc.va.toNat + accessSize q.acc) && decide (q.acc.va.toNat < r.acc.va.toNat + accessSize r.acc)

/-- The request is an access itself, not the translation an HDC asks for. -/
def Request.isAccess (r : Request) : Bool :=
  match r.origin with
  | .hdc _ => false
  | _ => true

/-- The accesses of an engine that wait, and have had no answer. -/
def waitingRequests (x : EngineSt) : List Request :=
  (x.stalled ++ x.miss.toList.map (·.req)).filter Request.isAccess

/-- The access is one of UC with Fence: ordered after its requester's earlier accesses (R463, R152; log entry 82). -/
def fencedRequest (s : State) (r : Request) : Bool :=
  !isAdvanced r && !r.acc.gttControl && r.acc.coherent && decide (field (gamMocsOf s r.acc.eng r.acc.mocs.toNat) 0 2 = 0)

/-- A request keeps behind an earlier waiting one of the same client, to the same address or before a fenced access (R150, D8, R152,
R463). -/
def keepsOrder (s : State) (r q : Request) : Bool :=
  r.isAccess && (q.overlaps r || (q.acc.client == r.acc.client && fencedRequest s r))

/-- An earlier request waits at the top of the miss queue or is stalled, and this one keeps behind it. -/
def keepsBehind (s : State) (x : EngineSt) (r : Request) : Bool := (waitingRequests x).any (keepsOrder s r)

/-- An earlier request keeps behind one that waits in Stream mode, and this one behind it. -/
def keepsFurther (s : State) (x : EngineSt) (r : Request) : Bool := x.behind.any (keepsOrder s r)

/-- The responses that earlier requests of the same client to the same address wait for, which have been answered with their fault (R829). -/
def outstandingBefore (x : EngineSt) (r : Request) : List Nat :=
  if r.isAccess then (x.outstanding.filter fun w => w.req.isAccess && w.req.overlaps r).map (·.prg) else []

/-- A request to the address of some that wait in Stream mode (R150, D8; log entry 60): a Wedged engine's ends as an invalid access or keeps
behind; behind a waiting miss, and while a reset of the engine waits (R871), it keeps behind; else it is walked, and keeps behind unless its
own walk faults (R805, R358). -/
def serveBehind (s : State) (r : Request) (fresh : Bool) (prgs : List Nat) : Res State :=
  let x := engineOf s r.acc.eng
  if x.mode = .wedged then
    .ok (if choiceAt s 0 % 2 = 0 then invalidAccess (advanceDraws s 1) r 0 else keepBehind (advanceDraws s 1) r)
  else if x.mode = .halted ∨ x.resetting = true then .ok (keepBehind s r)
  else serveNow s r fresh (.behind prgs)

/-- Serves a request (R100, R833): a Hung engine's never completes; between Context Available and Context Confirmed none is
translated (R850); one keeps behind earlier ones of its client (D8, R463, R829); behind a waiting miss one may be served or wait (R825); a
Wedged engine's completes normally or as an invalid access (R832); a terminated context that is still loaded reports no new fault (R842);
of an engine whose reset waits no new page request is sent (R871). -/
def serve (s : State) (r : Request) (fresh : Bool) : Res State :=
  let x := engineOf s r.acc.eng
  if x.phase ≠ .quiet then .ok (stall s r .waiting)
  else if x.mode = .hung then .ok (stall s r .never)
  else if keepsBehind s x r then .ok (stall s r .waiting)
  else if keepsFurther s x r then .ok (keepBehind s r)
  else match outstandingBefore x r, x.mode with
    | p :: ps, _ => serveBehind s r fresh (p :: ps)
    | [], .halted =>
      if choiceAt s 0 % 2 = 0 then .ok (stall (advanceDraws s 1) r .waiting)
      else serveNow (advanceDraws s 1) r fresh .wait
    | [], .wedged =>
      if choiceAt s 0 % 2 = 0 then .ok (invalidAccess (advanceDraws s 1) r 0)
      else serveNow (advanceDraws s 1) r fresh .invalid
    | [], _ => serveNow s r fresh (if x.leaving then .invalid else .take)

/-- A request of an engine under its loaded context; while no context is loaded only GGTT accesses are translated, others wait
for one (R850, R873). That a GGTT access is translated before any handshake has loaded a context is a DESIGN CHOICE (log entry 105). -/
def serveLoaded (s : State) (a : Access) (o : Origin) (pads : List QWord) : Res State :=
  let x := engineOf s a.eng
  match x.ctx with
  | some c => serve s (loadedRequest s a c.desc o pads) false
  | none =>
    if a.useGgtt || a.client == .displayOverlay then serve s (loadedRequest s a x.regs.desc o pads) false
    else .ok (stall s (loadedRequest s a x.regs.desc o pads) .waiting)

/-- A request presented again (R825, R850): under its own descriptor, or that of the context now loaded. `fresh`: it is walked again
from the top. -/
def presentAgain (s : State) (r : Request) (fresh : Bool) : Res State :=
  if r.explicit then serve s r fresh
  else match (engineOf s r.acc.eng).ctx with
    | some c => serve s { r with desc := c.desc } fresh
    | none => .ok (stall s r .waiting)

/-- A request that waited behind another, for a context or for the fence of a switch, is an access like any other: it may use retained
translations (R351). -/
def resume (s : State) (r : Request) : Res State := presentAgain s r false

/-- A request whose page a response has repaired is walked again from the top (R825). -/
def rewalk (s : State) (r : Request) : Res State := presentAgain s r true

/-- A request goes on with another address: under its own descriptor, or that of the loaded context. -/
def serveNext (s : State) (r : Request) : Res State :=
  if r.explicit then serve s r false else serveLoaded s r.acc r.origin []

/-- A request presented with the descriptor that selects its walk mode (R300). -/
def serveUnder (mode : WalkMode) (d : QWord) (a : Access) (s : State) : Res State :=
  let d' := match mode with
    | .ggtt => (d ||| 0x8) &&& 0xFFFFFFFFFFFFFEFF
    | .ppgtt32 => (d ||| 0x108) &&& 0xFFFFFFFFFFFFFFEF
    | .ppgtt48 => d ||| 0x118
    | .advanced => d &&& 0xFFFFFFFFFFFFFFF7
  serve s (ownRequest s a d') false

/-- A page-table atomic as an object (R420, R450, R452): the entry at the operand address is updated and the new value
returned to GAM; on memory that is not write-back the update is aborted with a catastrophic error, whose address is that of the
entry: such an object names no virtual address (log entry 71). -/
def entryAtomic (f : QWord → QWord) (a : AtomicArgs) (s : State) : Res State := do
  let pa := a.pa.toNat
  checkPhys s pa 8
  let desc := (pointersOf (engineOf s a.eng)).desc
  let q := mem64 s pa
  if f q = q then pure { s with atomicReturn := q }
  else if adUpdateAllowed s pa (contextCd s a.eng) then
    let (n, s) := applyAtomic f s pa
    pure { s with atomicReturn := n }
  else
    let req := ownRequest s ⟨a.eng, .coherentReadWrite, .atomic, false, false, false, false, false, true, 0, 7, a.pa, 0⟩ desc
    pure (takeCatastrophic s req .adUpdateNonWb a.pa)

/-- A memory-type code (R199, R465): the type and the HDC-to-L3 control bits are latched. -/
def latchMemType (ty : MemType) (a : TypeArgs) (s : State) : State :=
  { s with memType := ⟨ty, l3Control ty a.isWrite⟩ }

/-- A fault presented with a descriptor or with the loaded context (R801, R821): code 00 is no fault. -/
def presentFault (desc : QWord) (a : FaultArgs) (code : BitVec 2) (s : State) : Res State :=
  if code = 0 then .ok (complete s ⟨.done, 0, false, 0, 0, .wb, 0⟩)
  else takePageFault s (ownRequest s a.acc desc) a.acc.va code a.level.toNat

/-- The descriptor of the context in force for a fault (R35). -/
def faultDesc (s : State) (e : Engine) : QWord := (pointersOf (engineOf s e)).desc

end Sys2Proof.Machine
end

