-- ==== Sys2Proof/Machine/Atomics.lean ====
section
/-! DEFINITION. The meanings of the page-table atomics (R420-R448). -/

namespace Sys2Proof.Machine

open Sys2Proof

/-- Atomic_Page_update_0000 (R420, R421): i = 0, w = 0, e = 0, r = 0. -/
def execAtomicPageUpdate0000 (a : AtomicArgs) (s : State) : Host.Outcome State Fault Refusal :=
  toOutcome (entryAtomic (pageAtomic false false false false) a s)

/-- Atomic_Page_update_0001 (R420, R422): i = 0, w = 0, e = 0, r = 1. -/
def execAtomicPageUpdate0001 (a : AtomicArgs) (s : State) : Host.Outcome State Fault Refusal :=
  toOutcome (entryAtomic (pageAtomic false false false true) a s)

/-- Atomic_Page_update_0010 (R420, R423): i = 0, w = 0, e = 1, r = 0. -/
def execAtomicPageUpdate0010 (a : AtomicArgs) (s : State) : Host.Outcome State Fault Refusal :=
  toOutcome (entryAtomic (pageAtomic false false true false) a s)

/-- Atomic_Page_update_0011 (R420, R424): i = 0, w = 0, e = 1, r = 1. -/
def execAtomicPageUpdate0011 (a : AtomicArgs) (s : State) : Host.Outcome State Fault Refusal :=
  toOutcome (entryAtomic (pageAtomic false false true true) a s)

/-- Atomic_Page_update_0100 (R420, R425): i = 0, w = 1, e = 0, r = 0. -/
def execAtomicPageUpdate0100 (a : AtomicArgs) (s : State) : Host.Outcome State Fault Refusal :=
  toOutcome (entryAtomic (pageAtomic false true false false) a s)

/-- Atomic_Page_update_0101 (R420, R426): i = 0, w = 1, e = 0, r = 1. -/
def execAtomicPageUpdate0101 (a : AtomicArgs) (s : State) : Host.Outcome State Fault Refusal :=
  toOutcome (entryAtomic (pageAtomic false true false true) a s)

/-- Atomic_Page_update_0110 (R420, R427): i = 0, w = 1, e = 1, r = 0. -/
def execAtomicPageUpdate0110 (a : AtomicArgs) (s : State) : Host.Outcome State Fault Refusal :=
  toOutcome (entryAtomic (pageAtomic false true true false) a s)

/-- Atomic_Page_update_0111 (R420, R428): i = 0, w = 1, e = 1, r = 1. -/
def execAtomicPageUpdate0111 (a : AtomicArgs) (s : State) : Host.Outcome State Fault Refusal :=
  toOutcome (entryAtomic (pageAtomic false true true true) a s)

/-- Atomic_Page_update_1000 (R420, R429): i = 1, w = 0, e = 0, r = 0. -/
def execAtomicPageUpdate1000 (a : AtomicArgs) (s : State) : Host.Outcome State Fault Refusal :=
  toOutcome (entryAtomic (pageAtomic true false false false) a s)

/-- Atomic_Page_update_1001 (R420, R430): i = 1, w = 0, e = 0, r = 1. -/
def execAtomicPageUpdate1001 (a : AtomicArgs) (s : State) : Host.Outcome State Fault Refusal :=
  toOutcome (entryAtomic (pageAtomic true false false true) a s)

/-- Atomic_Page_update_1010 (R420, R431): i = 1, w = 0, e = 1, r = 0. -/
def execAtomicPageUpdate1010 (a : AtomicArgs) (s : State) : Host.Outcome State Fault Refusal :=
  toOutcome (entryAtomic (pageAtomic true false true false) a s)

/-- Atomic_Page_update_1011 (R420, R432): i = 1, w = 0, e = 1, r = 1. -/
def execAtomicPageUpdate1011 (a : AtomicArgs) (s : State) : Host.Outcome State Fault Refusal :=
  toOutcome (entryAtomic (pageAtomic true false true true) a s)

/-- Atomic_Page_update_1100 (R420, R433): i = 1, w = 1, e = 0, r = 0. -/
def execAtomicPageUpdate1100 (a : AtomicArgs) (s : State) : Host.Outcome State Fault Refusal :=
  toOutcome (entryAtomic (pageAtomic true true false false) a s)

/-- Atomic_Page_update_1101 (R420, R434): i = 1, w = 1, e = 0, r = 1. -/
def execAtomicPageUpdate1101 (a : AtomicArgs) (s : State) : Host.Outcome State Fault Refusal :=
  toOutcome (entryAtomic (pageAtomic true true false true) a s)

/-- Atomic_Page_update_1110 (R420, R435): i = 1, w = 1, e = 1, r = 0. -/
def execAtomicPageUpdate1110 (a : AtomicArgs) (s : State) : Host.Outcome State Fault Refusal :=
  toOutcome (entryAtomic (pageAtomic true true true false) a s)

/-- Atomic_Page_update_1111 (R420, R436): i = 1, w = 1, e = 1, r = 1. -/
def execAtomicPageUpdate1111 (a : AtomicArgs) (s : State) : Host.Outcome State Fault Refusal :=
  toOutcome (entryAtomic (pageAtomic true true true true) a s)

/-- Atomic_A_update_000 (R441). -/
def execAtomicAUpdate000 (a : AtomicArgs) (s : State) : Host.Outcome State Fault Refusal :=
  toOutcome (entryAtomic aUpdate a s)

/-- Atomic_A_update_001 (R442). -/
def execAtomicAUpdate001 (a : AtomicArgs) (s : State) : Host.Outcome State Fault Refusal :=
  toOutcome (entryAtomic aUpdate a s)

/-- Atomic_A_update_010 (R443). -/
def execAtomicAUpdate010 (a : AtomicArgs) (s : State) : Host.Outcome State Fault Refusal :=
  toOutcome (entryAtomic aUpdate a s)

/-- Atomic_A_update_011 (R444). -/
def execAtomicAUpdate011 (a : AtomicArgs) (s : State) : Host.Outcome State Fault Refusal :=
  toOutcome (entryAtomic aUpdate a s)

/-- Atomic_A_update_100 (R445). -/
def execAtomicAUpdate100 (a : AtomicArgs) (s : State) : Host.Outcome State Fault Refusal :=
  toOutcome (entryAtomic aUpdate a s)

/-- Atomic_AD_update_101 (R446). -/
def execAtomicAdUpdate101 (a : AtomicArgs) (s : State) : Host.Outcome State Fault Refusal :=
  toOutcome (entryAtomic adUpdate a s)

/-- Atomic_AD_update_110 (R447). -/
def execAtomicAdUpdate110 (a : AtomicArgs) (s : State) : Host.Outcome State Fault Refusal :=
  toOutcome (entryAtomic adUpdate a s)

/-- Atomic_AD_update_111 (R448). -/
def execAtomicAdUpdate111 (a : AtomicArgs) (s : State) : Host.Outcome State Fault Refusal :=
  toOutcome (entryAtomic adUpdateIgnoringRo a s)

end Sys2Proof.Machine
end

