-- ==== Sys2Proof/Machine/Entries.lean ====
section
/-! DEFINITION. The meanings of the paging and TR-TT entries, the index splits and MI_UPDATE_GTT (R170-R206). -/

namespace Sys2Proof.Machine

open Sys2Proof

/-- IA32E_PML4E read by a walk (R171, R311). -/
def execIa32ePml4e (e : QWord) (a : Access) (s : State) : Host.Outcome State Fault Refusal :=
  toOutcome (walkEntry .ia32e 4 false e a s)

/-- IA32E_PDPE_PD read by a walk (R172, R311). -/
def execIa32ePdpePd (e : QWord) (a : Access) (s : State) : Host.Outcome State Fault Refusal :=
  toOutcome (walkEntry .ia32e 3 false e a s)

/-- IA32E_PDPE_1GB read by a walk (R173, R311). -/
def execIa32ePdpe1gb (e : QWord) (a : Access) (s : State) : Host.Outcome State Fault Refusal :=
  toOutcome (walkEntry .ia32e 3 false e a s)

/-- IA32E_PDE_PT read by a walk (R174, R311). -/
def execIa32ePdePt (e : QWord) (a : Access) (s : State) : Host.Outcome State Fault Refusal :=
  toOutcome (walkEntry .ia32e 2 false e a s)

/-- IA32E_PDE_2MB read by a walk (R175, R311). -/
def execIa32ePde2mb (e : QWord) (a : Access) (s : State) : Host.Outcome State Fault Refusal :=
  toOutcome (walkEntry .ia32e 2 false e a s)

/-- IA32E_PTE_64KB read by a walk (R176, R311). -/
def execIa32ePte64kb (e : QWord) (a : Access) (s : State) : Host.Outcome State Fault Refusal :=
  toOutcome (walkEntry .ia32e 1 true e a s)

/-- IA32E_PTE_4KB read by a walk (R177, R311). -/
def execIa32ePte4kb (e : QWord) (a : Access) (s : State) : Host.Outcome State Fault Refusal :=
  toOutcome (walkEntry .ia32e 1 false e a s)

/-- LEGACY32_PDE read by a walk (R178, R311). -/
def execLegacy32Pde (e : QWord) (a : Access) (s : State) : Host.Outcome State Fault Refusal :=
  toOutcome (walkEntry .legacy32 2 false e a s)

/-- LEGACY_PTE_64KB read by a walk (R179, R311). -/
def execLegacyPte64kb (e : QWord) (a : Access) (s : State) : Host.Outcome State Fault Refusal :=
  toOutcome (walkEntry .legacy64 1 true e a s)

/-- LEGACY_PTE_4KB read by a walk (R180, R311). -/
def execLegacyPte4kb (e : QWord) (a : Access) (s : State) : Host.Outcome State Fault Refusal :=
  toOutcome (walkEntry .legacy64 1 false e a s)

/-- LEGACY64_PML4E read by a walk (R181, R311). -/
def execLegacy64Pml4e (e : QWord) (a : Access) (s : State) : Host.Outcome State Fault Refusal :=
  toOutcome (walkEntry .legacy64 4 false e a s)

/-- LEGACY64_PDPE_PD read by a walk (R182, R311). -/
def execLegacy64PdpePd (e : QWord) (a : Access) (s : State) : Host.Outcome State Fault Refusal :=
  toOutcome (walkEntry .legacy64 3 false e a s)

/-- LEGACY64_PDPE_1GB read by a walk (R183, R311). -/
def execLegacy64Pdpe1gb (e : QWord) (a : Access) (s : State) : Host.Outcome State Fault Refusal :=
  toOutcome (walkEntry .legacy64 3 false e a s)

/-- LEGACY64_PDE_PT read by a walk (R184, R311). -/
def execLegacy64PdePt (e : QWord) (a : Access) (s : State) : Host.Outcome State Fault Refusal :=
  toOutcome (walkEntry .legacy64 2 false e a s)

/-- LEGACY64_PDE_2MB read by a walk (R185, R311). -/
def execLegacy64Pde2mb (e : QWord) (a : Access) (s : State) : Host.Outcome State Fault Refusal :=
  toOutcome (walkEntry .legacy64 2 false e a s)

/-- GGTT_PTE read by a walk (R186, R311). -/
def execGgttPte (e : QWord) (a : Access) (s : State) : Host.Outcome State Fault Refusal :=
  toOutcome (walkEntry .ggtt 1 false e a s)

/-- An L3 entry read by the TR-TT walker (R190, R400). -/
def execTrttL3e (e : QWord) (a : Access) (s : State) : Host.Outcome State Fault Refusal :=
  toOutcome (trEntry (trPointerStep e) a s)

/-- An L2 entry read by the TR-TT walker (R191, R400). -/
def execTrttL2e (e : QWord) (a : Access) (s : State) : Host.Outcome State Fault Refusal :=
  toOutcome (trEntry (trPointerStep e) a s)

/-- An L1 entry read by the TR-TT walker (R192, R400). -/
def execTrttL1e (e : Word) (a : Access) (s : State) : Host.Outcome State Fault Refusal :=
  toOutcome (trEntry (trLeafStep s e a.va) a s)

/-- The index split of a 48-bit address (R205, R310). -/
def execVaIndex4level (v : BitVec 48) (s : State) : Host.Outcome State Fault Refusal :=
  toOutcome (.ok { s with indices := splitVa (v.setWidth 64) })

/-- The index split of a legacy 32-bit address (R205, R341). -/
def execVaIndexPpgtt32 (v : Word) (s : State) : Host.Outcome State Fault Refusal :=
  toOutcome (.ok { s with indices := splitVa32 (v.setWidth 64) })

/-- The index split of a global address (R205, R340). -/
def execVaIndexGgtt (v : Word) (s : State) : Host.Outcome State Fault Refusal :=
  toOutcome (.ok { s with indices := splitGgtt (v.setWidth 64) })

/-- The index split of an address in the TR-VA window (R205, R400). -/
def execVaIndexTrtt (v : BitVec 48) (s : State) : Host.Outcome State Fault Refusal :=
  toOutcome (.ok { s with indices := splitTrtt (v.setWidth 64) })

/-- MI_UPDATE_GTT stores a GGTT entry (R206). -/
def execMiUpdateGttAddr (v : Word) (a : GttUpdateArgs) (s : State) : Host.Outcome State Fault Refusal :=
  toOutcome (updateGgtt v a s)

end Sys2Proof.Machine
end

