-- ==== Sys2Proof/Machine/Context.lean ====
section
/-! DEFINITION. Contexts: the submission handshake (R850-R852), the switch-out and the LAST marker (R835-R842), the
invalidations (R370-R378), and the three resets (R870-R873). -/

namespace Sys2Proof.Machine

open Sys2Proof

/-! ### The PASID-state counters (R35, R871) -/

/-- Adds `d` to the counter of a PASID. -/
def addPasidCount (p : BitVec 20) (d : Int) : List PasidCount → List PasidCount
  | [] => [⟨p, d⟩]
  | c :: r => if c.pasid = p then ⟨p, c.count + d⟩ :: r else c :: addPasidCount p d r

/-- Adds `d` to the PASID-state counter of a PASID. -/
def countPasid (s : State) (p : BitVec 20) (d : Int) : State :=
  { s with pasidCounts := addPasidCount p d s.pasidCounts }

/-! ### Taking a context out (R833, R836, R842) -/

/-- The context of an engine may not be switched out: a fault waits for its response, or the engine hangs (R825, R820). -/
def cannotSwitch (x : EngineSt) : Bool := x.miss.isSome || x.mode == .hung

/-- The LAST marker of a context of an engine joins the page request queue, after its last fault, unless one is there and unanswered
(R836). -/
def queueLast (s : State) (f : PageFault) : State :=
  if s.lastQueued.contains ⟨f.eng, f.contextId⟩ then s
  else
    { s with
      pageRequests := s.pageRequests ++ [⟨s.nextPrg, true, f⟩]
      nextPrg := s.nextPrg + 1
      lastQueued := s.lastQueued ++ [⟨f.eng, f.contextId⟩] }

/-- A context leaves with page requests outstanding: its LAST marker is queued (R836), and later responses to those requests are
ignored (R837). Where requests under descriptors of their own wait beside those of the context, the marker carries the Context ID of the
last one that waits (DESIGN CHOICE, log entry 36). -/
def markLast (s : State) (ws : List Waiting) : State :=
  match ws.getLast? with
  | none => s
  | some w => { queueLast s w.fault with detached := s.detached ++ ws.map (·.prg) }

/-- Tells the scheduler that a context is out (R838, R842). -/
def notifyScheduler (s : State) (contextId : Word) : State := { s with notifications := s.notifications ++ [contextId] }

/-- Tells the scheduler that a context is out, unless the response to its LAST marker will (R838, R842). -/
def notifyOut (s : State) (e : Engine) (contextId : Word) : State :=
  if s.lastQueued.contains ⟨e, contextId⟩ then s else notifyScheduler s contextId

/-! ### What command streamers save and restore with a context (R40, R52) -/

/-- The block of GAM_MOCS of an engine (R52). -/
def mocsOfEngine (s : State) (e : Engine) : List Word := (s.regs.gamMocs.drop (64 * mocsBlock s.params e)).take 64

/-- The LRCA field of a descriptor (R31). -/
def lrcaOf (desc : QWord) : BitVec 20 := desc.extractLsb' 12 20

/-- The global address of DWord `k` of the context image that an LRCA addresses (R31, R80): the image lies in the Global GTT (PRESUMED, log
entry 73). -/
def imageAddress (lrca : BitVec 20) (k : Nat) : QWord := BitVec.ofNat 64 ((lrca.toNat * 4096 + 4 * k) % 2 ^ 32)

/-- Where DWord `k` of a context image lies in memory, by the entry of the Global GTT there (R340); `none` where the entry is not present or
the bytes do not exist: such a DWord is neither saved nor restored (DESIGN CHOICE, log entry 73). -/
def imagePlace (s : State) (lrca : BitVec 20) (k : Nat) : Option Translation :=
  let va := imageAddress lrca k
  let slot := s.params.gsmBase + 8 * field va 12 20
  let t := leafTranslation s.params.haw .ggtt 1 false va (mem64 s slot) Rights.all
  if bit (mem64 s slot) 0 = true ∧ 8 * field va 12 20 + 8 ≤ s.params.gsmSize ∧ physExists s slot 8 = true ∧ physExists s t.pa 4 = true
  then some t else none

/-- An access of a command streamer to a context image: GTT control only (R460). -/
def imageRequest (s : State) (e : Engine) (kind : AccessKind) : Request :=
  ownRequest s ⟨e, .commandStream, kind, false, true, false, false, false, true, 0, 3, 0, 0⟩ 0

/-- The TR-TT registers as DWords of a context image (R40). -/
def trttWords (r : Regs) : List Word :=
  [r.l3Ptr.extractLsb' 0 32, r.l3Ptr.extractLsb' 32 32, r.nullTile, r.invalidTile, r.trvadr, r.trtte]

/-- What an engine's context image holds of the registers, each word with its DWord: the TR-TT registers in the render engine's, and the
engine's block of GAM_MOCS (R40, R52, R80). -/
def imageWords (s : State) (e : Engine) : List (Word × Nat) :=
  (if e = .rcs then (trttWords s.regs).zipIdx s.params.imageTrtt else []) ++ (mocsOfEngine s e).zipIdx s.params.imageMocs

/-- Stores a word in its DWord of a context image, where the Global GTT of `now` maps it. -/
def saveWord (now : State) (e : Engine) (lrca : BitVec 20) (w : Word × Nat) (s : State) : State :=
  match imagePlace now lrca w.2 with
  | some t => store s t.pa 4 (w.1.setWidth 64) (writerOf now (imageRequest now e .write) t)
  | none => s

/-- Stores words in their DWords of a context image. -/
def saveWords (now : State) (e : Engine) (lrca : BitVec 20) : List (Word × Nat) → State → State
  | [], s => s
  | w :: ws, s => saveWords now e lrca ws (saveWord now e lrca w s)

/-- The context's part of the registers is saved in the image that its LRCA addresses (R40, R52, R80; log entry 73). -/
def saveContext (s : State) (e : Engine) (lrca : BitVec 20) : State := saveWords s e lrca (imageWords s e) s

/-- The value a command streamer reads in DWord `k` of a context image, its bits outside `mask` being 0; what it holds, `old`, where the
image has none. -/
def imageOr (s : State) (e : Engine) (lrca : BitVec 20) (k : Nat) (mask old : Word) : Word :=
  match imagePlace s lrca k with
  | some t => (readData (advanceDraws s (16 * k)) (imageRequest s e .read) t 4).setWidth 32 &&& mask
  | none => old

/-- The TR-TT registers of a context image, which only the render context has (R40); their reserved bits read 0 (R41, R44, R45). -/
def restoreTrtt (s : State) (e : Engine) (lrca : BitVec 20) (r : Regs) : Regs :=
  if e = .rcs then
    let get (k : Nat) := imageOr s e lrca (s.params.imageTrtt + k)
    { r with
      l3Ptr := get 1 0x0000FFFF (r.l3Ptr.extractLsb' 32 32) ++ get 0 0xFFFF0000 (r.l3Ptr.extractLsb' 0 32)
      nullTile := get 2 0xFFFFFFFF r.nullTile
      invalidTile := get 3 0xFFFFFFFF r.invalidTile
      trvadr := get 4 0xFF r.trvadr
      trtte := get 5 3 r.trtte }
  else r

/-- Entry `j` of GAM_MOCS after a restore: in the engine's block, what the context image holds for it (R52). -/
def restoredMocs (s : State) (e : Engine) (lrca : BitVec 20) (j : Nat) (old : Word) : Word :=
  let base := 64 * mocsBlock s.params e
  if base ≤ j ∧ j < base + 64 then imageOr s e lrca (s.params.imageMocs + (j - base)) 0xFFFFFFFF old else old

/-- A context gets the part of the registers that its image holds, whoever wrote the image (R40, R52, R80, R882), whatever ID it has (R31: IDs
are recycled); what no page of the Global GTT maps stays as it is (log entry 73). -/
def restoreContext (s : State) (e : Engine) (lrca : BitVec 20) : State :=
  let r := restoreTrtt s e lrca s.regs
  advanceDraws { s with regs := { r with gamMocs := s.regs.gamMocs.mapIdx (restoredMocs s e lrca) } }
    (16 * (s.params.imageTrtt + s.params.imageMocs + 64))

/-- What the command streamer saves when a context leaves. -/
def saveLoaded (s : State) (e : Engine) : State :=
  match (engineOf s e).ctx with
  | some c => saveContext s e (lrcaOf c.desc)
  | none => s

/-- A context in error leaves: the scheduler is told at once unless a LAST marker of it is unanswered (R842). -/
def notifyBad (s : State) (e : Engine) (x : EngineSt) : State :=
  match x.ctx with
  | some c => if x.contextBad then notifyOut s e (c.desc.extractLsb' 32 32) else s
  | none => s

/-- Takes the context of an engine out: a LAST marker where page requests are outstanding, the PASID-state counter of an
advanced context decremented (R35), Running becomes Idle (R833); its part of the registers is saved (R40, R52). The requests that wait in
Stream mode leave with it, and those that keep behind them: their clients send them again (R829, R843; log entry 60). -/
def closeContext (s : State) (e : Engine) : State :=
  let x := engineOf s e
  let s := notifyBad (markLast (saveLoaded s e) x.outstanding) e x
  let s := if runsAdvanced x then countPasid s (pasidOf x) (-1) else s
  updEngine s e fun x =>
    { x with
      ctx := none
      pasidCache := none
      outstanding := []
      behind := []
      contextBad := false
      leaving := false
      mode := if x.mode = .running ∨ x.mode = .halted then .idle else x.mode }

/-- The context stays for now: a Fault-and-Halt fault of it waits (R825), or its engine hangs (R820), unless it is a context in error,
which is taken out of a Hung engine too (R842: "in all cases"). -/
def heldBack (x : EngineSt) : Bool := x.miss.isSome || (x.mode == .hung && !x.contextBad)

/-- The scheduler asks the hardware to switch a context out (R842 step 4): not while a Fault-and-Halt fault waits (R825); the scheduler
is told at the response to the LAST marker if there is one, else at once. -/
def switchOut (s : State) (e : Engine) : State :=
  let x := engineOf s e
  if heldBack x then s
  else match x.ctx with
    | none => s
    | some c =>
      let s := closeContext s e
      if x.contextBad then s else notifyOut s e (c.desc.extractLsb' 32 32)

/-- An engine has a context with an ID loaded. -/
def runsContext (s : State) (contextId : Word) (e : Engine) : Bool :=
  match (engineOf s e).ctx with
  | some c => c.desc.extractLsb' 32 32 == contextId
  | none => false

/-- The hardware is told that a context is bad (R842 step 4). A loaded one is marked and switched out; where a reported Fault-and-Halt
fault holds it (R825), its LAST marker is queued and the switch-out follows the end of the wait. Of one that was switched out before,
the scheduler is told at once unless its LAST marker is unanswered. An ID names one active context (R31); of one loaded on several engines,
of which R842 does not speak, the first engine's context is meant (DESIGN CHOICE, log entry 36). -/
def terminate (s : State) (contextId : Word) : State :=
  match allEngines.find? (runsContext s contextId) with
  | some e =>
    let s := updEngine s e fun x => { x with contextBad := true }
    match (engineOf s e).miss with
    | some w =>
      updEngine (queueLast s { w.fault with eng := e, contextId := contextId }) e fun x => { x with leaving := true }
    | none => switchOut s e
  | none => if s.lastQueued.any fun m => m.contextId == contextId then s else notifyScheduler s contextId

/-! ### Invalidations (R370-R378) -/

/-- GAM combines all TLB invalidation events into one global invalidation of the HDC mini-TLBs (R375): the Start message goes
out unless one is in progress. -/
def broadcastInvalidation (s : State) : State :=
  if s.hdc.serviceOff then s else { s with inputs := .message (.gamTlbInvStart) :: s.inputs }

/-- Empties the retained set of an engine and of the HDCs (R371). -/
def invalidateEngine (s : State) (e : Engine) : State := broadcastInvalidation (dropRetained s e)

/-- Empties the retained set of every engine (R371). -/
def dropAllRetained (s : State) : State := allEngines.foldl dropRetained s

/-- The PASID Cache entry of an engine is invalidated (R373): one that runs an advanced context reads its own from the tables anew
(R57), any other has none. -/
def refillPasidCache (s : State) (e : Engine) : State :=
  updEngine s e fun x =>
    { x with pasidCache :=
        if runsAdvanced x then iommuLookup s ((pointersOf x).desc.extractLsb' 9 3) (pasidOf x) else none }

/-- An engine's PASID Cache holds, or is to hold, the entry of a PASID. -/
def cachesPasid (s : State) (p : BitVec 20) (e : Engine) : Bool :=
  runsPasid s p e || (engineOf s e).pasidCache.any fun c => c.pasid == p

/-- Empties every retained set, and the Context and PASID Caches (R371, R373). -/
def invalidateAll (s : State) : State :=
  broadcastInvalidation (allEngines.foldl refillPasidCache (dropAllRetained { s with contextCache := [] }))

/-- An SVM (IOMMU) invalidation of a PASID, of one page of it or of one stage of the caches (R370, R371). -/
def invalidateScope (s : State) (p : BitVec 20) (page : Option (BitVec 36)) (stage : CacheStage) : State :=
  broadcastInvalidation (dropScopeEverywhere s ⟨some p, page, stage, s.history.length⟩)

/-- A directed (IOMMU) invalidation of a whole PASID (R370, R373): its translations on every engine, its entries in the Context
Cache and in the PASID Caches, which running engines fill again. -/
def invalidatePasid (s : State) (p : BitVec 20) : State :=
  let s := invalidateScope { s with contextCache := s.contextCache.filter fun c => c.pasid != p } p none .all
  (allEngines.filter (cachesPasid s p)).foldl refillPasidCache s

/-- The texture cache is invalidated (R155, R891). -/
def invalidateTexture (s : State) : State := { s with texMark := s.history.length }

/-- The instruction cache is invalidated (R155, D10). -/
def invalidateInstruction (s : State) : State := { s with icMark := s.history.length }

/-- Caches are written back (R154, R475, R890): what was written before is seen from now on. -/
def flush (s : State) : FlushTarget → State
  | .gpu => { s with gpuMark := s.history.length }
  | .cpu => { s with cpuMark := s.history.length }
  | .llc => { s with llcMark := s.history.length }

/-! ### The handshake (R850) -/

/-- A message word with one bit and its mask bit (R34). -/
def messageWord (bitNo : Nat) : Word := BitVec.ofNat 32 (2 ^ bitNo + 2 ^ (bitNo + 16))

/-- The Context Receive Ready object of an engine (R34). -/
def receiveReadyMessage : Engine → Instr
  | .rcs => .msgRcsContextReceiveReady (messageWord 0)
  | .vcs0 => .msgVcs0ContextReceiveReady (messageWord 0)
  | .vcs1 => .msgVcs1ContextReceiveReady (messageWord 0)
  | .vecs => .msgVecsContextReceiveReady (messageWord 0)
  | .bcs => .msgBcsContextReceiveReady (messageWord 0)

/-- The Context Confirmed object of an engine (R34). -/
def confirmedMessage : Engine → Instr
  | .rcs => .msgRcsContextConfirmed (messageWord 1)
  | .vcs0 => .msgVcs0ContextConfirmed (messageWord 1)
  | .vcs1 => .msgVcs1ContextConfirmed (messageWord 1)
  | .vecs => .msgVecsContextConfirmed (messageWord 1)
  | .bcs => .msgBcsContextConfirmed (messageWord 1)

/-- Requests of the loaded context wait, which must complete before it leaves (R850). -/
def needsFence (x : EngineSt) : Bool := x.ctx.isSome && x.phase == .quiet && !x.stalled.isEmpty

/-- The fence cannot complete: a reset of the engine waits, so that a request which faults does not end (R871; log entry 37). -/
def fenceBlocked (x : EngineSt) : Bool := x.resetting && needsFence x

/-- Context Available stays pending (R825, R850). -/
def keepAvailable (s : State) (e : Engine) : State :=
  updEngine s e fun x => { x with msgToGam := x.msgToGam ||| 1, availPending := true }

/-- Step 1, Context Available (R850): while a fault of the engine waits the message stays pending (R825), and while a reset of it waits with
requests in the way of the fence (R871: the reset discards them and the message); earlier requests of the old context are presented
again first, and the message after them (the fence); else the old context is taken out, retained translations are dropped (R377), and
GAM answers Context Receive Ready. In the middle of a handshake the message begins it anew (DESIGN CHOICE, log entry 15). -/
def contextAvailable (s : State) (e : Engine) : State :=
  if cannotSwitch (engineOf s e) || fenceBlocked (engineOf s e) then keepAvailable s e
  else if needsFence (engineOf s e) then resumeStalled (keepAvailable s e) e []
  else
    let s := dropRetained (closeContext s e) e
    let s := updEngine s e fun x =>
      { x with phase := .available, msgToGam := x.msgToGam &&& 0xFFFFFFFE, msgToCs := x.msgToCs ||| 1 }
    broadcastInvalidation { s with inputs := .message (receiveReadyMessage e) :: s.inputs }

/-- Step 2, Context Receive Ready (R850): the command streamer may write the descriptor registers. -/
def contextReceiveReady (s : State) (e : Engine) : State :=
  updEngine s e fun x =>
    { x with msgToCs := x.msgToCs &&& 0xFFFFFFFE, phase := if x.phase = .available then .ready else x.phase }

/-- An advanced context fills the Context Cache and its engine's PASID Cache from the tables and counts for its PASID (R56, R57,
R35); with a legacy context the PASID Cache is not valid (R373). -/
def fillCaches (s : State) (e : Engine) : State :=
  let x := engineOf s e
  if runsAdvanced x then
    let c? := iommuLookup s ((pointersOf x).desc.extractLsb' 9 3) (pasidOf x)
    let s := updEngine (countPasid s (pasidOf x) 1) e fun x => { x with pasidCache := c? }
    match c? with
    | some c => if s.contextCache.contains c then s else { s with contextCache := c :: s.contextCache }
    | none => s
  else updEngine s e fun x => { x with pasidCache := none }

/-- Step 3, Context Launched (R850): GAM latches the five registers; Valid = 0 is flagged and the context runs all the same
(R852); the registers that belong to the context are restored (R40, R52). Out of its place in the handshake the message has no
effect (log entry 15). GAM answers Context Confirmed. -/
def contextLaunched (s : State) (e : Engine) : State :=
  let x := engineOf s e
  if x.phase = .ready then
    let s := setEngine s e
      { x with
        ctx := some x.regs
        phase := .launched
        msgToGam := x.msgToGam &&& 0xFFFFFFFD
        msgToCs := x.msgToCs ||| 2 }
    let s := if bit x.regs.desc 0 then s else raiseEvent s e .descriptorError
    let s := restoreContext (fillCaches s e) e (lrcaOf x.regs.desc)
    { s with inputs := .message (confirmedMessage e) :: s.inputs }
  else s

/-- Step 4, Context Confirmed (R850, R833): the engine runs; its retained set is empty (R377); requests that waited for a
context are presented again. -/
def contextConfirmed (s : State) (e : Engine) : State :=
  let x := engineOf s e
  let s := setEngine s e { x with msgToCs := x.msgToCs &&& 0xFFFFFFFD }
  if x.phase = .launched then
    let s := updEngine s e fun x => { x with phase := .quiet, mode := if x.mode = .idle then .running else x.mode }
    resumeStalled (dropRetained s e) e []
  else s

/-- A write to an engine's message register of GAM (R34): each bit whose mask bit is 1 takes effect. -/
def gamMessage (e : Engine) (w : Word) (s : State) : State :=
  let s := if messageBit w 0 then contextAvailable s e else s
  if messageBit w 1 then contextLaunched s e else s

/-- A write to an engine's message register of its command streamer (R34). -/
def csMessage (e : Engine) (w : Word) (s : State) : State :=
  let s := if messageBit w 0 then contextReceiveReady s e else s
  if messageBit w 1 then contextConfirmed s e else s

/-- The command streamer writes the descriptor registers: only between Context Receive Ready and Context Launched (R850);
at any other time the write has no effect. -/
def writeDescriptors (d : QWord) (a : DescArgs) (s : State) : State :=
  if (engineOf s a.eng).phase = .ready then
    updEngine s a.eng fun x => { x with regs := ⟨d, a.pdp0, a.pdp1, a.pdp2, a.pdp3⟩ }
  else s

/-! ### Engine reset (R871) -/

/-- An input by which a request of an engine goes on. -/
def resumes (e : Engine) : Input → Option Request
  | .op (.resume r) => if r.acc.eng = e then some r else none
  | .op (.rewalk r) => if r.acc.eng = e then some r else none
  | .op (.texelReturn r) => if r.acc.eng = e then some r else none
  | _ => none

/-- The requests of an engine that are in flight: those that wait, and those about to be presented again. -/
def inFlight (s : State) (e : Engine) : List Request :=
  (engineOf s e).behind ++ (engineOf s e).stalled ++ s.inputs.filterMap (resumes e)

/-- Discarded requests: each either happened or did not, independently (R871), under any translation it may have had (R351); one that
cannot be served did not happen. -/
def settle : List Request → State → State
  | [], s => s
  | r :: rs, s =>
    let drawn := advanceDraws s 1
    if choiceAt s 0 % 2 = 0 then settle rs drawn
    else match serveNow drawn r false .discard with
      | .ok s' => settle rs s'
      | .error _ => settle rs drawn

/-- The page requests of an engine whose responses are ignored from now on (R871). -/
def abandonedPrgs (x : EngineSt) : List Nat :=
  (match x.miss with
    | some w => [w.prg]
    | none => []) ++ x.outstanding.map (·.prg)

/-- Five open values (R85: the descriptor registers keep no defined value). -/
def freeDescRegs (s : State) : DescRegs := ⟨freeAt s 0, freeAt s 1, freeAt s 2, freeAt s 3, freeAt s 4⟩

/-- An open DWord. -/
def freeWordAt (s : State) (k : Nat) : Word := (freeAt s k).setWidth 32

/-- The requests at the HDC walk port are the render engine's: its reset discards them, and their credits are free (R871, R376). What the
mini-TLBs hold stays. -/
def resetHdc (e : Engine) (h : HdcPort) : HdcPort := if e = .rcs then { h with pending := [], droppedReqs := [] } else h

/-- Engine reset (R871): the engine is Idle, its context out, its requests discarded; its caches, queued page requests and pending
events stay; its registers, those of the messages among them, hold open values (R85). While a device reset waits the engine still sends no
page request. The engine's block of GAM_MOCS and the TR-TT registers stay, as the registers of all engines do (R870; DESIGN CHOICE, log entry
37). -/
def engineReset (s : State) (e : Engine) : State :=
  let x := engineOf s e
  let s := settle (inFlight s e) s
  let s := if runsAdvanced x then countPasid s (pasidOf x) (-1) else s
  let y := engineOf s e
  let s := setEngine s e
    { y with
      regs := freeDescRegs s
      ctx := none
      phase := .quiet
      mode := .idle
      msgToGam := freeWordAt s 5
      msgToCs := freeWordAt s 6
      miss := none
      outstanding := []
      stalled := []
      behind := []
      contextBad := false
      availPending := false
      leaving := false
      mmioRequests := []
      resetting := s.flrPending }
  let s :=
    { s with
      detached := s.detached ++ abandonedPrgs y
      hdc := resetHdc e s.hdc
      inputs := s.inputs.filter fun i => (resumes e i).isNone }
  advanceDraws s 7

/-- A queued page request is still at the MMIO registers of its engine, where software has to service its interrupt (R811, R871; DESIGN
CHOICE, log entry 37: the spec does not say which requests are, so that the environment says it). -/
def holdPageRequest (s : State) (prg : Nat) : State :=
  match s.pageRequests.find? fun q => q.prg == prg with
  | some q => updEngine s q.fault.eng fun x => { x with mmioRequests := x.mmioRequests ++ [q] }
  | none => s

/-- The reset of the engine waits for nothing any more: it is presented again (R871). -/
def completeReset (s : State) (e : Engine) : State :=
  if (engineOf s e).resetting && (engineOf s e).mmioRequests.isEmpty then { s with inputs := .op (.engineReset e) :: s.inputs } else s

/-- A page request of some engine is still at its MMIO registers. -/
def anyHeld (s : State) : Bool := allEngines.any fun e => !(engineOf s e).mmioRequests.isEmpty

/-- The resets that wait for nothing any more are presented again: a device reset once no engine blocks it (R871, R872). -/
def completeResets (s : State) : State :=
  if s.flrPending then (if anyHeld s then s else { s with inputs := .op .flr :: s.inputs })
  else allEngines.foldl completeReset s

/-- Software services the interrupt of a page request at the MMIO registers (R811): a reset that it blocked goes on (R871). -/
def servicePageRequest (s : State) (prg : Nat) : State :=
  completeResets (allEngines.foldl (fun s e =>
    updEngine s e fun x => { x with mmioRequests := x.mmioRequests.filter fun q => q.prg != prg }) s)

/-- Engine reset as it is asked for (R871): a page request of the engine at the MMIO registers blocks its completion until software has
serviced it, and no new page request of the engine is sent meanwhile. -/
def requestReset (s : State) (e : Engine) : State :=
  if (engineOf s e).mmioRequests.isEmpty then engineReset s e else updEngine s e fun x => { x with resetting := true }

/-! ### Device and bus reset (R872, R873) -/

/-- A fence register after reset: nothing states its value (R23, R85). -/
def freeFence (s : State) (k : Nat) : Fence :=
  ⟨bit (freeAt s k) 0, (freeAt s (k + 1)).toNat, (freeAt s (k + 2)).toNat, (freeAt s (k + 3)).toNat,
    bit (freeAt s k) 1⟩

/-- A memory-interface control entry after reset: bits 13:0 from R53 where the table prints them, all else open (R53, R85). -/
def freeMocs (s : State) (k i : Nat) : Word :=
  if i % 64 < 32 then
    (gamMocsPeriod.getD (i % 16) 0 &&& 0x3FFF) ||| (freeWordAt s (k + i) &&& 0xFFFFC000)
  else freeWordAt s (k + i)

/-- The registers after a device reset: the defaults of R85, and open values where R85 states none. That render power gating is off is
a DESIGN CHOICE (log entry 80). -/
def resetRegs (s : State) : Regs :=
  { Regs.reset with
    r4dfc := freeWordAt s 0 &&& 0xFFFFFFFE
    r404c := freeWordAt s 1
    r4a30 := freeWordAt s 2
    adNonWb := freeWordAt s 3 &&& 0xFFFFFFFD
    idicr := freeWordAt s 4
    fbcdr := freeWordAt s 5
    pat0 := freeWordAt s 6
    pat1 := freeWordAt s 7
    pat2 := freeWordAt s 8
    pat3 := freeWordAt s 9
    nullTileCount := (freeAt s 10).toNat
    faultCount := (freeAt s 11).toNat
    maxReqCounts := (List.range 16).map fun i => freeWordAt s (12 + i)
    fences := (List.range 16).map fun i => freeFence s (28 + 4 * i)
    gamMocs := (List.range 512).map (freeMocs s 92)
    mchbarAlias := s.regs.mchbarAlias }

/-- The PCI capability registers after a reset (R66-R75): the next-capability offsets and the capacity are read-only values
that no rule states, kept. -/
def resetPci (p : PciCaps) : PciCaps :=
  { PciCaps.reset with pasidNco := p.pasidNco, atsNco := p.atsNco, priCapacity := p.priCapacity }

/-- No event pending, and nothing in the PASID Cache. -/
def clearEvents (s : State) (e : Engine) : State := updEngine s e fun x => { x with events := [], pasidCache := none }

/-- Device reset (R872, R873, D39): every engine reset, registers at their defaults, no retained translation, no pending event;
memory, IOMMU and the page request queue unchanged. The texture and the instruction cache are emptied, of which no rule speaks (DESIGN CHOICE,
log entry 100). -/
def flr (s : State) : State :=
  let s := allEngines.foldl engineReset { s with flrPending := false }
  let s := allEngines.foldl clearEvents (dropAllRetained s)
  let s :=
    { s with
      regs := resetRegs s
      priorRegs := []
      pci := resetPci s.pci
      contextCache := []
      hdc := HdcPort.reset
      texMark := s.history.length
      icMark := s.history.length
      walk := WalkLatch.reset
      trWalk := .none }
  advanceDraws s 604

/-- Device reset as it is asked for (R872: "for every engine e: as EngineReset(e)"): a page request of an engine at its MMIO registers
blocks the completion, as it does that of an engine reset (R871), and no engine sends a new one meanwhile. -/
def requestFlr (s : State) : State :=
  if anyHeld s then
    { allEngines.foldl (fun s e => updEngine s e fun x => { x with resetting := true }) s with flrPending := true }
  else flr s

/-- Memory of open content (R880). -/
def freeMemory (k : Nat) : List Host.Cell := (Config.freeMemory k).foldl (fun m c => memWrite m c.1 c.2) []

/-- Bus reset (R870, R873): what a device reset resets, and the IOMMU side too; memory content is open (I94). It resets the page request
interface with the rest, so that no page request blocks it (DESIGN CHOICE, log entry 37). -/
def busReset (s : State) : State :=
  let s := flr s
  let s :=
    { s with
      mem := freeMemory s.draws
      gpuMark := s.history.length
      waitMark := s.history.length
      cpuMark := s.history.length
      llcMark := s.history.length
      iommu := []
      pasidCounts := []
      pageRequests := []
      nextPrg := 0
      detached := []
      lastQueued := []
      notifications := [] }
  advanceDraws s 1

end Sys2Proof.Machine
end

