-- ==== Sys2Proof/Machine/Hdc.lean ====
section
/-! DEFINITION. The HDC page-walk port (R62, R196, R197, R375, R376): requests and their credits, responses, and the
invalidation protocol. -/

namespace Sys2Proof.Machine

open Sys2Proof

/-- The credits an HDC has in use: requests that wait for a response, and dropped ones it still holds (R376, R375). -/
def creditsUsed (h : HdcPort) (src : HdcId) : Nat :=
  ((h.pending ++ h.droppedReqs).filter fun r => r.src == src).length

/-- The memory request of an HDC page-walk request (R376): of the render engine, for one address of the page; the faultable bit
is what GAM takes the stream capability from (R826). The request names no tile mode (R196): it is taken as one to no TileX surface, so that a
Null or Invalid tile is answered (R405; DESIGN CHOICE, log entry 32). -/
def hdcAccess (h : HdcRequest) : Access where
  eng := .rcs
  client := .hdc
  kind := if h.isWrite then .write else .read
  ifetch := false
  useGgtt := false
  coherent := h.faultable
  faultable := h.faultable
  tileX := false
  gttControl := true
  mocs := 0
  size := 0
  va := h.vaPage <<< 12
  data := 0

/-- An HDC page-walk request arrives (R196, R376): without its valid bit it is none; during an invalidation it is dropped, to be
sent again (R375); with no credit left its HDC does not send it. -/
def hdcPageRequest (h : HdcRequest) (s : State) : Res State :=
  if !h.valid || decide (2 ≤ creditsUsed s.hdc h.src) then .ok s
  else if s.hdc.serviceOff then .ok { s with hdc := { s.hdc with droppedReqs := s.hdc.droppedReqs ++ [h] } }
  else serveLoaded { s with hdc := { s.hdc with pending := s.hdc.pending ++ [h] } } (hdcAccess h) (.hdc h) []

/-- The request that a response answers (R376): same HDC, same tracking number. -/
def answers (g : GamResponse) (h : HdcRequest) : Bool := h.src == g.dst && h.tracking == g.tracking

/-- A page response on the broadcast bus (R197, R376): the HDC it names claims it, a credit is released, and a translation
without a fault enters that HDC's mini-TLB; a null page and an invalid access have none to enter (R322, R402, R832). -/
def gamPageResponse (g : GamResponse) (s : State) : State :=
  match (if g.valid then s.hdc.pending.find? (answers g) else none) with
  | none => s
  | some h =>
    let entry : List MiniTlbEntry :=
      if g.code = 0 ∧ g.kind = .translation then [⟨g.dst, h.vaPage, g.pa, g.isWrite, g.memType⟩] else []
    { s with hdc := { s.hdc with pending := s.hdc.pending.erase h, miniTlb := s.hdc.miniTlb ++ entry } }

/-- The invalidation starts (R375 steps 1-3): GAM stops its service path; the HDCs wipe their mini-TLBs and send no request. A Start that
comes while one is in progress begins the collection of acknowledgements anew (DESIGN CHOICE, log entry 101). -/
def tlbInvStart (s : State) : State :=
  { s with hdc := { s.hdc with serviceOff := true, quiesced := true, acks := [], miniTlb := [] } }

/-- The acknowledgement of an HDC (R375 steps 3-4), if it is valid: with all of them collected GAM serves again and broadcasts the
End message. One that comes while no invalidation is in progress is ignored (DESIGN CHOICE, log entry 101). -/
def tlbInvResponse (a : HdcAck) (s : State) : State :=
  if !a.valid || !s.hdc.serviceOff then s
  else
    let acks := if s.hdc.acks.contains a.src then s.hdc.acks else s.hdc.acks ++ [a.src]
    if s.params.hdcs.all acks.contains then
      { s with
        hdc := { s.hdc with serviceOff := false, acks := [] }
        inputs := .message (.gamTlbInvEnd) :: s.inputs }
    else { s with hdc := { s.hdc with acks := acks } }

/-- The invalidation ends (R375 step 5): the HDCs send again, the dropped requests first. -/
def tlbInvEnd (s : State) : State :=
  let again : List Input := s.hdc.droppedReqs.map fun h => .message (.hdcPageRequest h)
  { s with hdc := { s.hdc with quiesced := false, droppedReqs := [] }, inputs := again ++ s.inputs }

end Sys2Proof.Machine
end

