-- ==== Sys2Proof/Machine/HdcObjects.lean ====
section
/-! DEFINITION. The meanings of the HDC page-walk port messages and the memory-type codes (R196-R199). -/

namespace Sys2Proof.Machine

open Sys2Proof

/-- An HDC page-walk request (R196, R376). -/
def execHdcPageRequest (a : HdcRequest) (s : State) : Host.Outcome State Fault Refusal :=
  toOutcome (Sys2Proof.Machine.hdcPageRequest a s)

/-- The acknowledgement of an HDC (R196, R375). -/
def execHdcTlbInvResponse (a : HdcAck) (s : State) : Host.Outcome State Fault Refusal :=
  toOutcome (.ok (tlbInvResponse a s))

/-- A page response to an HDC (R197, R376). -/
def execGamPageResponse (a : GamResponse) (s : State) : Host.Outcome State Fault Refusal :=
  toOutcome (.ok (Sys2Proof.Machine.gamPageResponse a s))

/-- TLB Invalidation Start (R197, R375). -/
def execGamTlbInvStart (s : State) : Host.Outcome State Fault Refusal :=
  toOutcome (.ok (tlbInvStart s))

/-- TLB Invalidation End (R197, R375). -/
def execGamTlbInvEnd (s : State) : Host.Outcome State Fault Refusal :=
  toOutcome (.ok (tlbInvEnd s))

/-- The reserved response opcode 01 (R197, I58). -/
def execGamResponseOpcodeReserved (_s : State) : Host.Outcome State Fault Refusal := .refused .reservedHdcResponse

/-- Memory type UC, encoding 0 (R199, R465). -/
def execMemtypeUc (a : TypeArgs) (s : State) : Host.Outcome State Fault Refusal :=
  toOutcome (.ok (latchMemType .uc a s))

/-- Memory type WC, encoding 1 (R199, R465). -/
def execMemtypeWc (a : TypeArgs) (s : State) : Host.Outcome State Fault Refusal :=
  toOutcome (.ok (latchMemType .wc a s))

/-- Memory type WT, encoding 4 (R199, R465). -/
def execMemtypeWt (a : TypeArgs) (s : State) : Host.Outcome State Fault Refusal :=
  toOutcome (.ok (latchMemType .wt a s))

/-- Memory type WP, encoding 5 (R199, R465). -/
def execMemtypeWp (a : TypeArgs) (s : State) : Host.Outcome State Fault Refusal :=
  toOutcome (.ok (latchMemType .wp a s))

/-- Memory type WB, encoding 6 (R199, R465). -/
def execMemtypeWb (a : TypeArgs) (s : State) : Host.Outcome State Fault Refusal :=
  toOutcome (.ok (latchMemType .wb a s))

/-- The reserved memory-type encoding 2 (R199, I48). -/
def execMemtypeReserved2 (_a : TypeArgs) (_s : State) : Host.Outcome State Fault Refusal := .refused .reservedMemType

/-- The reserved memory-type encoding 3 (R199, I48). -/
def execMemtypeReserved3 (_a : TypeArgs) (_s : State) : Host.Outcome State Fault Refusal := .refused .reservedMemType

/-- The reserved memory-type encoding 7 (R199, I48). -/
def execMemtypeReserved7 (_a : TypeArgs) (_s : State) : Host.Outcome State Fault Refusal := .refused .reservedMemType

end Sys2Proof.Machine
end

