-- ==== Sys2Proof/Machine/Submission.lean ====
section
/-! DEFINITION. The meanings of the descriptor objects: requests under a descriptor, the descriptor write, faults (R300, R821, R850). -/

namespace Sys2Proof.Machine

open Sys2Proof

/-- A request under a descriptor of this mode (R300, R340). -/
def execCtxLegacyGgtt (d : QWord) (a : Access) (s : State) : Host.Outcome State Fault Refusal :=
  toOutcome (serveUnder .ggtt d a s)

/-- A request under a descriptor of this mode (R300, R341). -/
def execCtxLegacyPpgtt32 (d : QWord) (a : Access) (s : State) : Host.Outcome State Fault Refusal :=
  toOutcome (serveUnder .ppgtt32 d a s)

/-- A request under a descriptor of this mode (R300, R342). -/
def execCtxLegacyPpgtt48 (d : QWord) (a : Access) (s : State) : Host.Outcome State Fault Refusal :=
  toOutcome (serveUnder .ppgtt48 d a s)

/-- A request under a descriptor of this mode (R300, R343). -/
def execCtxAdvanced (d : QWord) (a : Access) (s : State) : Host.Outcome State Fault Refusal :=
  toOutcome (serveUnder .advanced d a s)

/-- The command streamer writes the five descriptor registers (R31-R33, R850). -/
def execElementDescriptor (d : QWord) (a : DescArgs) (s : State) : Host.Outcome State Fault Refusal :=
  toOutcome (.ok (writeDescriptors d a s))

/-- A page fault under a descriptor with Fault Model 00 (R821). -/
def execFaultModelHang (d : QWord) (a : FaultArgs) (s : State) : Host.Outcome State Fault Refusal :=
  toOutcome (presentFault d a a.code s)

/-- A page fault under a descriptor with Fault Model 01 (R821). -/
def execFaultModelHalt (d : QWord) (a : FaultArgs) (s : State) : Host.Outcome State Fault Refusal :=
  toOutcome (presentFault d a a.code s)

/-- A page fault under a descriptor with Fault Model 10 (R821). -/
def execFaultModelStreamSwitch (d : QWord) (a : FaultArgs) (s : State) : Host.Outcome State Fault Refusal :=
  toOutcome (presentFault d a a.code s)

/-- A page fault under a descriptor with Fault Model 11 (R821). -/
def execFaultModelReserved (d : QWord) (a : FaultArgs) (s : State) : Host.Outcome State Fault Refusal :=
  toOutcome (presentFault d a a.code s)

/-- Fault code 00, no fault, under the context in force (R198, R801). -/
def execFaultCodeNone (a : FaultArgs) (s : State) : Host.Outcome State Fault Refusal :=
  toOutcome (presentFault (faultDesc s a.acc.eng) a 0 s)

/-- Fault code 01, not present or a reserved bit set, under the context in force (R198, R801). -/
def execFaultCodeNotPresentOrReserved (a : FaultArgs) (s : State) : Host.Outcome State Fault Refusal :=
  toOutcome (presentFault (faultDesc s a.acc.eng) a 1 s)

/-- Fault code 10, privilege, under the context in force (R198, R801). -/
def execFaultCodePrivilege (a : FaultArgs) (s : State) : Host.Outcome State Fault Refusal :=
  toOutcome (presentFault (faultDesc s a.acc.eng) a 2 s)

/-- Fault code 11, write permission, under the context in force (R198, R801). -/
def execFaultCodeWritePermission (a : FaultArgs) (s : State) : Host.Outcome State Fault Refusal :=
  toOutcome (presentFault (faultDesc s a.acc.eng) a 3 s)

end Sys2Proof.Machine
end

