-- ==== Sys2Proof/Machine/Etc.lean ====
section
/-! DEFINITION. The ETC1, ETC2 and EAC block decoders (R540-R558). -/

namespace Sys2Proof.Machine

open Sys2Proof

/-- The luminance table `LUM[row][column]` (R544). -/
def lumTable : List (List Int) :=
  [[2, 5, 9, 13, 18, 24, 33, 47],
   [8, 17, 29, 42, 60, 80, 106, 183],
   [-2, -5, -9, -13, -18, -24, -33, -47],
   [-8, -17, -29, -42, -60, -80, -106, -183]]

/-- The intensity modifier table `IM[i][ti]` (R553). -/
def imTable : List (List Int) :=
  [[-3, -3, -2, -2, -3, -3, -4, -3, -2, -2, -2, -2, -3, -1, -4, -3],
   [-6, -7, -5, -4, -6, -7, -7, -5, -6, -5, -4, -5, -4, -2, -6, -5],
   [-9, -10, -8, -6, -8, -9, -8, -8, -8, -8, -8, -7, -7, -3, -8, -7],
   [-15, -13, -13, -13, -12, -11, -11, -11, -10, -10, -10, -10, -10, -10, -9, -9],
   [2, 2, 1, 1, 2, 2, 3, 2, 1, 1, 1, 1, 2, 0, 3, 2],
   [5, 6, 4, 3, 5, 6, 6, 4, 5, 4, 3, 4, 3, 1, 5, 4],
   [8, 9, 7, 5, 7, 8, 7, 7, 7, 7, 7, 6, 6, 2, 7, 6],
   [14, 12, 12, 12, 11, 10, 10, 10, 9, 9, 9, 9, 9, 9, 8, 8]]

/-- The distance table (R547). -/
def distTable : List Nat := [3, 6, 11, 16, 23, 32, 41, 64]

/-- A cell of a table of integers. -/
def intCell (t : List (List Int)) (row col : Nat) : Int := (t.getD row []).getD col 0

/-- A distance. -/
def etcDist (di : Nat) : Int := (distTable.getD di 0 : Nat)

/-- The bit number of the MSB of texel `p` (R541). -/
def etcMsb (p : Nat) : Nat := if p < 8 then 40 + p else 24 + p

/-- `idx(row, col)`, 2*MSB + LSB, with p = 4*col + row (R544). -/
def etcIdx (b : QWord) (row col : Nat) : Nat :=
  let k := etcMsb (4 * col + row)
  2 * bitN b k + bitN b (k + 16)

/-- The sub-block of a texel (R542). -/
def etcSub (b : QWord) (row col : Nat) : Nat := if bit b 24 then row / 2 else col / 2

/-- The luminance table index of a sub-block (R541). -/
def etcTable (b : QWord) (sub : Nat) : Nat := if sub = 0 then field b 29 3 else field b 26 3

/-- The base colours of individual mode (R543). -/
def etcBaseIndividual (b : QWord) (sub : Nat) : Rgb :=
  let lo := if sub = 0 then 4 else 0
  Rgb.map ext4 ⟨field b lo 4, field b (8 + lo) 4, field b (16 + lo) 4⟩

/-- The base colours of differential mode, for sums within range (R543). -/
def etcBaseDifferential (b : QWord) (sub : Nat) : Rgb :=
  Rgb.map ext5 (if sub = 0 then ⟨field b 3 5, field b 11 5, field b 19 5⟩
    else ⟨(etcSum b 0).toNat, (etcSum b 8).toNat, (etcSum b 16).toNat⟩)

/-- The modifier of a texel (R544); punch-through blocks that are not opaque have rows 0 and 2 zeroed (R555). -/
def etcModifier (punch : Bool) (idx table : Nat) : Int :=
  if punch && (idx == 0 || idx == 2) then 0 else intCell lumTable idx table

/-- The colour of a texel of an individual or differential block (R544). -/
def etcBlockColour (base : Nat → Rgb) (punch : Bool) (b : QWord) (row col : Nat) : Rgb :=
  let s := etcSub b row col
  (base s).addClamped (etcModifier punch (etcIdx b row col) (etcTable b s))

/-- The four colours of T mode (R546). -/
def etcPaintT (b : QWord) : List Rgb :=
  let c0 := Rgb.map ext4 ⟨field b 3 2 * 4 + field b 0 2, field b 12 4, field b 8 4⟩
  let c1 := Rgb.map ext4 ⟨field b 20 4, field b 16 4, field b 28 4⟩
  let d := etcDist (field b 26 2 * 2 + bitN b 24)
  [c0, c1.addClamped d, c1, c1.addClamped (-d)]

/-- A colour as one number, red first (R548). -/
def Rgb.packed (c : Rgb) : Nat := c.r * 65536 + c.g * 256 + c.b

/-- The four colours of H mode (R548). -/
def etcPaintH (b : QWord) : List Rgb :=
  let c0 := Rgb.map ext4
    ⟨field b 3 4, field b 0 3 * 2 + bitN b 12, bitN b 11 * 8 + field b 8 2 * 2 + bitN b 23⟩
  let c1 := Rgb.map ext4 ⟨field b 19 4, field b 16 3 * 2 + bitN b 31, field b 27 4⟩
  let di0 := if c1.packed ≤ c0.packed then 1 else 0
  let d := etcDist (bitN b 26 * 4 + bitN b 24 * 2 + di0)
  [c0.addClamped d, c0.addClamped (-d), c1.addClamped d, c1.addClamped (-d)]

/-- The colour that a texel's index picks. -/
def etcPicked (paint : List Rgb) (b : QWord) (row col : Nat) : Rgb := paint.getD (etcIdx b row col) ⟨0, 0, 0⟩

/-- Base colour O of planar mode (R549). -/
def planarO (b : QWord) : Rgb :=
  ⟨ext6 (field b 1 6), ext7 (bitN b 0 * 64 + field b 9 6),
    ext6 (bitN b 8 * 32 + field b 19 2 * 8 + field b 16 2 * 2 + bitN b 31)⟩

/-- Base colour H of planar mode (R549). -/
def planarH (b : QWord) : Rgb :=
  ⟨ext6 (field b 26 5 * 2 + bitN b 24), ext7 (field b 33 7), ext6 (bitN b 32 * 32 + field b 43 5)⟩

/-- Base colour V of planar mode (R549). -/
def planarV (b : QWord) : Rgb :=
  ⟨ext6 (field b 40 3 * 8 + field b 53 3), ext7 (field b 48 5 * 4 + field b 62 2), ext6 (field b 56 6)⟩

/-- One channel of a planar texel: one quotient, rounded half up (R549, D18). -/
def planarChannel (x y : Nat) (o h v : Nat) : Nat :=
  clamp255 (((x : Int) * ((h : Int) - o) + (y : Int) * ((v : Int) - o) + 4 * o + 2) / 4)

/-- The colour of a planar texel (R549). -/
def etcPlanar (b : QWord) (row col : Nat) : Rgb :=
  let o := planarO b
  let h := planarH b
  let v := planarV b
  ⟨planarChannel col row o.r h.r v.r, planarChannel col row o.g h.g v.g, planarChannel col row o.b h.b v.b⟩

/-- The colour of a texel of an ETC2 block in a mode (R545). -/
def etc2Colour (m : Etc2Mode) (punch : Bool) (b : QWord) (row col : Nat) : Rgb :=
  match m with
  | .individual => etcBlockColour (etcBaseIndividual b) punch b row col
  | .differential => etcBlockColour (etcBaseDifferential b) punch b row col
  | .t => etcPicked (etcPaintT b) b row col
  | .h => etcPicked (etcPaintH b) b row col
  | .planar => etcPlanar b row col

/-- An opaque ETC2 block of a mode (R545). -/
def etc2Block (m : Etc2Mode) (srgb : Bool) (b : QWord) : TexelBlock :=
  block4x4 fun row col => rgbaTexel srgb (etc2Colour m false b row col).opaque

/-- A differential block (R543): with a sum out of range, which only ETC1 admits, all 16 texels are open (I70). -/
def etcDifferential (srgb : Bool) (b : QWord) (s : State) : TexelBlock :=
  if etcInRange b 0 && etcInRange b 8 && etcInRange b 16 then etc2Block .differential srgb b
  else block4x4 fun row col => freeTexel s (4 * row + col)

/-- A punch-through-alpha texel (R555). -/
def etc2PtaTexel (srgb : Bool) (b : QWord) (row col : Nat) : Texel :=
  let m := etc2DiffMode b
  let punch := !bit b 25
  if m ≠ .planar ∧ punch ∧ etcIdx b row col = 2 then rgbaTexel srgb transparent
  else rgbaTexel srgb (etc2Colour m punch b row col).opaque

/-- A punch-through-alpha block (R555, R556). -/
def etc2PtaBlock (srgb : Bool) (b : QWord) : TexelBlock := block4x4 (etc2PtaTexel srgb b)

/-! ### EAC (R552-R558) -/

/-- The bytes 2 to 7 of a block as a number, byte 2 the most significant: `W` of R552. -/
def eacBits (b : QWord) : Nat :=
  ((((field b 16 8 * 256 + field b 24 8) * 256 + field b 32 8) * 256 + field b 40 8) * 256 + field b 48 8) * 256
    + field b 56 8

/-- The 3-bit index of a texel (R552). -/
def eacIdx (b : QWord) (row col : Nat) : Nat := eacBits b / 2 ^ (45 - 3 * (4 * col + row)) % 8

/-- The modifier of a texel (R553). -/
def eacIm (b : QWord) (row col : Nat) : Int := intCell imTable (eacIdx b row col) (field b 8 4)

/-- The modifier scaled for 11 bits (R554). -/
def eacStep (b : QWord) (row col : Nat) : Int :=
  if field b 12 4 = 0 then eacIm b row col else eacIm b row col * (field b 12 4 : Nat) * 8

/-- An EAC_R11 value (R554). -/
def eacUnsigned (b : QWord) (row col : Nat) : Nat :=
  (clampInt 0 2047 ((field b 0 8 : Nat) * 8 + 4 + eacStep b row col)).toNat

/-- An EAC_SIGNED_R11 value (R554). -/
def eacSigned (b : QWord) (row col : Nat) : Int :=
  clampInt (-1023) 1023 (max (signExtendNat (field b 0 8) 8) (-127) * 8 + eacStep b row col)

/-- An EAC_R8 value (R557). -/
def eacR8 (b : QWord) (row col : Nat) : Nat :=
  clamp255 ((field b 0 8 : Nat) + eacIm b row col * (field b 12 4 : Nat))

/-- The channel of an EAC block: 11-bit UNORM or SNORM. -/
def eacChan (sgn : Bool) (b : QWord) (row col : Nat) : Chan :=
  if sgn then .snorm (eacSigned b row col) 1023 else .unorm (eacUnsigned b row col) 2047

/-- EAC_R11 and EAC_SIGNED_R11 (R552-R554). -/
def eacR11Block (sgn : Bool) (b : QWord) : TexelBlock :=
  block4x4 fun row col => ⟨eacChan sgn b row col, colourZero, colourZero, alphaOne⟩

/-- The low half of a 16-byte block. -/
def lowHalf (b : Block) : QWord := b.extractLsb' 0 64

/-- The high half of a 16-byte block. -/
def highHalf (b : Block) : QWord := b.extractLsb' 64 64

/-- EAC_RG11 and EAC_SIGNED_RG11 (R558). -/
def eacRg11Block (sgn : Bool) (b : Block) : TexelBlock :=
  block4x4 fun row col => ⟨eacChan sgn (lowHalf b) row col, eacChan sgn (highHalf b) row col, colourZero, alphaOne⟩

/-- A texel of ETC2_EAC_RGBA8 (R557). -/
def etc2EacTexel (srgb : Bool) (b : Block) (row col : Nat) : Texel :=
  let q := highHalf b
  let c := etc2Colour (etc2Mode q) false q row col
  rgbaTexel srgb ⟨c.r, c.g, c.b, eacR8 (lowHalf b) row col⟩

/-- ETC2_EAC_RGBA8 and ETC2_EAC_SRGB8_A8 (R557). -/
def etc2EacBlock (srgb : Bool) (b : Block) : TexelBlock := block4x4 (etc2EacTexel srgb b)

end Sys2Proof.Machine
end

