-- ==== Sys2Proof/Machine/Bc.lean ====
section
/-! DEFINITION. The DXT1-DXT5 (BC1-BC3), BC4 and BC5 block decoders (R590-R602). -/

namespace Sys2Proof.Machine

open Sys2Proof

/-- A colour word, expanded to 8 bits a channel (R591, R593). -/
def dxtColour (b : QWord) (lo : Nat) : Rgb :=
  ⟨ext5 (field b (lo + 11) 5), ext6 (field b (lo + 5) 6), ext5 (field b lo 5)⟩

/-- The opaque colour table (R592). -/
def dxtFour (c0 c1 : Rgb) (code : Nat) : Rgba :=
  match code with
  | 0 => c0.opaque
  | 1 => c1.opaque
  | 2 => (c0.map2 (fun x y => (2 * x + y) / 3) c1).opaque
  | _ => (c0.map2 (fun x y => (x + 2 * y) / 3) c1).opaque

/-- The colour table with one-bit alpha (R592). -/
def dxtThree (c0 c1 : Rgb) (code : Nat) : Rgba :=
  match code with
  | 0 => c0.opaque
  | 1 => c1.opaque
  | 2 => (c0.map2 (fun x y => (x + y) / 2) c1).opaque
  | _ => transparent

/-- The colour of texel t of a colour block under a table (R591). -/
def dxtTexel (table : Rgb → Rgb → Nat → Rgba) (b : QWord) (t : Nat) : Rgba :=
  table (dxtColour b 0) (dxtColour b 16) (field b (32 + 2 * t) 2)

/-- A DXT1 block under a table (R591-R594). -/
def dxt1Block (table : Rgb → Rgb → Nat → Rgba) (b : QWord) : TexelBlock :=
  block4x4 fun row col => rgbaTexel false (dxtTexel table b (4 * row + col))

/-- Explicit alpha (R596). -/
def dxt3Alpha (b : QWord) (t : Nat) : Nat := ext4 (field b (4 * t) 4)

/-- The table of eight interpolated values (R597, R601): quotients round toward minus infinity (D23, log entry 18). -/
def interp8 (a0 a1 : Int) (k : Nat) : Int :=
  match k with
  | 0 => a0
  | 1 => a1
  | k => ((8 - (k : Int)) * a0 + ((k : Int) - 1) * a1) / 7

/-- The table of six interpolated values with its two constants (R597, R601, D23). -/
def interp6 (lo hi : Int) (a0 a1 : Int) (k : Nat) : Int :=
  match k with
  | 0 => a0
  | 1 => a1
  | 6 => lo
  | 7 => hi
  | k => ((6 - (k : Int)) * a0 + ((k : Int) - 1) * a1) / 5

/-- The 3-bit code of a texel (R597, R600). -/
def bc4Code (b : QWord) (t : Nat) : Nat := field b (16 + 3 * t) 3

/-- An unsigned single-channel value, standing for v/255 (R597, R601). -/
def bc4Unsigned (b : QWord) (t : Nat) : Nat :=
  let a0 : Int := (field b 0 8 : Nat)
  let a1 : Int := (field b 8 8 : Nat)
  (if a1 < a0 then interp8 a0 a1 (bc4Code b t) else interp6 0 255 a0 a1 (bc4Code b t)).toNat

/-- A stored signed byte: -128 is used as -127 (R601). -/
def bc4Byte (v : Nat) : Int := max (signExtendNat v 8) (-127)

/-- A signed single-channel value, standing for v/127: the stored bytes compared as signed (R601), the quotients rounded toward
minus infinity (D23, log entry 18). -/
def bc4Signed (b : QWord) (t : Nat) : Int :=
  let a0 := bc4Byte (field b 0 8)
  let a1 := bc4Byte (field b 8 8)
  if signExtendNat (field b 8 8) 8 < signExtendNat (field b 0 8) 8 then interp8 a0 a1 (bc4Code b t)
  else interp6 (-127) 127 a0 a1 (bc4Code b t)

/-- A channel of a BC4 or BC5 block. -/
def bc4Chan (sgn : Bool) (b : QWord) (t : Nat) : Chan :=
  if sgn then .snorm (bc4Signed b t) 127 else .unorm (bc4Unsigned b t) 255

/-- A colour block with an alpha of its own, always four colours (R595). -/
def dxtAlphaBlock (alpha : QWord → Nat → Nat) (b : Block) : TexelBlock :=
  block4x4 fun row col =>
    rgbaTexel false { dxtTexel dxtFour (highHalf b) (4 * row + col) with a := alpha (lowHalf b) (4 * row + col) }

/-- BC4 (R600, R601). -/
def bc4Block (sgn : Bool) (b : QWord) : TexelBlock :=
  block4x4 fun row col => ⟨bc4Chan sgn b (4 * row + col), colourZero, colourZero, alphaOne⟩

/-- BC5 (R602). -/
def bc5Block (sgn : Bool) (b : Block) : TexelBlock :=
  block4x4 fun row col =>
    ⟨bc4Chan sgn (lowHalf b) (4 * row + col), bc4Chan sgn (highHalf b) (4 * row + col), colourZero, alphaOne⟩

end Sys2Proof.Machine
end

