-- ==== Sys2Proof/Machine/Partitions.lean ====
section
/-! DEFINITION. The partition tables of BC6H and BC7 (R614, R627, R628). -/

namespace Sys2Proof.Machine

/-- The two-line partitions (R614, R627): bit t is the line of texel t, then the fix-up texel of line 1,
   sets 0 to 15. -/
def part2A : List (Nat × Nat) :=
  [(0xCCCC, 15), (0x8888, 15), (0xEEEE, 15), (0xECC8, 15), (0xC880, 15), (0xFEEC, 15), (0xFEC8, 15), (0xEC80, 15),
   (0xC800, 15), (0xFFEC, 15), (0xFE80, 15), (0xE800, 15), (0xFFE8, 15), (0xFF00, 15), (0xFFF0, 15), (0xF000, 15)]

/-- The two-line partitions (R614, R627): bit t is the line of texel t, then the fix-up texel of line 1,
   sets 16 to 31. -/
def part2B : List (Nat × Nat) :=
  [(0xF710, 15), (0x008E, 2), (0x7100, 8), (0x08CE, 2), (0x008C, 2), (0x7310, 8), (0x3100, 8), (0x8CCE, 15), (0x088C,
   2), (0x3110, 8), (0x6666, 2), (0x366C, 2), (0x17E8, 8), (0x0FF0, 8), (0x718E, 2), (0x399C, 2)]

/-- The two-line partitions (R614, R627): bit t is the line of texel t, then the fix-up texel of line 1,
   sets 32 to 47. -/
def part2C : List (Nat × Nat) :=
  [(0xAAAA, 15), (0xF0F0, 15), (0x5A5A, 6), (0x33CC, 8), (0x3C3C, 2), (0x55AA, 8), (0x9696, 15), (0xA55A, 15),
   (0x73CE, 2), (0x13C8, 8), (0x324C, 2), (0x3BDC, 2), (0x6996, 2), (0xC33C, 15), (0x9966, 15), (0x0660, 6)]

/-- The two-line partitions (R614, R627): bit t is the line of texel t, then the fix-up texel of line 1,
   sets 48 to 63. -/
def part2D : List (Nat × Nat) :=
  [(0x0272, 6), (0x04E4, 2), (0x4E40, 6), (0x2720, 8), (0xC936, 15), (0x936C, 15), (0x39C6, 2), (0x639C, 2), (0x9336,
   15), (0x9CC6, 15), (0x817E, 15), (0xE718, 15), (0xCCF0, 15), (0x0FCC, 2), (0x7744, 2), (0xEE22, 15)]

/-- The two-line partitions (R614, R627): bit t is the line of texel t, then the fix-up texel of line 1. -/
def part2 : List (Nat × Nat) := part2A ++ part2B ++ part2C ++ part2D

/-- The three-line partitions (R628): base-4 digit t is the line of texel t, then the fix-up texels of lines 1 and 2,
   sets 0 to 15. -/
def part3A : List (Nat × Nat × Nat) :=
  [(0xAA685050, 3, 15), (0x6A5A5040, 3, 8), (0x5A5A4200, 15, 8), (0x5450A0A8, 15, 3), (0xA5A50000, 8, 15),
   (0xA0A05050, 3, 15), (0x5555A0A0, 15, 3), (0x5A5A5050, 15, 8), (0xAA550000, 8, 15), (0xAA555500, 8, 15),
   (0xAAAA5500, 6, 15), (0x90909090, 6, 15), (0x94949494, 6, 15), (0xA4A4A4A4, 5, 15), (0xA9A59450, 3, 15),
   (0x2A0A4250, 3, 8)]

/-- The three-line partitions (R628): base-4 digit t is the line of texel t, then the fix-up texels of lines 1 and 2,
   sets 16 to 31. -/
def part3B : List (Nat × Nat × Nat) :=
  [(0xA5945040, 3, 15), (0x0A425054, 3, 8), (0xA5A5A500, 8, 15), (0x55A0A0A0, 15, 3), (0xA8A85454, 3, 15),
   (0x6A6A4040, 3, 8), (0xA4A45000, 6, 15), (0x1A1A0500, 10, 8), (0x0050A4A4, 5, 3), (0xAAA59090, 8, 15),
   (0x14696914, 8, 6), (0x69691400, 6, 10), (0xA08585A0, 8, 15), (0xAA821414, 5, 15), (0x50A4A450, 15, 10),
   (0x6A5A0200, 15, 8)]

/-- The three-line partitions (R628): base-4 digit t is the line of texel t, then the fix-up texels of lines 1 and 2,
   sets 32 to 47. -/
def part3C : List (Nat × Nat × Nat) :=
  [(0xA9A58000, 8, 15), (0x5090A0A8, 15, 3), (0xA8A09050, 3, 15), (0x24242424, 5, 10), (0x00AA5500, 6, 10),
   (0x24924924, 10, 8), (0x24499224, 8, 9), (0x50A50A50, 15, 10), (0x500AA550, 15, 6), (0xAAAA4444, 3, 15),
   (0x66660000, 15, 8), (0xA5A0A5A0, 5, 15), (0x50A050A0, 15, 3), (0x69286928, 15, 6), (0x44AAAA44, 15, 6),
   (0x66666600, 15, 8)]

/-- The three-line partitions (R628): base-4 digit t is the line of texel t, then the fix-up texels of lines 1 and 2,
   sets 48 to 63. -/
def part3D : List (Nat × Nat × Nat) :=
  [(0xAA444444, 3, 15), (0x54A854A8, 15, 3), (0x95809580, 5, 15), (0x96969600, 5, 15), (0xA85454A8, 5, 15),
   (0x80959580, 8, 15), (0xAA141414, 5, 15), (0x96960000, 10, 15), (0xAAAA1414, 5, 15), (0xA05050A0, 10, 15),
   (0xA0A5A5A0, 8, 15), (0x96000000, 13, 15), (0x40804080, 15, 3), (0xA9A8A9A8, 12, 15), (0xAAAAAA44, 3, 15),
   (0x2A4A5254, 3, 8)]

/-- The three-line partitions (R628): base-4 digit t is the line of texel t,
   then the fix-up texels of lines 1 and 2. -/
def part3 : List (Nat × Nat × Nat) := part3A ++ part3B ++ part3C ++ part3D

/-- The line of a texel in a two-line partition (R614). -/
def part2Line (p t : Nat) : Nat := (part2.getD p (0, 0)).1 / 2 ^ t % 2

/-- The fix-up texels of a two-line partition (R614). -/
def part2Fix (p : Nat) : List Nat := [0, (part2.getD p (0, 0)).2]

/-- The line of a texel in a three-line partition (R628). -/
def part3Line (p t : Nat) : Nat := (part3.getD p (0, 0, 0)).1 / 4 ^ t % 4

/-- The fix-up texels of a three-line partition (R628). -/
def part3Fix (p : Nat) : List Nat := [0, (part3.getD p (0, 0, 0)).2.1, (part3.getD p (0, 0, 0)).2.2]

end Sys2Proof.Machine
end

