-- ==== Sys2Proof/Machine/Bc6h.lean ====
section
/-! DEFINITION. The BC6H block decoder (R605-R614). -/

namespace Sys2Proof.Machine

open Sys2Proof

/-- Channels. -/
inductive Channel where
  | r | g | b
deriving DecidableEq, Repr

/-- Endpoints: w and x of line 0, y and z of line 1 (R606). -/
inductive Endpoint where
  | w | x | y | z
deriving DecidableEq, Repr

/-- A piece of an endpoint's field: `len` bits at block bit `lo`, placed at bit `dst` of the field (R607). -/
structure Bc6hPiece where
  ch : Channel
  ep : Endpoint
  lo : Nat
  len : Nat
  dst : Nat
deriving DecidableEq, Repr

/-- A mode: two lines or one, the precision of w, the delta widths (none: absolute values), the field pieces (R606, R607). -/
structure Bc6hMode where
  two : Bool
  prec : Nat
  deltas : Option (Nat × Nat × Nat)
  pieces : List Bc6hPiece
deriving DecidableEq, Repr

/-- Mode 0 (R606, R607). -/
def bc6hMode0 : Bc6hMode :=
  ⟨true, 10, some (5, 5, 5),
   [⟨.g, .y, 2, 1, 4⟩, ⟨.b, .y, 3, 1, 4⟩, ⟨.b, .z, 4, 1, 4⟩, ⟨.r, .w, 5, 10, 0⟩, ⟨.g, .w, 15, 10, 0⟩, ⟨.b, .w, 25,
   10, 0⟩, ⟨.r, .x, 35, 5, 0⟩, ⟨.g, .z, 40, 1, 4⟩, ⟨.g, .y, 41, 4, 0⟩, ⟨.g, .x, 45, 5, 0⟩, ⟨.b, .z, 50, 1, 0⟩, ⟨.g,
   .z, 51, 4, 0⟩, ⟨.b, .x, 55, 5, 0⟩, ⟨.b, .z, 60, 1, 1⟩, ⟨.b, .y, 61, 4, 0⟩, ⟨.r, .y, 65, 5, 0⟩, ⟨.b, .z, 70, 1, 2⟩,
   ⟨.r, .z, 71, 5, 0⟩, ⟨.b, .z, 76, 1, 3⟩]⟩

/-- Mode 1 (R606, R607). -/
def bc6hMode1 : Bc6hMode :=
  ⟨true, 7, some (6, 6, 6),
   [⟨.g, .y, 2, 1, 5⟩, ⟨.g, .z, 3, 1, 4⟩, ⟨.g, .z, 4, 1, 5⟩, ⟨.r, .w, 5, 7, 0⟩, ⟨.b, .z, 12, 1, 0⟩, ⟨.b, .z, 13, 1,
   1⟩, ⟨.b, .y, 14, 1, 4⟩, ⟨.g, .w, 15, 7, 0⟩, ⟨.b, .y, 22, 1, 5⟩, ⟨.b, .z, 23, 1, 2⟩, ⟨.g, .y, 24, 1, 4⟩, ⟨.b, .w,
   25, 7, 0⟩, ⟨.b, .z, 32, 1, 3⟩, ⟨.b, .z, 33, 1, 5⟩, ⟨.b, .z, 34, 1, 4⟩, ⟨.r, .x, 35, 6, 0⟩, ⟨.g, .y, 41, 4, 0⟩,
   ⟨.g, .x, 45, 6, 0⟩, ⟨.g, .z, 51, 4, 0⟩, ⟨.b, .x, 55, 6, 0⟩, ⟨.b, .y, 61, 4, 0⟩, ⟨.r, .y, 65, 6, 0⟩, ⟨.r, .z, 71,
   6, 0⟩]⟩

/-- Mode 2 (R606, R607). -/
def bc6hMode2 : Bc6hMode :=
  ⟨true, 11, some (5, 4, 4),
   [⟨.r, .w, 5, 10, 0⟩, ⟨.g, .w, 15, 10, 0⟩, ⟨.b, .w, 25, 10, 0⟩, ⟨.r, .x, 35, 5, 0⟩, ⟨.r, .w, 40, 1, 10⟩, ⟨.g, .y,
   41, 4, 0⟩, ⟨.g, .x, 45, 4, 0⟩, ⟨.g, .w, 49, 1, 10⟩, ⟨.b, .z, 50, 1, 0⟩, ⟨.g, .z, 51, 4, 0⟩, ⟨.b, .x, 55, 4, 0⟩,
   ⟨.b, .w, 59, 1, 10⟩, ⟨.b, .z, 60, 1, 1⟩, ⟨.b, .y, 61, 4, 0⟩, ⟨.r, .y, 65, 5, 0⟩, ⟨.b, .z, 70, 1, 2⟩, ⟨.r, .z, 71,
   5, 0⟩, ⟨.b, .z, 76, 1, 3⟩]⟩

/-- Mode 3 (R606, R607). -/
def bc6hMode3 : Bc6hMode :=
  ⟨true, 11, some (4, 5, 4),
   [⟨.r, .w, 5, 10, 0⟩, ⟨.g, .w, 15, 10, 0⟩, ⟨.b, .w, 25, 10, 0⟩, ⟨.r, .x, 35, 4, 0⟩, ⟨.r, .w, 39, 1, 10⟩, ⟨.g, .z,
   40, 1, 4⟩, ⟨.g, .y, 41, 4, 0⟩, ⟨.g, .x, 45, 5, 0⟩, ⟨.g, .w, 50, 1, 10⟩, ⟨.g, .z, 51, 4, 0⟩, ⟨.b, .x, 55, 4, 0⟩,
   ⟨.b, .w, 59, 1, 10⟩, ⟨.b, .z, 60, 1, 1⟩, ⟨.b, .y, 61, 4, 0⟩, ⟨.r, .y, 65, 4, 0⟩, ⟨.b, .z, 69, 1, 0⟩, ⟨.b, .z, 70,
   1, 2⟩, ⟨.r, .z, 71, 4, 0⟩, ⟨.g, .y, 75, 1, 4⟩, ⟨.b, .z, 76, 1, 3⟩]⟩

/-- Mode 4 (R606, R607). -/
def bc6hMode4 : Bc6hMode :=
  ⟨true, 11, some (4, 4, 5),
   [⟨.r, .w, 5, 10, 0⟩, ⟨.g, .w, 15, 10, 0⟩, ⟨.b, .w, 25, 10, 0⟩, ⟨.r, .x, 35, 4, 0⟩, ⟨.r, .w, 39, 1, 10⟩, ⟨.b, .y,
   40, 1, 4⟩, ⟨.g, .y, 41, 4, 0⟩, ⟨.g, .x, 45, 4, 0⟩, ⟨.g, .w, 49, 1, 10⟩, ⟨.b, .z, 50, 1, 0⟩, ⟨.g, .z, 51, 4, 0⟩,
   ⟨.b, .x, 55, 5, 0⟩, ⟨.b, .w, 60, 1, 10⟩, ⟨.b, .y, 61, 4, 0⟩, ⟨.r, .y, 65, 4, 0⟩, ⟨.b, .z, 69, 1, 1⟩, ⟨.b, .z, 70,
   1, 2⟩, ⟨.r, .z, 71, 4, 0⟩, ⟨.b, .z, 75, 1, 4⟩, ⟨.b, .z, 76, 1, 3⟩]⟩

/-- Mode 5 (R606, R607). -/
def bc6hMode5 : Bc6hMode :=
  ⟨true, 9, some (5, 5, 5),
   [⟨.r, .w, 5, 9, 0⟩, ⟨.b, .y, 14, 1, 4⟩, ⟨.g, .w, 15, 9, 0⟩, ⟨.g, .y, 24, 1, 4⟩, ⟨.b, .w, 25, 9, 0⟩, ⟨.b, .z, 34,
   1, 4⟩, ⟨.r, .x, 35, 5, 0⟩, ⟨.g, .z, 40, 1, 4⟩, ⟨.g, .y, 41, 4, 0⟩, ⟨.g, .x, 45, 5, 0⟩, ⟨.b, .z, 50, 1, 0⟩, ⟨.g,
   .z, 51, 4, 0⟩, ⟨.b, .x, 55, 5, 0⟩, ⟨.b, .z, 60, 1, 1⟩, ⟨.b, .y, 61, 4, 0⟩, ⟨.r, .y, 65, 5, 0⟩, ⟨.b, .z, 70, 1, 2⟩,
   ⟨.r, .z, 71, 5, 0⟩, ⟨.b, .z, 76, 1, 3⟩]⟩

/-- Mode 6 (R606, R607). -/
def bc6hMode6 : Bc6hMode :=
  ⟨true, 8, some (6, 5, 5),
   [⟨.r, .w, 5, 8, 0⟩, ⟨.g, .z, 13, 1, 4⟩, ⟨.b, .y, 14, 1, 4⟩, ⟨.g, .w, 15, 8, 0⟩, ⟨.b, .z, 23, 1, 2⟩, ⟨.g, .y, 24,
   1, 4⟩, ⟨.b, .w, 25, 8, 0⟩, ⟨.b, .z, 33, 1, 3⟩, ⟨.b, .z, 34, 1, 4⟩, ⟨.r, .x, 35, 6, 0⟩, ⟨.g, .y, 41, 4, 0⟩, ⟨.g,
   .x, 45, 5, 0⟩, ⟨.b, .z, 50, 1, 0⟩, ⟨.g, .z, 51, 4, 0⟩, ⟨.b, .x, 55, 5, 0⟩, ⟨.b, .z, 60, 1, 1⟩, ⟨.b, .y, 61, 4, 0⟩,
   ⟨.r, .y, 65, 6, 0⟩, ⟨.r, .z, 71, 6, 0⟩]⟩

/-- Mode 7 (R606, R607). -/
def bc6hMode7 : Bc6hMode :=
  ⟨true, 8, some (5, 6, 5),
   [⟨.r, .w, 5, 8, 0⟩, ⟨.b, .z, 13, 1, 0⟩, ⟨.b, .y, 14, 1, 4⟩, ⟨.g, .w, 15, 8, 0⟩, ⟨.g, .y, 23, 1, 5⟩, ⟨.g, .y, 24,
   1, 4⟩, ⟨.b, .w, 25, 8, 0⟩, ⟨.g, .z, 33, 1, 5⟩, ⟨.b, .z, 34, 1, 4⟩, ⟨.r, .x, 35, 5, 0⟩, ⟨.g, .z, 40, 1, 4⟩, ⟨.g,
   .y, 41, 4, 0⟩, ⟨.g, .x, 45, 6, 0⟩, ⟨.g, .z, 51, 4, 0⟩, ⟨.b, .x, 55, 5, 0⟩, ⟨.b, .z, 60, 1, 1⟩, ⟨.b, .y, 61, 4, 0⟩,
   ⟨.r, .y, 65, 5, 0⟩, ⟨.b, .z, 70, 1, 2⟩, ⟨.r, .z, 71, 5, 0⟩, ⟨.b, .z, 76, 1, 3⟩]⟩

/-- Mode 8 (R606, R607). -/
def bc6hMode8 : Bc6hMode :=
  ⟨true, 8, some (5, 5, 6),
   [⟨.r, .w, 5, 8, 0⟩, ⟨.b, .z, 13, 1, 1⟩, ⟨.b, .y, 14, 1, 4⟩, ⟨.g, .w, 15, 8, 0⟩, ⟨.b, .y, 23, 1, 5⟩, ⟨.g, .y, 24,
   1, 4⟩, ⟨.b, .w, 25, 8, 0⟩, ⟨.b, .z, 33, 1, 5⟩, ⟨.b, .z, 34, 1, 4⟩, ⟨.r, .x, 35, 5, 0⟩, ⟨.g, .z, 40, 1, 4⟩, ⟨.g,
   .y, 41, 4, 0⟩, ⟨.g, .x, 45, 5, 0⟩, ⟨.b, .z, 50, 1, 0⟩, ⟨.g, .z, 51, 4, 0⟩, ⟨.b, .x, 55, 6, 0⟩, ⟨.b, .y, 61, 4, 0⟩,
   ⟨.r, .y, 65, 5, 0⟩, ⟨.b, .z, 70, 1, 2⟩, ⟨.r, .z, 71, 5, 0⟩, ⟨.b, .z, 76, 1, 3⟩]⟩

/-- Mode 9 (R606, R607). -/
def bc6hMode9 : Bc6hMode :=
  ⟨true, 6, none,
   [⟨.r, .w, 5, 6, 0⟩, ⟨.g, .z, 11, 1, 4⟩, ⟨.b, .z, 12, 1, 0⟩, ⟨.b, .z, 13, 1, 1⟩, ⟨.b, .y, 14, 1, 4⟩, ⟨.g, .w, 15,
   6, 0⟩, ⟨.g, .y, 21, 1, 5⟩, ⟨.b, .y, 22, 1, 5⟩, ⟨.b, .z, 23, 1, 2⟩, ⟨.g, .y, 24, 1, 4⟩, ⟨.b, .w, 25, 6, 0⟩, ⟨.g,
   .z, 31, 1, 5⟩, ⟨.b, .z, 32, 1, 3⟩, ⟨.b, .z, 33, 1, 5⟩, ⟨.b, .z, 34, 1, 4⟩, ⟨.r, .x, 35, 6, 0⟩, ⟨.g, .y, 41, 4, 0⟩,
   ⟨.g, .x, 45, 6, 0⟩, ⟨.g, .z, 51, 4, 0⟩, ⟨.b, .x, 55, 6, 0⟩, ⟨.b, .y, 61, 4, 0⟩, ⟨.r, .y, 65, 6, 0⟩, ⟨.r, .z, 71,
   6, 0⟩]⟩

/-- Mode 10 (R606, R607). -/
def bc6hMode10 : Bc6hMode :=
  ⟨false, 10, none,
   [⟨.r, .w, 5, 10, 0⟩, ⟨.g, .w, 15, 10, 0⟩, ⟨.b, .w, 25, 10, 0⟩, ⟨.r, .x, 35, 10, 0⟩, ⟨.g, .x, 45, 10, 0⟩, ⟨.b, .x,
   55, 10, 0⟩]⟩

/-- Mode 11 (R606, R607). -/
def bc6hMode11 : Bc6hMode :=
  ⟨false, 11, some (9, 9, 9),
   [⟨.r, .w, 5, 10, 0⟩, ⟨.g, .w, 15, 10, 0⟩, ⟨.b, .w, 25, 10, 0⟩, ⟨.r, .x, 35, 9, 0⟩, ⟨.r, .w, 44, 1, 10⟩, ⟨.g, .x,
   45, 9, 0⟩, ⟨.g, .w, 54, 1, 10⟩, ⟨.b, .x, 55, 9, 0⟩, ⟨.b, .w, 64, 1, 10⟩]⟩

/-- Mode 12 (R606, R607). -/
def bc6hMode12 : Bc6hMode :=
  ⟨false, 12, some (8, 8, 8),
   [⟨.r, .w, 5, 10, 0⟩, ⟨.g, .w, 15, 10, 0⟩, ⟨.b, .w, 25, 10, 0⟩, ⟨.r, .x, 35, 8, 0⟩, ⟨.r, .w, 43, 1, 11⟩, ⟨.r, .w,
   44, 1, 10⟩, ⟨.g, .x, 45, 8, 0⟩, ⟨.g, .w, 53, 1, 11⟩, ⟨.g, .w, 54, 1, 10⟩, ⟨.b, .x, 55, 8, 0⟩, ⟨.b, .w, 63, 1, 11⟩,
   ⟨.b, .w, 64, 1, 10⟩]⟩

/-- Mode 13 (R606, R607). -/
def bc6hMode13 : Bc6hMode :=
  ⟨false, 16, some (4, 4, 4),
   [⟨.r, .w, 5, 10, 0⟩, ⟨.g, .w, 15, 10, 0⟩, ⟨.b, .w, 25, 10, 0⟩, ⟨.r, .x, 35, 4, 0⟩, ⟨.r, .w, 39, 1, 15⟩, ⟨.r, .w,
   40, 1, 14⟩, ⟨.r, .w, 41, 1, 13⟩, ⟨.r, .w, 42, 1, 12⟩, ⟨.r, .w, 43, 1, 11⟩, ⟨.r, .w, 44, 1, 10⟩, ⟨.g, .x, 45, 4,
   0⟩, ⟨.g, .w, 49, 1, 15⟩, ⟨.g, .w, 50, 1, 14⟩, ⟨.g, .w, 51, 1, 13⟩, ⟨.g, .w, 52, 1, 12⟩, ⟨.g, .w, 53, 1, 11⟩, ⟨.g,
   .w, 54, 1, 10⟩, ⟨.b, .x, 55, 4, 0⟩, ⟨.b, .w, 59, 1, 15⟩, ⟨.b, .w, 60, 1, 14⟩, ⟨.b, .w, 61, 1, 13⟩, ⟨.b, .w, 62, 1,
   12⟩, ⟨.b, .w, 63, 1, 11⟩, ⟨.b, .w, 64, 1, 10⟩]⟩

/-- The field of an endpoint, its pieces put together (R607). -/
def bc6hField (m : Bc6hMode) (b : Block) (c : Channel) (e : Endpoint) : Nat :=
  ((m.pieces.filter fun p => p.ch == c && p.ep == e).map fun p => field b p.lo p.len * 2 ^ p.dst).sum

/-- The delta width of a channel (R606). -/
def deltaWidth (d : Nat × Nat × Nat) : Channel → Nat
  | .r => d.1
  | .g => d.2.1
  | .b => d.2.2

/-- A field extended to an integer (R609): sign-extended in the signed format, else zero-extended. -/
def bc6hExt (sgn : Bool) (v n : Nat) : Int := if sgn then signExtendNat v n else v

/-- The value of a 16-bit sum (R609): read as signed in the signed format. -/
def bc6hWrap (sgn : Bool) (v : Int) : Int :=
  let m := (v % 65536).toNat
  if sgn then signExtendNat m 16 else m

/-- A sum that `prec` bits cannot represent (R609, I71). -/
def bc6hOverflows (sgn : Bool) (prec : Nat) (e : Int) : Bool :=
  if sgn then decide ((2 ^ (prec - 1) : Nat) - 1 < (e.natAbs : Int)) else decide ((2 ^ prec : Nat) ≤ e)

/-- An endpoint of a channel, or `none` where the sum does not fit (R609). -/
def bc6hEndpoint (m : Bc6hMode) (sgn : Bool) (b : Block) (c : Channel) (e : Endpoint) : Option Int :=
  let w := bc6hExt sgn (bc6hField m b c .w) m.prec
  if e = .w then some w
  else match m.deltas with
    | none => some (bc6hExt sgn (bc6hField m b c e) m.prec)
    | some d =>
      let v := bc6hWrap sgn (w + signExtendNat (bc6hField m b c e) (deltaWidth d c))
      if bc6hOverflows sgn m.prec v then none else some v

/-- Unquantisation of an unsigned endpoint (R610). -/
def bc6hUnquantUf (prec e : Nat) : Nat :=
  if prec = 16 then e
  else if e = 0 then 0
  else if e = 2 ^ prec - 1 then 0xFFFF
  else (e * 65536 + 0x8000) / 2 ^ prec

/-- Unquantisation of a magnitude (R610, C57). -/
def bc6hUnquantSf (prec m : Nat) : Nat :=
  if prec = 16 then m
  else if m = 0 then 0
  else if m = 2 ^ (prec - 1) - 1 then 0x7FFF
  else (m * 32768 + 0x4000) / 2 ^ (prec - 1)

/-- Unquantisation (R610): the signed format keeps the sign. -/
def bc6hUnquant (sgn : Bool) (prec : Nat) (e : Int) : Int :=
  if sgn then (if e < 0 then -(bc6hUnquantSf prec e.natAbs : Int) else bc6hUnquantSf prec e.natAbs)
  else bc6hUnquantUf prec e.toNat

/-- The weights of 8 and of 16 palette entries (R611, R624). -/
def weights8 : List Nat := [0, 9, 18, 27, 37, 46, 55, 64]
/-- The weights of 16 palette entries (R611, R624). -/
def weights16 : List Nat := [0, 4, 9, 13, 17, 21, 26, 30, 34, 38, 43, 47, 51, 55, 60, 64]

/-- A palette entry (R611): the shift of a negative interpolant is arithmetic (D24). -/
def bc6hInterpolate (x y : Int) (weight : Nat) : Int := (x * (64 - (weight : Int)) + y * weight + 32) / 64

/-- The final rescale to a half-float pattern (R611, D24). -/
def bc6hRescale (sgn : Bool) (p : Int) : BitVec 16 :=
  if sgn then
    let m := BitVec.ofNat 16 (p.natAbs * 31 / 32)
    if p < 0 then 0x8000 ||| m else m
  else BitVec.ofNat 16 (p.toNat * 31 / 64)

/-- The position and width of a texel's index when `fix` are the fix-up texels, which have one bit less (R608, R622). -/
def packedIndex (b : Block) (pos nb : Nat) (fix : List Nat) (t : Nat) : Nat :=
  let before := (fix.filter fun k => decide (k < t)).length
  field b (pos + nb * t - before) (if fix.contains t then nb - 1 else nb)

/-- The line, index and weight of a texel (R608, R612). -/
def bc6hIndex (m : Bc6hMode) (b : Block) (t : Nat) : Nat × Nat :=
  let p := field b 77 5
  if m.two then (part2Line p t, weights8.getD (packedIndex b 82 3 (part2Fix p) t) 0)
  else (0, weights16.getD (packedIndex b 65 4 [0] t) 0)

/-- A channel of a texel, `none` where an endpoint of its line does not fit. -/
def bc6hChannel (m : Bc6hMode) (sgn : Bool) (b : Block) (t : Nat) (c : Channel) : Option (BitVec 16) :=
  let lw := bc6hIndex m b t
  let e0 := if lw.1 = 0 then Endpoint.w else .y
  let e1 := if lw.1 = 0 then Endpoint.x else .z
  match bc6hEndpoint m sgn b c e0, bc6hEndpoint m sgn b c e1 with
  | some p, some q =>
    some (bc6hRescale sgn (bc6hInterpolate (bc6hUnquant sgn m.prec p) (bc6hUnquant sgn m.prec q) lw.2))
  | _, _ => none

/-- A texel of a BC6H block (R612): open colour channels where an endpoint of its line does not fit (I71); alpha 1.0 (R605). -/
def bc6hTexel (m : Bc6hMode) (sgn : Bool) (b : Block) (s : State) (t : Nat) : Texel :=
  match bc6hChannel m sgn b t .r, bc6hChannel m sgn b t .g, bc6hChannel m sgn b t .b with
  | some x, some y, some z => ⟨.half x, .half y, .half z, alphaOne⟩
  | _, _, _ => { freeTexel s t with a := alphaOne }

/-- A BC6H block (R605-R614). -/
def bc6hBlock (m : Bc6hMode) (sgn : Bool) (b : Block) (s : State) : TexelBlock :=
  block4x4 fun row col => bc6hTexel m sgn b s (4 * row + col)

/-- A block of an undefined mode (R606): zero colour, alpha 1.0. -/
def bc6hUndefined : TexelBlock := block4x4 fun _ _ => ⟨.half 0, .half 0, .half 0, alphaOne⟩

end Sys2Proof.Machine
end

