-- ==== Sys2Proof/Machine/Bc7.lean ====
section
/-! DEFINITION. The BC7 block decoder (R620-R628). -/

namespace Sys2Proof.Machine

open Sys2Proof

/-- The P-bits of a mode (R620). -/
inductive PBits where
  | none | perEndpoint | perLine
deriving DecidableEq, Repr

/-- A BC7 mode (R620, R621): the number of its selector bits, lines, partition bits, rotation and index-selector bits, colour and
alpha bits, P-bits, and the bits of its one or two index sets (0: no second set). -/
structure Bc7Mode where
  selBits : Nat
  lines : Nat
  partBits : Nat
  rotBits : Nat
  idxSelBits : Nat
  colourBits : Nat
  alphaBits : Nat
  pbits : PBits
  idx : Nat
  idx2 : Nat
deriving DecidableEq, Repr

/-- Mode 0 (R620). -/
def bc7Mode0 : Bc7Mode := ⟨1, 3, 4, 0, 0, 4, 0, .perEndpoint, 3, 0⟩
/-- Mode 1 (R620). -/
def bc7Mode1 : Bc7Mode := ⟨2, 2, 6, 0, 0, 6, 0, .perLine, 3, 0⟩
/-- Mode 2 (R620). -/
def bc7Mode2 : Bc7Mode := ⟨3, 3, 6, 0, 0, 5, 0, .none, 2, 0⟩
/-- Mode 3 (R620). -/
def bc7Mode3 : Bc7Mode := ⟨4, 2, 6, 0, 0, 7, 0, .perEndpoint, 2, 0⟩
/-- Mode 4 (R620). -/
def bc7Mode4 : Bc7Mode := ⟨5, 1, 0, 2, 1, 5, 6, .none, 2, 3⟩
/-- Mode 5 (R620). -/
def bc7Mode5 : Bc7Mode := ⟨6, 1, 0, 2, 0, 7, 8, .none, 2, 2⟩
/-- Mode 6 (R620). -/
def bc7Mode6 : Bc7Mode := ⟨7, 1, 0, 0, 0, 7, 7, .perEndpoint, 4, 0⟩
/-- Mode 7 (R620). -/
def bc7Mode7 : Bc7Mode := ⟨8, 2, 6, 0, 0, 5, 5, .perEndpoint, 2, 0⟩

/-- Where the partition number begins (R621). -/
def bc7PartLo (m : Bc7Mode) : Nat := m.selBits

/-- Where the rotation begins (R621). -/
def bc7RotLo (m : Bc7Mode) : Nat := m.selBits + m.partBits

/-- Where the reds begin (R621). -/
def bc7ColourLo (m : Bc7Mode) : Nat := bc7RotLo m + m.rotBits + m.idxSelBits

/-- The field of channel `c` (0 red, 1 green, 2 blue) of endpoint `e`: all reds, then greens, then blues (R621). -/
def bc7ColourField (m : Bc7Mode) (b : Block) (c e : Nat) : Nat :=
  field b (bc7ColourLo m + (c * (2 * m.lines) + e) * m.colourBits) m.colourBits

/-- Where the alphas begin (R621). -/
def bc7AlphaLo (m : Bc7Mode) : Nat := bc7ColourLo m + 6 * m.lines * m.colourBits

/-- The alpha field of an endpoint (R621). -/
def bc7AlphaField (m : Bc7Mode) (b : Block) (e : Nat) : Nat := field b (bc7AlphaLo m + e * m.alphaBits) m.alphaBits

/-- Where the P-bits begin (R621). -/
def bc7PLo (m : Bc7Mode) : Nat := bc7AlphaLo m + 2 * m.lines * m.alphaBits

/-- The number of P-bits (R620). -/
def bc7PCount (m : Bc7Mode) : Nat :=
  match m.pbits with
  | .none => 0
  | .perEndpoint => 2 * m.lines
  | .perLine => m.lines

/-- Where the index sets begin (R621). -/
def bc7IdxLo (m : Bc7Mode) : Nat := bc7PLo m + bc7PCount m

/-- An `n`-bit value replicated to 8 bits (R623). -/
def bc7Replicate (v n : Nat) : Nat := (v * 2 ^ (8 - n) + v / 2 ^ (2 * n - 8)) % 256

/-- A field with its P-bit, replicated to 8 bits (R623). -/
def bc7Expand (m : Bc7Mode) (b : Block) (e v n : Nat) : Nat :=
  match m.pbits with
  | .none => bc7Replicate v n
  | .perEndpoint => bc7Replicate (2 * v + bitN b (bc7PLo m + e)) (n + 1)
  | .perLine => bc7Replicate (2 * v + bitN b (bc7PLo m + e / 2)) (n + 1)

/-- An endpoint (R623): modes without alpha bits have alpha 255. -/
def bc7Endpoint (m : Bc7Mode) (b : Block) (e : Nat) : Rgba :=
  let c (k : Nat) : Nat := bc7Expand m b e (bc7ColourField m b k e) m.colourBits
  ⟨c 0, c 1, c 2, if m.alphaBits = 0 then 255 else bc7Expand m b e (bc7AlphaField m b e) m.alphaBits⟩

/-- The weights of a number of index bits (R624). -/
def bc7Weights (n : Nat) : List Nat :=
  if n = 2 then [0, 21, 43, 64] else if n = 3 then weights8 else weights16

/-- A palette entry (R624). -/
def bc7Interpolate (w x y : Nat) : Nat := (x * (64 - w) + y * w + 32) / 64

/-- The partition of a block. -/
def bc7Partition (m : Bc7Mode) (b : Block) : Nat := field b (bc7PartLo m) m.partBits

/-- The line of a texel (R625). -/
def bc7Line (m : Bc7Mode) (b : Block) (t : Nat) : Nat :=
  match m.lines with
  | 1 => 0
  | 2 => part2Line (bc7Partition m b) t
  | _ => part3Line (bc7Partition m b) t

/-- The fix-up texels of a block (R622). -/
def bc7Fix (m : Bc7Mode) (b : Block) : List Nat :=
  match m.lines with
  | 1 => [0]
  | 2 => part2Fix (bc7Partition m b)
  | _ => part3Fix (bc7Partition m b)

/-- The weight of a texel in the first index set (R622, R624). -/
def bc7Weight1 (m : Bc7Mode) (b : Block) (t : Nat) : Nat :=
  (bc7Weights m.idx).getD (packedIndex b (bc7IdxLo m) m.idx (bc7Fix m b) t) 0

/-- The weight of a texel in the second index set, which follows the first: 16 indices less the bit of the fix-up (R622). -/
def bc7Weight2 (m : Bc7Mode) (b : Block) (t : Nat) : Nat :=
  (bc7Weights m.idx2).getD (packedIndex b (bc7IdxLo m + 16 * m.idx - 1) m.idx2 [0] t) 0

/-- The weights for colour and for alpha (R625, D25). -/
def bc7TexelWeights (m : Bc7Mode) (b : Block) (t : Nat) : Nat × Nat :=
  let w1 := bc7Weight1 m b t
  if m.idx2 = 0 then (w1, w1)
  else if m.idxSelBits = 1 ∧ bit b (bc7RotLo m + m.rotBits) then (bc7Weight2 m b t, w1)
  else (w1, bc7Weight2 m b t)

/-- The rotation of components (R625, D25). -/
def bc7Rotate (rot : Nat) (c : Rgba) : Rgba :=
  match rot with
  | 0 => c
  | 1 => ⟨c.a, c.g, c.b, c.r⟩
  | 2 => ⟨c.r, c.a, c.b, c.g⟩
  | _ => ⟨c.r, c.g, c.a, c.b⟩

/-- A texel of a BC7 block (R625). -/
def bc7Colour (m : Bc7Mode) (b : Block) (t : Nat) : Rgba :=
  let l := bc7Line m b t
  let x := bc7Endpoint m b (2 * l)
  let y := bc7Endpoint m b (2 * l + 1)
  let w := bc7TexelWeights m b t
  bc7Rotate (field b (bc7RotLo m) m.rotBits)
    ⟨bc7Interpolate w.1 x.r y.r, bc7Interpolate w.1 x.g y.g, bc7Interpolate w.1 x.b y.b, bc7Interpolate w.2 x.a y.a⟩

/-- A BC7 block (R620-R628). -/
def bc7Block (m : Bc7Mode) (srgb : Bool) (b : Block) : TexelBlock :=
  block4x4 fun row col => rgbaTexel srgb (bc7Colour m b (4 * row + col))

/-- A block of the undefined mode: zero colour, open alpha (R620, I73). In an sRGB format the zero is the value before the inverse gamma
(DESIGN CHOICE, log entry 41). -/
def bc7Undefined (srgb : Bool) (s : State) : TexelBlock :=
  block4x4 fun row col =>
    ⟨colourChan srgb 0, colourChan srgb 0, colourChan srgb 0, .free (freeAt s (4 * row + col))⟩

end Sys2Proof.Machine
end

