-- ==== Sys2Proof/Machine/Fxt1.lean ====
section
/-! DEFINITION. The FXT1 block decoders (R560-R570). -/

namespace Sys2Proof.Machine

open Sys2Proof

/-- The texel number of a position in the 8 by 4 block (R560). -/
def fxtTexel (row col : Nat) : Nat := if col < 4 then 4 * row + col else 16 + 4 * row + (col - 4)

/-- An 8 by 4 block from a function of the texel number. -/
def fxtBlock (srgb : Bool) (f : Nat → Rgba) : TexelBlock :=
  ⟨8, 4, (List.range 32).map fun k => rgbaTexel srgb (f (fxtTexel (k / 8) (k % 8)))⟩

/-- The 15-bit colour whose blue field begins at bit `lo`, as 5-bit fields (R561, R562). -/
def fxtRgb5 (b : Block) (lo : Nat) : Rgb := ⟨field b (lo + 10) 5, field b (lo + 5) 5, field b lo 5⟩

/-- The 15-bit colour, expanded (R570). -/
def fxtColour (b : Block) (lo : Nat) : Rgb := (fxtRgb5 b lo).map ext5

/-- The bit at which colour `i` of CC_CHROMA, CC_MIXED and CC_ALPHA begins (R562). -/
def fxtLo (i : Nat) : Nat := 64 + 15 * i

/-- The 2-bit select of a texel (R562). -/
def fxtSel (b : Block) (n : Nat) : Nat := field b (2 * n) 2

/-- The table of CC_HI (R561). -/
def fxtHiEntry (c0 c1 : Rgb) (sel : Nat) : Rgba :=
  if sel = 7 then transparent
  else if sel = 6 then c1.opaque
  else if sel = 0 then c0.opaque
  else (c0.map2 (fun x y => ((6 - sel) * x + sel * y + 3) / 6) c1).opaque

/-- CC_HI (R561). -/
def fxtHi (srgb : Bool) (b : Block) : TexelBlock :=
  fxtBlock srgb fun n => fxtHiEntry (fxtColour b 96) (fxtColour b 111) (field b (3 * n) 3)

/-- CC_CHROMA (R562). -/
def fxtChroma (srgb : Bool) (b : Block) : TexelBlock := fxtBlock srgb fun n => (fxtColour b (fxtLo (fxtSel b n))).opaque

/-- A colour with a sixth green bit (R564). -/
def fxtColour6 (b : Block) (lo g0 : Nat) : Rgb :=
  let c := fxtRgb5 b lo
  ⟨ext5 c.r, ext6 (c.g * 2 + g0), ext5 c.b⟩

/-- The sixth green bit of a colour (R564). -/
def fxtGreen0 (b : Block) (i : Nat) : Nat :=
  match i with
  | 0 => (bit b 1 ^^ bit b 125).toNat
  | 1 => bitN b 125
  | 2 => (bit b 33 ^^ bit b 126).toNat
  | _ => bitN b 126

/-- A colour of a CC_MIXED block (R564, R565): with Alpha[0] = 1 colours 0 and 2 have five green bits. -/
def fxtMixedColour (b : Block) (i : Nat) : Rgb :=
  if bit b 124 && i % 2 == 0 then fxtColour b (fxtLo i) else fxtColour6 b (fxtLo i) (fxtGreen0 b i)

/-- The table of thirds (R564, R568). -/
def thirds (x y sel : Nat) : Nat :=
  match sel with
  | 0 => x
  | 1 => (2 * x + y + 1) / 3
  | 2 => (x + 2 * y + 1) / 3
  | _ => y

/-- The entry of a CC_MIXED table (R564, R565). -/
def fxtMixedEntry (alpha : Bool) (x y : Rgb) (sel : Nat) : Rgba :=
  if alpha then
    match sel with
    | 0 => x.opaque
    | 1 => (x.map2 (fun p q => (p + q) / 2) y).opaque
    | 2 => y.opaque
    | _ => transparent
  else (x.map2 (fun p q => thirds p q sel) y).opaque

/-- CC_MIXED (R563-R565). -/
def fxtMixed (srgb : Bool) (b : Block) : TexelBlock :=
  fxtBlock srgb fun n =>
    let i := if n < 16 then 0 else 2
    fxtMixedEntry (bit b 124) (fxtMixedColour b i) (fxtMixedColour b (i + 1)) (fxtSel b n)

/-- A colour of a CC_ALPHA block with its alpha (R566). -/
def fxtAlphaColour (b : Block) (i : Nat) : Rgba :=
  let c := fxtColour b (fxtLo i)
  ⟨c.r, c.g, c.b, ext5 (field b (109 + 5 * i) 5)⟩

/-- The entry of a CC_ALPHA table with LERP = 1 (R568). -/
def fxtLerp (x y : Rgba) (sel : Nat) : Rgba :=
  ⟨thirds x.r y.r sel, thirds x.g y.g sel, thirds x.b y.b sel, thirds x.a y.a sel⟩

/-- A texel of a CC_ALPHA block (R566-R568). -/
def fxtAlphaEntry (b : Block) (n : Nat) : Rgba :=
  let sel := fxtSel b n
  if bit b 124 then fxtLerp (fxtAlphaColour b (if n < 16 then 0 else 2)) (fxtAlphaColour b 1) sel
  else if sel = 3 then transparent else fxtAlphaColour b sel

/-- CC_ALPHA (R566-R568). -/
def fxtAlpha (srgb : Bool) (b : Block) : TexelBlock := fxtBlock srgb (fxtAlphaEntry b)

end Sys2Proof.Machine
end

