-- ==== Sys2Proof/Machine/TextureBlocks.lean ====
section
/-! DEFINITION. The meanings of the ETC, FXT1, DXT, BC blocks (R540-R632). -/

namespace Sys2Proof.Machine

open Sys2Proof

/-- An ETC1 or ETC2 block in individual mode (R541, R543). The spec names no sRGB variant of ETC1; the flag acts on its blocks as on those of ETC2
(DESIGN CHOICE, log entry 41). -/
def execEtc1Individual (b : QWord) (f : FormatFlags) (s : State) : Host.Outcome State Fault Refusal :=
  toOutcome (.ok (latchBlock (etc2Block .individual f.srgb b) s))

/-- An ETC1 or ETC2 block in differential mode (R541, R543); the sRGB flag acts on both (DESIGN CHOICE for ETC1, log entry 41). -/
def execEtc1Differential (b : QWord) (f : FormatFlags) (s : State) : Host.Outcome State Fault Refusal :=
  toOutcome (.ok (latchBlock (etcDifferential f.srgb b s) s))

/-- An ETC2 block in T mode (R546, R547). -/
def execEtc2T (b : QWord) (f : FormatFlags) (s : State) : Host.Outcome State Fault Refusal :=
  toOutcome (.ok (latchBlock (etc2Block .t f.srgb b) s))

/-- An ETC2 block in H mode (R548). -/
def execEtc2H (b : QWord) (f : FormatFlags) (s : State) : Host.Outcome State Fault Refusal :=
  toOutcome (.ok (latchBlock (etc2Block .h f.srgb b) s))

/-- An ETC2 block in planar mode (R549). -/
def execEtc2Planar (b : QWord) (f : FormatFlags) (s : State) : Host.Outcome State Fault Refusal :=
  toOutcome (.ok (latchBlock (etc2Block .planar f.srgb b) s))

/-- An ETC2 punch-through alpha block (R555). -/
def execEtc2Rgb8Pta (b : QWord) (f : FormatFlags) (s : State) : Host.Outcome State Fault Refusal :=
  toOutcome (.ok (latchBlock (etc2PtaBlock f.srgb b) s))

/-- An EAC R11 block (R552, R553). -/
def execEacR11 (b : QWord) (f : FormatFlags) (s : State) : Host.Outcome State Fault Refusal :=
  toOutcome (.ok (latchBlock (eacR11Block f.signed b) s))

/-- An ETC2 EAC RGBA8 block (R557). -/
def execEtc2EacRgba8 (b : Block) (f : FormatFlags) (s : State) : Host.Outcome State Fault Refusal :=
  toOutcome (.ok (latchBlock (etc2EacBlock f.srgb b) s))

/-- An EAC RG11 block (R558). -/
def execEacRg11 (b : Block) (f : FormatFlags) (s : State) : Host.Outcome State Fault Refusal :=
  toOutcome (.ok (latchBlock (eacRg11Block f.signed b) s))

/-- An FXT1 block of this encoding (R560, R561). -/
def execFxt1CcHi (b : Block) (_f : FormatFlags) (s : State) : Host.Outcome State Fault Refusal :=
  toOutcome (.ok (latchBlock (fxtHi false b) s))

/-- An FXT1 block of this encoding (R560, R562). -/
def execFxt1CcChroma (b : Block) (_f : FormatFlags) (s : State) : Host.Outcome State Fault Refusal :=
  toOutcome (.ok (latchBlock (fxtChroma false b) s))

/-- An FXT1 block of this encoding (R560, R566-R568). -/
def execFxt1CcAlpha (b : Block) (_f : FormatFlags) (s : State) : Host.Outcome State Fault Refusal :=
  toOutcome (.ok (latchBlock (fxtAlpha false b) s))

/-- An FXT1 block of this encoding (R560, R563-R565). -/
def execFxt1CcMixed (b : Block) (_f : FormatFlags) (s : State) : Host.Outcome State Fault Refusal :=
  toOutcome (.ok (latchBlock (fxtMixed false b) s))

/-- A DXT1 block with Color_0 > Color_1 (R591, R592). -/
def execDxt1FourColour (b : QWord) (_f : FormatFlags) (s : State) : Host.Outcome State Fault Refusal :=
  toOutcome (.ok (latchBlock (dxt1Block dxtFour b) s))

/-- A DXT1 block with Color_0 at most Color_1 (R591, R592). -/
def execDxt1ThreeColourTransparent (b : QWord) (_f : FormatFlags) (s : State) : Host.Outcome State Fault Refusal :=
  toOutcome (.ok (latchBlock (dxt1Block dxtThree b) s))

/-- A DXT1_RGB block (R594). -/
def execDxt1Rgb (b : QWord) (_f : FormatFlags) (s : State) : Host.Outcome State Fault Refusal :=
  toOutcome (.ok (latchBlock (dxt1Block dxtFour b) s))

/-- A DXT2 or DXT3 block (R595, R596). -/
def execDxt2Dxt3ExplicitAlpha (b : Block) (_f : FormatFlags) (s : State) : Host.Outcome State Fault Refusal :=
  toOutcome (.ok (latchBlock (dxtAlphaBlock dxt3Alpha b) s))

/-- A DXT4 or DXT5 block (R595, R597). -/
def execDxt4Dxt5InterpolatedAlpha (b : Block) (_f : FormatFlags) (s : State) : Host.Outcome State Fault Refusal :=
  toOutcome (.ok (latchBlock (dxtAlphaBlock bc4Unsigned b) s))

/-- A BC4 block (R600, R601). -/
def execBc4 (b : QWord) (f : FormatFlags) (s : State) : Host.Outcome State Fault Refusal :=
  toOutcome (.ok (latchBlock (bc4Block f.signed b) s))

/-- A BC5 block (R602). -/
def execBc5 (b : Block) (f : FormatFlags) (s : State) : Host.Outcome State Fault Refusal :=
  toOutcome (.ok (latchBlock (bc5Block f.signed b) s))

/-- A BC6H block of mode 0 (R605-R612). -/
def execBc6hMode0 (b : Block) (f : FormatFlags) (s : State) : Host.Outcome State Fault Refusal :=
  toOutcome (.ok (latchBlock (bc6hBlock Sys2Proof.Machine.bc6hMode0 f.signed b s) s))

/-- A BC6H block of mode 1 (R605-R612). -/
def execBc6hMode1 (b : Block) (f : FormatFlags) (s : State) : Host.Outcome State Fault Refusal :=
  toOutcome (.ok (latchBlock (bc6hBlock Sys2Proof.Machine.bc6hMode1 f.signed b s) s))

/-- A BC6H block of mode 2 (R605-R612). -/
def execBc6hMode2 (b : Block) (f : FormatFlags) (s : State) : Host.Outcome State Fault Refusal :=
  toOutcome (.ok (latchBlock (bc6hBlock Sys2Proof.Machine.bc6hMode2 f.signed b s) s))

/-- A BC6H block of mode 3 (R605-R612). -/
def execBc6hMode3 (b : Block) (f : FormatFlags) (s : State) : Host.Outcome State Fault Refusal :=
  toOutcome (.ok (latchBlock (bc6hBlock Sys2Proof.Machine.bc6hMode3 f.signed b s) s))

/-- A BC6H block of mode 4 (R605-R612). -/
def execBc6hMode4 (b : Block) (f : FormatFlags) (s : State) : Host.Outcome State Fault Refusal :=
  toOutcome (.ok (latchBlock (bc6hBlock Sys2Proof.Machine.bc6hMode4 f.signed b s) s))

/-- A BC6H block of mode 5 (R605-R612). -/
def execBc6hMode5 (b : Block) (f : FormatFlags) (s : State) : Host.Outcome State Fault Refusal :=
  toOutcome (.ok (latchBlock (bc6hBlock Sys2Proof.Machine.bc6hMode5 f.signed b s) s))

/-- A BC6H block of mode 6 (R605-R612). -/
def execBc6hMode6 (b : Block) (f : FormatFlags) (s : State) : Host.Outcome State Fault Refusal :=
  toOutcome (.ok (latchBlock (bc6hBlock Sys2Proof.Machine.bc6hMode6 f.signed b s) s))

/-- A BC6H block of mode 7 (R605-R612). -/
def execBc6hMode7 (b : Block) (f : FormatFlags) (s : State) : Host.Outcome State Fault Refusal :=
  toOutcome (.ok (latchBlock (bc6hBlock Sys2Proof.Machine.bc6hMode7 f.signed b s) s))

/-- A BC6H block of mode 8 (R605-R612). -/
def execBc6hMode8 (b : Block) (f : FormatFlags) (s : State) : Host.Outcome State Fault Refusal :=
  toOutcome (.ok (latchBlock (bc6hBlock Sys2Proof.Machine.bc6hMode8 f.signed b s) s))

/-- A BC6H block of mode 9 (R605-R612). -/
def execBc6hMode9 (b : Block) (f : FormatFlags) (s : State) : Host.Outcome State Fault Refusal :=
  toOutcome (.ok (latchBlock (bc6hBlock Sys2Proof.Machine.bc6hMode9 f.signed b s) s))

/-- A BC6H block of mode 10 (R605-R612). -/
def execBc6hMode10 (b : Block) (f : FormatFlags) (s : State) : Host.Outcome State Fault Refusal :=
  toOutcome (.ok (latchBlock (bc6hBlock Sys2Proof.Machine.bc6hMode10 f.signed b s) s))

/-- A BC6H block of mode 11 (R605-R612). -/
def execBc6hMode11 (b : Block) (f : FormatFlags) (s : State) : Host.Outcome State Fault Refusal :=
  toOutcome (.ok (latchBlock (bc6hBlock Sys2Proof.Machine.bc6hMode11 f.signed b s) s))

/-- A BC6H block of mode 12 (R605-R612). -/
def execBc6hMode12 (b : Block) (f : FormatFlags) (s : State) : Host.Outcome State Fault Refusal :=
  toOutcome (.ok (latchBlock (bc6hBlock Sys2Proof.Machine.bc6hMode12 f.signed b s) s))

/-- A BC6H block of mode 13 (R605-R612). -/
def execBc6hMode13 (b : Block) (f : FormatFlags) (s : State) : Host.Outcome State Fault Refusal :=
  toOutcome (.ok (latchBlock (bc6hBlock Sys2Proof.Machine.bc6hMode13 f.signed b s) s))

/-- A BC6H block with the undefined mode 10011: RGB zero, alpha 1.0 (R606). -/
def execBc6hUndefined10011 (_b : Block) (_f : FormatFlags) (s : State) : Host.Outcome State Fault Refusal :=
  toOutcome (.ok (latchBlock bc6hUndefined s))

/-- A BC6H block with the undefined mode 10111: RGB zero, alpha 1.0 (R606). -/
def execBc6hUndefined10111 (_b : Block) (_f : FormatFlags) (s : State) : Host.Outcome State Fault Refusal :=
  toOutcome (.ok (latchBlock bc6hUndefined s))

/-- A BC6H block with the undefined mode 11011: RGB zero, alpha 1.0 (R606). -/
def execBc6hUndefined11011 (_b : Block) (_f : FormatFlags) (s : State) : Host.Outcome State Fault Refusal :=
  toOutcome (.ok (latchBlock bc6hUndefined s))

/-- A BC6H block with the undefined mode 11111: RGB zero, alpha 1.0 (R606). -/
def execBc6hUndefined11111 (_b : Block) (_f : FormatFlags) (s : State) : Host.Outcome State Fault Refusal :=
  toOutcome (.ok (latchBlock bc6hUndefined s))

/-- A BC7 block of mode 0 (R620-R628). -/
def execBc7Mode0 (b : Block) (f : FormatFlags) (s : State) : Host.Outcome State Fault Refusal :=
  toOutcome (.ok (latchBlock (bc7Block Sys2Proof.Machine.bc7Mode0 f.srgb b) s))

/-- A BC7 block of mode 1 (R620-R628). -/
def execBc7Mode1 (b : Block) (f : FormatFlags) (s : State) : Host.Outcome State Fault Refusal :=
  toOutcome (.ok (latchBlock (bc7Block Sys2Proof.Machine.bc7Mode1 f.srgb b) s))

/-- A BC7 block of mode 2 (R620-R628). -/
def execBc7Mode2 (b : Block) (f : FormatFlags) (s : State) : Host.Outcome State Fault Refusal :=
  toOutcome (.ok (latchBlock (bc7Block Sys2Proof.Machine.bc7Mode2 f.srgb b) s))

/-- A BC7 block of mode 3 (R620-R628). -/
def execBc7Mode3 (b : Block) (f : FormatFlags) (s : State) : Host.Outcome State Fault Refusal :=
  toOutcome (.ok (latchBlock (bc7Block Sys2Proof.Machine.bc7Mode3 f.srgb b) s))

/-- A BC7 block of mode 4 (R620-R628). -/
def execBc7Mode4 (b : Block) (f : FormatFlags) (s : State) : Host.Outcome State Fault Refusal :=
  toOutcome (.ok (latchBlock (bc7Block Sys2Proof.Machine.bc7Mode4 f.srgb b) s))

/-- A BC7 block of mode 5 (R620-R628). -/
def execBc7Mode5 (b : Block) (f : FormatFlags) (s : State) : Host.Outcome State Fault Refusal :=
  toOutcome (.ok (latchBlock (bc7Block Sys2Proof.Machine.bc7Mode5 f.srgb b) s))

/-- A BC7 block of mode 6 (R620-R628). -/
def execBc7Mode6 (b : Block) (f : FormatFlags) (s : State) : Host.Outcome State Fault Refusal :=
  toOutcome (.ok (latchBlock (bc7Block Sys2Proof.Machine.bc7Mode6 f.srgb b) s))

/-- A BC7 block of mode 7 (R620-R628). -/
def execBc7Mode7 (b : Block) (f : FormatFlags) (s : State) : Host.Outcome State Fault Refusal :=
  toOutcome (.ok (latchBlock (bc7Block Sys2Proof.Machine.bc7Mode7 f.srgb b) s))

/-- A BC7 block with bits 7:0 zero: RGB zero, alpha open (R620). -/
def execBc7Undefined (_b : Block) (f : FormatFlags) (s : State) : Host.Outcome State Fault Refusal :=
  toOutcome (.ok (latchBlock (Sys2Proof.Machine.bc7Undefined f.srgb s) s))

end Sys2Proof.Machine
end

