-- ==== Sys2Proof/Machine/Tiling.lean ====
section
/-! DEFINITION. The tiling functions (R240-R286): legacy tiles, the address-bit table of every mode, TileID, fences, the
preconditions the model refuses, and the operands for which the spec states no offset. -/

namespace Sys2Proof.Machine

open Sys2Proof

/-- Bit `i` of a natural number. -/
def nbit (n i : Nat) : Nat := n / 2 ^ i % 2

/-- The number of bits per element (R264). -/
def elemBitsOf : ElemBits → Nat
  | .e8 => 8
  | .e16 => 16
  | .e24 => 24
  | .e32 => 32
  | .e48 => 48
  | .e64 => 64
  | .e96 => 96
  | .e128 => 128

/-- log2 of the number of samples (R263). -/
def samplesLog : Samples → Nat
  | .s1 => 0
  | .s2 => 1
  | .s4 => 2
  | .s8 => 3
  | .s16 => 4

/-- The element-size classes of the swizzle tables (R264). -/
inductive SizeClass where
  | c8 | c16 | c64
deriving DecidableEq, Repr

/-- The class of an element size; sizes without a row have none. -/
def sizeClass : ElemBits → Option SizeClass
  | .e8 => some .c8
  | .e16 => some .c16
  | .e32 => some .c16
  | .e64 => some .c64
  | .e128 => some .c64
  | _ => none

/-- A bit of a swizzle row: a bit of u, of v, or of the sample slice. -/
inductive Src where
  | u (i : Nat) | v (i : Nat) | ss (i : Nat)
deriving DecidableEq, Repr

/-- A swizzle row (R260, R263): Cv, Cu, and the address bits from bit 0 upward. -/
structure Swizzle where
  cv : Nat
  cu : Nat
  bits : List Src
deriving DecidableEq, Repr

/-- The low four address bits of the Y-based tiles. -/
def lowU : List Src := [.u 0, .u 1, .u 2, .u 3]

/-- The 4 KB part of TileYS and all of TileYF, bits 0 to 11, for a class (R260). -/
def yfBits : SizeClass → List Src
  | .c64 => lowU ++ [.v 0, .v 1, .u 4, .u 5, .v 2, .u 6, .v 3, .u 7]
  | .c16 => lowU ++ [.v 0, .v 1, .v 2, .u 4, .v 3, .u 5, .v 4, .u 6]
  | .c8 => lowU ++ [.v 0, .v 1, .v 2, .v 3, .v 4, .u 4, .v 5, .u 5]

/-- Bits of a class's 4 KB tile: Cv and Cu of TileYF (R260). -/
def yfCv : SizeClass → Nat
  | .c64 => 4
  | .c16 => 5
  | .c8 => 6

/-- Cu of TileYF. -/
def yfCu : SizeClass → Nat
  | .c64 => 8
  | .c16 => 7
  | .c8 => 6

/-- TileYF (R260). -/
def swizzleYf (c : SizeClass) : Swizzle := ⟨yfCv c, yfCu c, yfBits c⟩

/-- TileYS for a number of samples (R260, R263): bits 12 to 15 hold the next v and u bits, the sample bits from the top. -/
def swizzleYs (c : SizeClass) (lg : Nat) : Swizzle :=
  let v0 := yfCv c
  let u0 := yfCu c
  match lg with
  | 0 => ⟨v0 + 2, u0 + 2, yfBits c ++ [.v v0, .u u0, .v (v0 + 1), .u (u0 + 1)]⟩
  | 1 => ⟨v0 + 2, u0 + 1, yfBits c ++ [.v v0, .u u0, .v (v0 + 1), .ss 0]⟩
  | 2 => ⟨v0 + 1, u0 + 1, yfBits c ++ [.v v0, .u u0, .ss 0, .ss 1]⟩
  | 3 => ⟨v0 + 1, u0, yfBits c ++ [.v v0, .ss 0, .ss 1, .ss 2]⟩
  | _ => ⟨v0, u0, yfBits c ++ [.ss 0, .ss 1, .ss 2, .ss 3]⟩

/-- TileY (R251, R260). -/
def swizzleY : Swizzle := ⟨5, 7, lowU ++ [.v 0, .v 1, .v 2, .v 3, .v 4, .u 4, .u 5, .u 6]⟩

/-- TileX (R253, R260). -/
def swizzleX : Swizzle := ⟨3, 9, lowU ++ [.u 4, .u 5, .u 6, .u 7, .u 8, .v 0, .v 1, .v 2]⟩

/-- TileW (R252, R260). -/
def swizzleW : Swizzle :=
  ⟨6, 6, [.u 0, .v 0, .u 1, .v 1, .u 2, .v 2, .v 3, .v 4, .v 5, .u 3, .u 4, .u 5]⟩

/-- The value of one source bit. -/
def srcBit (u v ss : Nat) : Src → Nat
  | .u i => nbit u i
  | .v i => nbit v i
  | .ss i => nbit ss i

/-- `OffsetInTile`: the bits of a row assembled (R261). -/
def offsetInTile (u v ss : Nat) : List Src → Nat
  | [] => 0
  | b :: r => srcBit u v ss b + 2 * offsetInTile u v ss r

/-- `TileID` (R261), the pitch in bytes. -/
def tileId (cv cu u v pitch : Nat) : Nat := v / 2 ^ cv * (pitch / 2 ^ cu) + u / 2 ^ cu

/-- The offset of an element under a swizzle row (R261). -/
def swizzledOffset (w : Swizzle) (u v ss pitch : Nat) : Nat :=
  tileId w.cv w.cu u v pitch * 2 ^ w.bits.length + offsetInTile u v ss w.bits

/-- `TiledOffsetX` (R253), the pitch in tiles. -/
def tiledOffsetX (x y pitch : Nat) : Nat :=
  pitch * 4096 * (y / 8) + 4096 * (x / 512) + 512 * (y % 8) + x % 512

/-- `TiledOffsetY` (R251), the pitch in tiles. -/
def tiledOffsetY (x y pitch : Nat) : Nat :=
  pitch * 4096 * (y / 32) + 4096 * (x / 128) + 512 * (x % 128 / 16) + 16 * (y % 32) + x % 16

/-- `TiledOffsetW` (R252), the pitch in tiles. -/
def tiledOffsetW (x y pitch : Nat) : Nat :=
  let xo := x % 64
  let yo := y % 64
  pitch * 4096 * (y / 64) + 4096 * (x / 64) + 512 * (xo / 8) + 64 * (yo / 8) + 32 * (yo / 4 % 2) + 16 * (xo / 4 % 2)
    + 8 * (yo / 2 % 2) + 4 * (xo / 2 % 2) + 2 * (yo % 2) + xo % 2

/-- The swizzle row of a mode; an unstated one has the tile size of the row `w` of one sample. -/
inductive Row where
  | linear
  | tiled (w : Swizzle)
  | unstated (w : Swizzle)
deriving DecidableEq, Repr

/-- The swizzle row of a mode, an element size and a number of samples: refused for the sizes without a row (R264, I24); no row is
stated for multisampled TileYF (R263; DESIGN CHOICE, log entry 72). -/
def swizzleOf (m : TileMode) (e : ElemBits) (sm : Samples) : Res Row :=
  match m with
  | .linear => .ok .linear
  | .x => .ok (.tiled swizzleX)
  | .y => .ok (.tiled swizzleY)
  | .w => .ok (.tiled swizzleW)
  | .yf =>
    match sizeClass e with
    | none => refuse .noSwizzleRow
    | some c => .ok (if sm = .s1 then .tiled (swizzleYf c) else .unstated (swizzleYf c))
  | .ys =>
    match sizeClass e with
    | none => refuse .noSwizzleRow
    | some c => .ok (.tiled (swizzleYs c (samplesLog sm)))

/-- The alignment of a tiled surface's base (R244). -/
def baseAlign : TileMode → Nat
  | .linear => 1
  | .ys => 65536
  | _ => 4096

/-- The column of an element size in the tables of R736, R744, R764: 128, 64, 32, 16, 8 bits. -/
def bpeColumn : ElemBits → Option Nat
  | .e128 => some 0
  | .e64 => some 1
  | .e32 => some 2
  | .e16 => some 3
  | .e8 => some 4
  | _ => none

/-- The offsets of the 2D mip tail, in texels (R744). -/
def tail2dTable : List (List (Nat × Nat)) :=
  [[(32, 0), (64, 0), (64, 0), (128, 0), (128, 0)],
   [(0, 32), (0, 32), (0, 64), (0, 64), (0, 128)],
   [(16, 0), (32, 0), (32, 0), (64, 0), (64, 0)],
   [(0, 16), (0, 16), (0, 32), (0, 32), (0, 64)],
   [(8, 0), (16, 0), (16, 0), (32, 0), (32, 0)],
   [(4, 8), (8, 8), (8, 16), (16, 16), (16, 32)],
   [(0, 12), (0, 12), (0, 24), (0, 24), (0, 48)],
   [(0, 8), (0, 8), (0, 16), (0, 16), (0, 32)],
   [(4, 4), (8, 4), (8, 8), (16, 8), (16, 16)],
   [(4, 0), (8, 0), (8, 0), (16, 0), (16, 0)],
   [(0, 4), (0, 4), (0, 8), (0, 8), (0, 16)],
   [(3, 0), (6, 0), (4, 4), (8, 4), (0, 12)],
   [(2, 0), (4, 0), (4, 0), (8, 0), (0, 8)],
   [(1, 0), (2, 0), (0, 4), (0, 4), (0, 4)],
   [(0, 0), (0, 0), (0, 0), (0, 0), (0, 0)]]

/-- The slots of the 2D mip tail that standard tiling supports, rows 0 to 11 of R744, for 128- and 64-bit elements that hold `p` by
`q` texels (R740): byte and row inside the tail's tile. -/
def tailSlots (e : ElemBits) (p q : Nat) : List (Nat × Nat) :=
  match bpeColumn e with
  | none => []
  | some c =>
    if 1 < c then [] else (tail2dTable.take 12).filterMap fun r => (r[c]?).map fun k => (k.1 / p * (elemBitsOf e / 8), k.2 / q)

/-- The first row of R744 that a mip tail uses: TileYF begins at 4, TileYS at log2 of the number of samples. -/
def firstTailRow (m : TileMode) (sm : Samples) : Nat := if m = .yf then 4 else samplesLog sm

/-- The width and height in texels of what an element of a size may hold: a pixel, or a block of a compressed format (R530, R651, R740). -/
def footprints : ElemBits → List (Nat × Nat)
  | .e64 => [(1, 1), (4, 4)]
  | .e128 => [(1, 1), (4, 4), (8, 4), (5, 4), (5, 5), (6, 5), (6, 6), (8, 5), (8, 6), (10, 5), (10, 6), (8, 8), (10, 8), (10, 10), (12, 10),
      (12, 12)]
  | _ => [(1, 1)]

/-- The base address is that of a level in the mip tail of a tiled-resource surface with 64- or 128-bit elements, which a surface
state may name directly (R244): of another surface, whose elements are of the same size and may be pixels or blocks of any compressed format
(log entry 93). -/
def tailBase (m : TileMode) (e : ElemBits) (sm : Samples) (w : Swizzle) (base : Nat) : Bool :=
  (m == .ys || m == .yf) && (footprints e).any fun f => ((tailSlots e f.1 f.2).drop (firstTailRow m sm)).any fun k =>
    offsetInTile k.1 k.2 0 w.bits == base % baseAlign m

/-- All of a surface lies within 2^38 bytes of its base (R8, R730). -/
def maxSurface : Nat := 2 ^ 38

/-- An offset inside the limit on the size of a surface; none is stated beyond it (DESIGN CHOICE, log entry 72). -/
def withinSurface (e : ElemBits) (o : Nat) : Option Nat := if maxSurface < o + elemBitsOf e / 8 then none else some o

/-- The preconditions of a tiled surface that the model refuses when they fail: an aligned base (R244), and a pitch of whole tiles
of at most 256 KB (R285). -/
def checkTiled (m : TileMode) (e : ElemBits) (sm : Samples) (w : Swizzle) (pitch base : Nat) : Res Unit :=
  if base % baseAlign m ≠ 0 ∧ !tailBase m e sm w base then refuse .misalignedTileBase
  else if pitch % 2 ^ w.cu ≠ 0 ∨ 262144 < pitch then refuse .badPitch
  else .ok ()

/-- The preconditions of a surface of a tile mode, with the row of the mode (R244, R264, R285); a linear one has none (R243). -/
def checkedRow (m : TileMode) (e : ElemBits) (sm : Samples) (pitch base : Nat) : Res Row := do
  let row ← swizzleOf m e sm
  match row with
  | .linear => pure row
  | .unstated w => do
    checkTiled m e sm w pitch base
    pure row
  | .tiled w => do
    checkTiled m e sm w pitch base
    pure row

/-- The offset of the element at byte `u` of row `v` (R243, R261), where the preconditions hold; `none` where the spec states no offset: multisampled TileYF, a sample slice the surface does
not have, an offset beyond the size limit (log entry 72). -/
def tileOffset (m : TileMode) (e : ElemBits) (sm : Samples) (ss u v pitch base : Nat) : Res (Option Nat) := do
  let row ← checkedRow m e sm pitch base
  match row with
  | .linear => pure (withinSurface e (v * pitch + u))
  | .unstated _ => pure none
  | .tiled w =>
    if m = .ys ∧ 2 ^ samplesLog sm ≤ ss then pure none
    else pure (withinSurface e (swizzledOffset w u v ss pitch))

/-- Latches the result of a tiling or layout function: the offset, and the graphics virtual address `SurfaceBase + Offset` (R283). -/
def latchOffset (s : State) (base : QWord) (bx by_ o : Nat) : State :=
  { s with tile := ⟨o, base + BitVec.ofNat 64 o, bx, by_⟩ }

/-- The same, with a free offset inside the size limit where the spec states none. -/
def latchTile (s : State) (base : QWord) (bx by_ : Nat) : Option Nat → State
  | some o => latchOffset s base bx by_ o
  | none => advanceDraws (latchOffset s base bx by_ ((freeAt s 0).toNat % maxSurface)) 1

/-- A tiling function as an object (R283). -/
def tileObject (m : TileMode) (a : TileArgs) (s : State) : Res State := do
  let o? ← tileOffset m a.elem a.samples a.ss.toNat a.u.toNat a.v.toNat a.pitch.toNat a.base.toNat
  pure (latchTile s a.base 0 0 o?)

/-- A fence covers an aperture address. -/
def fenceCovers (g : Nat) (f : Fence) : Bool := f.enable && decide (f.base ≤ g) && decide (g ≤ f.last)

/-- `FenceTile` of one fence (R280, C19). -/
def fenceMap (f : Fence) (g : Nat) : Nat :=
  let l := g - f.base
  let tw := if f.walkY then 128 else 512
  let t := l / tw
  let y := t / f.pitch
  let x := t % f.pitch * tw + l % tw
  f.base + (if f.walkY then tiledOffsetY x y f.pitch else tiledOffsetX x y f.pitch)

/-- The pitch of a fence in bytes (R23). -/
def fencePitch (f : Fence) : Nat := f.pitch * (if f.walkY then 128 else 512)

/-- `FenceTile(gm_addr)` (R280): linear outside every fence; two fences over one address are refused (I25), and a pitch above
256 KB (R285, I26). A fence of pitch 0 has no stated mapping: the address is free (DESIGN CHOICE, log entry 72). -/
def fenceTile (s : State) (g : Nat) : Res Nat :=
  match s.regs.fences.filter (fenceCovers g) with
  | [] => .ok g
  | [f] =>
    if f.pitch = 0 then .ok ((freeAt s (g % 8)).toNat % 2 ^ 32)
    else if 262144 < fencePitch f then refuse .badPitch
    else .ok (fenceMap f g)
  | _ => refuse .overlappingFences

end Sys2Proof.Machine
end

