-- ==== Sys2Proof/Machine/Registers.lean ====
section
/-! DEFINITION. Register accesses (R21-R53), the PCI capability registers (R65-R75), and the host's and peers' accesses to the
address spaces of Device 2 (R100-R110, R280). -/

namespace Sys2Proof.Machine

open Sys2Proof

/-! ### MMIO registers -/

/-- Who accesses a register (R24, R30). -/
inductive Agent where
  | host
  | cs (e : Engine)
deriving DecidableEq, Repr

/-- A register of the MMIO block, or what lies there instead (R21-R53, R105). -/
inductive MmioReg where
  | mchbar
  | nullRange
  | desc (e : Engine) (i : Nat) (high : Bool)
  | toGam (e : Engine)
  | toCs (e : Engine)
  | l3PtrLow | l3PtrHigh | nullTile | invalidTile | trvadr | trtte
  | r4dfc | r404c | r4a30
  | pat (i : Nat)
  | lncf (i : Nat)
  | gamMocs (i : Nat)
  | undefined
deriving DecidableEq, Repr

/-- The message registers (R34). -/
def messageReg (off : Nat) : Option MmioReg :=
  match off with
  | 0x4004 => some (.toGam .rcs)
  | 0x4008 => some (.toGam .vcs0)
  | 0x400C => some (.toGam .vcs1)
  | 0x4010 => some (.toGam .vecs)
  | 0x4014 => some (.toGam .bcs)
  | 0x3438 => some (.toCs .rcs)
  | 0x13438 => some (.toCs .vcs0)
  | 0x1D438 => some (.toCs .vcs1)
  | 0x1B438 => some (.toCs .vecs)
  | 0x23438 => some (.toCs .bcs)
  | _ => none

/-- The engine whose descriptor registers begin at `4400h + 40h * i` (R30). -/
def descEngine : Nat → Engine
  | 0 => .rcs
  | 1 => .vcs0
  | 2 => .vcs1
  | 3 => .vecs
  | _ => .bcs

/-- The descriptor registers: five QWords of each engine, in halves (R30, D5). -/
def descReg (off : Nat) : Option MmioReg :=
  let k := off - 0x4400
  if 0x4400 ≤ off ∧ k / 0x40 < 5 ∧ k % 0x40 < 40 then
    some (.desc (descEngine (k / 0x40)) (k % 0x40 / 8) (decide (k % 8 = 4)))
  else none

/-- The TR-TT registers, at the offsets the platform gives (R40). -/
def trttReg (p : Params) (off : Nat) : Option MmioReg :=
  if off = p.trttL3PtrOffset then some .l3PtrLow
  else if off = p.trttL3PtrOffset + 4 then some .l3PtrHigh
  else if off = p.trttNullOffset then some .nullTile
  else if off = p.trttInvdOffset then some .invalidTile
  else if off = p.trvadrOffset then some .trvadr
  else if off = p.trtteOffset then some .trtte
  else none

/-- The remaining named registers (R27, R50, R52) and ranges (R24, R105). -/
def otherReg (off : Nat) : MmioReg :=
  if 0x140000 ≤ off ∧ off < 0x148000 then .mchbar
  else if 0x170000 ≤ off ∧ off < 0x180000 then .nullRange
  else if off = 0x4DFC then .r4dfc
  else if off = 0x404C then .r404c
  else if off = 0x4A30 then .r4a30
  else if 0x40E0 ≤ off ∧ off < 0x40F0 then .pat ((off - 0x40E0) / 4)
  else if 0xB020 ≤ off ∧ off < 0xB0A0 then .lncf ((off - 0xB020) / 2)
  else if 0xC800 ≤ off ∧ off < 0xD000 then .gamMocs ((off - 0xC800) / 4)
  else .undefined

/-- The register at an MMIO offset. -/
def mmioReg (p : Params) (off : Nat) : MmioReg :=
  ((messageReg off).orElse fun _ => (descReg off).orElse fun _ => trttReg p off).getD (otherReg off)

/-- The i-th descriptor register of a set (R30). -/
def DescRegs.getIdx (d : DescRegs) : Nat → QWord
  | 0 => d.desc
  | 1 => d.pdp0
  | 2 => d.pdp1
  | 3 => d.pdp2
  | _ => d.pdp3

/-- Replaces the i-th descriptor register. -/
def DescRegs.setIdx (d : DescRegs) : Nat → QWord → DescRegs
  | 0, v => { d with desc := v }
  | 1, v => { d with pdp0 := v }
  | 2, v => { d with pdp1 := v }
  | 3, v => { d with pdp2 := v }
  | _, v => { d with pdp3 := v }

/-- A half of a QWord (D5: the low DWord at the lower offset). -/
def halfOf (q : QWord) (high : Bool) : Word := if high then q.extractLsb' 32 32 else q.extractLsb' 0 32

/-- Replaces a half of a QWord. -/
def setHalf (q : QWord) (high : Bool) (w : Word) : QWord :=
  if high then w ++ q.extractLsb' 0 32 else q.extractLsb' 32 32 ++ w

/-- A register read that gives `w`. -/
def readWord (s : State) (w : Word) : State := complete s ⟨.done, w.setWidth 64, false, 0, 0, .wb, 0⟩

/-- A read whose data the spec leaves open. -/
def readFree (s : State) : State := advanceDraws (complete s ⟨.done, freeAt s 0, false, 0, 0, .wb, 0⟩) 1

/-- An access that changes nothing more. -/
def noEffect (s : State) : State := complete s ⟨.done, 0, false, 0, 0, .wb, 0⟩

/-- The value of a register; `none` where the spec leaves it open (R24, I3). -/
def regValue (s : State) : MmioReg → Option Word
  | .mchbar => none
  | .nullRange => none
  | .desc e i h => some (halfOf ((engineOf s e).regs.getIdx i) h)
  | .toGam e => some (engineOf s e).msgToGam
  | .toCs e => some (engineOf s e).msgToCs
  | .l3PtrLow => some (halfOf s.regs.l3Ptr false)
  | .l3PtrHigh => some (halfOf s.regs.l3Ptr true)
  | .nullTile => some s.regs.nullTile
  | .invalidTile => some s.regs.invalidTile
  | .trvadr => some s.regs.trvadr
  | .trtte => some s.regs.trtte
  | .r4dfc => some s.regs.r4dfc
  | .r404c => some s.regs.r404c
  | .r4a30 => some s.regs.r4a30
  | .pat 0 => some s.regs.pat0
  | .pat 1 => some s.regs.pat1
  | .pat 2 => some s.regs.pat2
  | .pat _ => some s.regs.pat3
  | .lncf i => some (s.regs.lncf.getD (i + 1) 0 ++ s.regs.lncf.getD i 0)
  | .gamMocs i => some (s.regs.gamMocs.getD i 0)
  | .undefined => none

/-- A register read (R21, R24): MCHBAR reads as zero from a command streamer. -/
def mmioRead (ag : Agent) (off : Nat) (s : State) : Res State :=
  if off % 4 ≠ 0 then refuse .misalignedMmio
  else
    let r := mmioReg s.params off
    match regValue s r with
    | some w => .ok (readWord s w)
    | none =>
      match r, ag with
      | .undefined, _ => refuse .undefinedMmioRegister
      | .mchbar, .cs _ => .ok (readWord s 0)
      | _, _ => .ok (readFree s)

/-- The requests of an engine in flight: those that wait for a response, and those that wait to be presented again. -/
def requestsInFlight (s : State) (e : Engine) : List Request :=
  ((engineOf s e).miss.toList ++ (engineOf s e).outstanding).map (·.req) ++ inFlight s e

/-- The addresses that a request may translate: those of its first and last byte, of its auxiliary tile, of its padding. -/
def requestAddresses (r : Request) : List QWord :=
  r.acc.va :: (r.acc.va + r.acc.size.setWidth 64) :: ((auxAddress r).toList ++ r.pads)

/-- TR-TT may translate an address of a request (R391): of the render engine, not by the Global GTT, in the TR-VA window, under the
control registers of the moment or others that the request may see (R901). -/
def readsTrTables (s : State) (r : Request) : Bool :=
  r.acc.eng == .rcs && !usesGgtt r
    && (s.regs.controls :: s.priorRegs.take (s.priorRegs.length - r.issued)).any fun c =>
      let t := { s with regs := s.regs.withControls c }
      trttOn t && (requestAddresses r).any fun va => inTrWindow t va == some true

/-- A request uses the entries that its own MOCS index names (R461). -/
def usesMocs (r : Request) (index : Nat) : Bool := !r.acc.gttControl && decide (r.acc.mocs.toNat = index)

/-- The L3 control entry `i` is used by a request in flight (R490): TR-TT table reads have an entry of GAM_MOCS only (R461, R50). -/
def lncfInUse (s : State) (i : Nat) : Bool :=
  allEngines.any fun e => (requestsInFlight s e).any fun r => usesMocs r i

/-- A request uses the entry with an index of its engine's block of GAM_MOCS: its own, or the entry of TR-TT table reads (R461). -/
def usesGamMocs (s : State) (r : Request) (index : Nat) : Bool :=
  usesMocs r index || (decide (index = trttMocs) && readsTrTables s r)

/-- The memory-interface control entry `i` of the whole file is used by a request in flight (R490): one of an engine whose block it
lies in. -/
def gamMocsInUse (s : State) (i : Nat) : Bool :=
  allEngines.any fun e => decide (mocsBlock s.params e = i / 64) && (requestsInFlight s e).any fun r => usesGamMocs s r (i % 64)

/-- Writes an L3 control entry (R50); a change while requests that use it are in flight is refused (R490, I62). R50 gives its reserved bits
15:6 no access: they hold what is written (DESIGN CHOICE, log entry 94). -/
def writeLncf (i : Nat) (w : BitVec 16) (s : State) : Res State :=
  if s.regs.lncf.getD i 0 ≠ w ∧ lncfInUse s i then refuse .mocsChangedInFlight
  else .ok { s with regs := { s.regs with lncf := s.regs.lncf.set i w } }

/-- Writes a memory-interface control entry (R52); a change while requests that use it are in flight is refused (R490, I62). R52 gives its
reserved bits 31:17 no access: they hold what is written, and are saved and restored with the rest (DESIGN CHOICE, log entry 94). -/
def writeGamMocs (i : Nat) (w : Word) (s : State) : Res State :=
  if s.regs.gamMocs.getD i 0 ≠ w ∧ gamMocsInUse s i then refuse .mocsChangedInFlight
  else .ok { s with regs := { s.regs with gamMocs := s.regs.gamMocs.set i w } }

/-- Writes 0x4DFC (R27): whether the bypass bit rises while render power gating is on is remembered (R882, I54). -/
def writeBypass (w : Word) (g : Regs) : Regs :=
  { g with
    r4dfc := w
    lateBypass := bit w 0 && (if bit g.r4dfc 0 then g.lateBypass else g.powerGating) }

/-- Writes a plain register (R27, R41-R45): the bits that R41-R45 reserve stay 0. Of the registers of R27 only the named bits are in the
source: the others hold what is written, here and in `namedWrite` (DESIGN CHOICE, log entry 94). -/
def writeReg (r : MmioReg) (w : Word) (g : Regs) : Regs :=
  match r with
  | .l3PtrLow => { g with l3Ptr := setHalf g.l3Ptr false (w &&& 0xFFFF0000) }
  | .l3PtrHigh => { g with l3Ptr := setHalf g.l3Ptr true (w &&& 0x0000FFFF) }
  | .nullTile => { g with nullTile := w }
  | .invalidTile => { g with invalidTile := w }
  | .trvadr => { g with trvadr := w &&& 0xFF }
  | .trtte => { g with trtte := w &&& 3 }
  | .r4dfc => writeBypass w g
  | .r404c => { g with r404c := w }
  | .r4a30 => { g with r4a30 := w }
  | .pat 0 => { g with pat0 := w }
  | .pat 1 => { g with pat1 := w }
  | .pat 2 => { g with pat2 := w }
  | .pat _ => { g with pat3 := w }
  | _ => g

/-- The control registers change: what they held is kept while a request is in flight, which may still see it (R901; log entry 87). -/
def changeRegs (g : Regs) (s : State) : State :=
  if allEngines.all fun e => (requestsInFlight s e).isEmpty then { s with regs := g }
  else { s with regs := g, priorRegs := s.regs.controls :: s.priorRegs }

/-- A command streamer writes a half of a descriptor register of its own engine, in its place in the handshake (R850). -/
def writeDescHalf (ag : Agent) (e : Engine) (i : Nat) (h : Bool) (w : Word) (s : State) : State :=
  if ag = .cs e ∧ (engineOf s e).phase = .ready then
    updEngine s e fun x => { x with regs := x.regs.setIdx i (setHalf (x.regs.getIdx i) h w) }
  else s

/-- A register write (R21). The descriptor and message registers are read-only to the host (R30, R850); MCHBAR drops a command
streamer's write (R24), and its contents are not in the volume; the Null range takes none (I3). -/
def mmioWrite (ag : Agent) (off : Nat) (w : Word) (s : State) : Res State :=
  if off % 4 ≠ 0 then refuse .misalignedMmio
  else match mmioReg s.params off with
    | .undefined => refuse .undefinedMmioRegister
    | .mchbar => .ok (noEffect s)
    | .nullRange => .ok (noEffect s)
    | .desc e i h => .ok (noEffect (writeDescHalf ag e i h w s))
    | .toGam e => .ok (noEffect (if ag = .cs e then gamMessage e w s else s))
    | .toCs _ => .ok (noEffect s)
    | .lncf i => do
      let s ← writeLncf i (w.extractLsb' 0 16) s
      let s ← writeLncf (i + 1) (w.extractLsb' 16 16) s
      pure (noEffect s)
    | .gamMocs i => do
      let s ← writeGamMocs i w s
      pure (noEffect s)
    | r => .ok (noEffect (changeRegs (writeReg r w s.regs) s))

/-! ### Registers without a published offset (R22, R23, R27) -/

/-- Reads a register by its name; the counters of Null tiles and of faults show their low 32 bits (R27, R402, R828; log entry 74). -/
def namedRead (r : NamedReg) (s : State) : State :=
  match r with
  | .adNonWb => readWord s s.regs.adNonWb
  | .idicr => readWord s s.regs.idicr
  | .fbcdr => readWord s s.regs.fbcdr
  | .nullTileCount => readWord s (BitVec.ofNat 32 s.regs.nullTileCount)
  | .faultCount => readWord s (BitVec.ofNat 32 s.regs.faultCount)
  | .maxReqCount i => readWord s (s.regs.maxReqCounts.getD i 0)

/-- Writes a register by its name: the bits that R27 does not name hold what is written (DESIGN CHOICE, log entry 94); the counters of Null
tiles and of faults are the hardware's own (log entry 74). -/
def namedWrite (r : NamedReg) (w : Word) (s : State) : State :=
  match r with
  | .adNonWb => noEffect (changeRegs { s.regs with adNonWb := w } s)
  | .idicr => noEffect { s with regs := { s.regs with idicr := w } }
  | .fbcdr => noEffect { s with regs := { s.regs with fbcdr := w } }
  | .nullTileCount => noEffect s
  | .faultCount => noEffect s
  | .maxReqCount i => noEffect { s with regs := { s.regs with maxReqCounts := s.regs.maxReqCounts.set i w } }

/-- Programs a fence (R23, R280). -/
def setFence (i : Nat) (f : Fence) (s : State) : State :=
  noEffect { s with regs := { s.regs with fences := s.regs.fences.set i f } }

/-! ### PCI extended capabilities (R65-R75) -/

/-- A capability header: next offset, version 1, id (R66, R69, R72). -/
def capHeader (nco : BitVec 12) (id : BitVec 16) : Word := nco ++ 1#4 ++ id

/-- Reads a capability register. -/
def pciValue (p : PciCaps) : PciReg → Word
  | .pasidHeader => capHeader p.pasidNco 0x001B
  | .pasidCapability => 0x1406
  | .pasidControl => p.pasidControl.setWidth 32
  | .atsHeader => capHeader p.atsNco 0x000F
  | .atsCapability => 0x0020
  | .atsControl => p.atsControl.setWidth 32
  | .priHeader => capHeader 0 0x0013
  | .priControl => p.priControl.setWidth 32
  | .priStatus => p.priStatus.setWidth 32
  | .priCapacity => p.priCapacity
  | .priAllocation => p.priAllocation

/-- A write to the Page Request Control register (R73, R74): PRE 0 to 1 clears the status, and where requests are still
outstanding after a stop leaves it open (I12); PRE 1 to 0 sets Stopped. -/
def writePriControl (w : Word) (s : State) : State :=
  let pre := bit s.pci.priControl 0
  let new := bit w 0
  let control : BitVec 16 := if new then 1 else 0
  if !pre && new then
    if bit s.pci.priStatus 8 && !s.pageRequests.isEmpty then
      advanceDraws
        { s with pci := { s.pci with priControl := control, priStatus := (freeAt s 0).setWidth 16 &&& 0x0103 } } 1
    else { s with pci := { s.pci with priControl := control, priStatus := 0 } }
  else if pre && !new then
    { s with pci := { s.pci with priControl := control, priStatus := s.pci.priStatus ||| 0x0100 } }
  else s

/-- Writes a capability register: read-only bits stay, RW1C bits clear where 1 is written (R66-R75). -/
def pciWrite (r : PciReg) (w : Word) (s : State) : Res State :=
  match r with
  | .pasidControl =>
    let v : BitVec 16 := w.setWidth 16 &&& 7
    if bit s.pci.atsControl 15 && v != s.pci.pasidControl then refuse .pasidControlWhileAts
    else .ok (noEffect { s with pci := { s.pci with pasidControl := v } })
  | .atsControl => .ok (noEffect { s with pci := { s.pci with atsControl := w.setWidth 16 &&& 0x801F } })
  | .priControl => .ok (noEffect (writePriControl w s))
  | .priStatus =>
    .ok (noEffect { s with pci := { s.pci with priStatus := s.pci.priStatus &&& ~~~(w.setWidth 16 &&& 3) } })
  | .priAllocation => .ok (noEffect { s with pci := { s.pci with priAllocation := w } })
  | _ => .ok (noEffect s)

/-- A register of a capability structure at an offset inside it: one register, or a pair of 16-bit registers in one DWord. -/
inductive CapReg where
  | one (r : PciReg)
  | pair (low high : PciReg)
deriving DecidableEq, Repr

/-- The registers that PASID and ATS structures have at their offsets, by size in bytes (R65). -/
def capPair (header cap control : PciReg) (k size : Nat) : Option CapReg :=
  match k, size with
  | 0, 4 => some (.one header)
  | 4, 2 => some (.one cap)
  | 6, 2 => some (.one control)
  | 4, 4 => some (.pair cap control)
  | _, _ => none

/-- The registers of the Page Request structure (R65). A register of 32 bits is accessed whole: no rule speaks of a narrower access (DESIGN
CHOICE, log entry 68). -/
def priReg (k size : Nat) : Option CapReg :=
  match k, size with
  | 0, 4 => some (.one .priHeader)
  | 4, 2 => some (.one .priControl)
  | 6, 2 => some (.one .priStatus)
  | 4, 4 => some (.pair .priControl .priStatus)
  | 8, 4 => some (.one .priCapacity)
  | 12, 4 => some (.one .priAllocation)
  | _, _ => none

/-- The capability register at an offset of configuration space (R65): the structures stand where the platform and the chain of
next-capability offsets put them (log entry 68). -/
def configReg (s : State) (off : BitVec 12) (size : Nat) : Option CapReg :=
  (capPair .pasidHeader .pasidCapability .pasidControl (off - s.params.pasidCapBase).toNat size).orElse fun _ =>
    (capPair .atsHeader .atsCapability .atsControl (off - s.pci.pasidNco).toNat size).orElse fun _ =>
      priReg (off - s.pci.atsNco).toNat size

/-- A read of configuration space (R65-R75). -/
def configRead (off : BitVec 12) (size : Nat) (s : State) : Res State :=
  match configReg s off size with
  | some (.one r) => .ok (readWord s (pciValue s.pci r))
  | some (.pair l h) =>
    .ok (readWord s ((pciValue s.pci h).extractLsb' 0 16 ++ (pciValue s.pci l).extractLsb' 0 16))
  | none => refuse .undefinedConfigRegister

/-- A write to configuration space: of a pair, the register at the lower offset first (R65-R75). -/
def configWrite (off : BitVec 12) (size : Nat) (w : Word) (s : State) : Res State :=
  match configReg s off size with
  | some (.one r) => pciWrite r w s
  | some (.pair l h) => do
    let s ← pciWrite l (w &&& 0xFFFF) s
    pciWrite h (w >>> 16) s
  | none => refuse .undefinedConfigRegister

/-! ### The host and peer devices (R100-R110) -/

/-- A plain access to physical memory, through GTTADR (R106). -/
def physAccess (write : Bool) (pa n : Nat) (data : QWord) (s : State) : Res State := do
  checkPhys s pa n
  if write then pure (noEffect (store s pa n data Writer.cpu))
  else pure (complete s ⟨.done, memReadLe s.mem pa n, false, 0, pa, .wb, 0⟩)

/-- The oldest invalidation mark of the engines: a Global GTT translation of the host's aperture accesses, which belong to no engine, is
retained until every engine has had an invalidation of everything (DESIGN CHOICE, log entry 85; R156, R351). -/
def oldestMark (s : State) : Nat := allEngines.foldl (fun m e => min m (engineOf s e).invMark) s.history.length

/-- The entry that an aperture access uses: that in memory, or one retained (R351), but none that is not present where the entry in
memory is: that is read again (R374). -/
def apertureEntry (s : State) (pa : Nat) : QWord :=
  let kept := ((s.history.take (s.history.length - oldestMark s)).filter fun o => o.qaddr == pa / 8).map (·.value)
  let e := pickValue s 1 (mem64 s pa) kept
  if bit e 0 then e else mem64 s pa

/-- The physical address of an aperture address (R104, R280, R340): fence tiling, then the Global GTT; `none` where the entry is
not present or lies beyond the table (I22). No rule bounds the tiled place of a fence, which is taken modulo 2^32 (DESIGN CHOICE, log entry
72). -/
def apertureByte (s : State) (g : Nat) : Res (Option Nat) := do
  let la ← fenceTile s g
  let off := la % 2 ^ 32 / 4096 * 8
  if s.params.gsmSize < off + 8 then pure none
  else
    let pa := s.params.gsmBase + off
    checkPhys s pa 8
    let e := apertureEntry s pa
    if !bit e 0 then pure none
    else pure (some (entryAddr s.params.haw 12 e + la % 4096))

/-- The address lies in a range of `size` bytes. -/
def inRange (addr base size : Nat) : Bool := decide (base ≤ addr) && decide (addr < base + size)

/-- Where a byte of the host's address space lies (R104-R110). -/
inductive HostByte where
  | aperture (g : Nat)
  | mmio (off : Nat)
  | stolen
  | phys (pa : Nat)
deriving DecidableEq, Repr

/-- The stolen memories, which the host does not reach directly (R105, R106, R107). -/
def isStolen (p : Params) (addr : Nat) : Bool := inRange addr p.gsmBase p.gsmSize || inRange addr p.dsmBase p.dsmSize

/-- The region of a host address (R104-R107): the aperture, GTTMMADR, a stolen memory, else physical memory. R21 gives function #1 an MMIO
BAR too and no rule its base or size: no host address is decoded for it, and the offset accesses `Op.mmioRead` and `Op.mmioWrite` stand
for both functions (DESIGN CHOICE, log entry 88). -/
def hostByte (p : Params) (addr : Nat) : HostByte :=
  if inRange addr p.gmadrBase p.gmadrSize then .aperture (addr - p.gmadrBase)
  else if inRange addr p.gttmmadrBase 0x1000000 then .mmio (addr - p.gttmmadrBase)
  else if isStolen p addr then .stolen
  else .phys addr

/-- The bytes of a host access. -/
def hostBytes (p : Params) (addr n : Nat) : List HostByte := (List.range n).map fun i => hostByte p (addr + i)

/-- A byte of GTTMMADR. -/
def HostByte.isMmio : HostByte → Bool
  | .mmio _ => true
  | _ => false

/-- Where the bytes of an access lead: no place for the bytes of a stolen memory; `none` where an aperture byte has no present
entry, which makes the access invalid as a whole (log entry 16). -/
def placeBytes (s : State) : List HostByte → Res (Option (List (Option Nat)))
  | [] => pure (some [])
  | b :: r => do
    let a? ← match b with
      | .aperture g => (apertureByte s g).map fun o => o.map some
      | .mmio _ => pure (some none)
      | .stolen => pure (some none)
      | .phys pa => pure (some (some pa))
    match a? with
    | none => pure none
    | some a =>
      match a with
      | some pa => checkPhys s pa 1
      | none => pure ()
      let rest ← placeBytes s r
      pure (rest.map fun l => a :: l)

/-- The wait for an invalidation completes (R372): every access translated before it has been performed at memory, with GTI empty. -/
def completeWait (s : State) : State := noEffect { s with waitMark := s.history.length }

/-- How many entries of history hide nothing from the processor that the GPU wrote with this coherency: the GPU's writes have left its caches
by a flush of them (R154) or by the wait for an invalidation (R372); where they are not coherent at all, the processor's caches must have been
flushed too (R154). -/
def performedFor (s : State) : Coherency → Option Nat
  | .full => none
  | .atLlc => some (max s.gpuMark s.waitMark)
  | .none => some (min (max s.gpuMark s.waitMark) s.cpuMark)

/-- The processor may still see the value that a write replaced, `k` entries of history being older: what the GPU overwrote and has not yet
performed at memory (R154, R372). -/
def cpuMayHide (s : State) (o : OldValue) (k : Nat) : Bool :=
  o.writer.gpu && (performedFor s o.writer.coherency).any fun m => decide (m ≤ k)

/-- The values of `n` bytes that the processor may be shown beside the one in memory: none older than its own last write there (D8). -/
def cpuStale (s : State) (pa n : Nat) : List QWord :=
  (viewsAt s (fun w => !w.gpu) (cpuMayHide s) pa).map fun q => lowBytes (q.ushiftRight (8 * (pa % 8))) n

/-- The processor reads `n` bytes as one value. -/
def readPlain (s : State) (k pa n : Nat) : QWord := pickValue s (8 + k) (memReadLe s.mem pa n) (cpuStale s pa n)

/-- The processor reads the k-th byte of an access; what a stolen memory shows it is open. -/
def readPlaced (s : State) (k : Nat) : Option Nat → QWord
  | some pa => readPlain s k pa 1 &&& 0xFF
  | none => freeAt s (9 + k) &&& 0xFF

/-- The processor reads bytes wherever they lie, the first the least significant (R130). -/
def readScattered (s : State) : Nat → List (Option Nat) → QWord
  | _, [] => 0
  | k, a :: r => readPlaced s k a ||| (readScattered s (k + 1) r <<< 8)

/-- The processor writes bytes wherever they lie, the first the least significant; a stolen memory takes none. -/
def writeScattered (s : State) : List (Option Nat) → QWord → State
  | [], _ => s
  | some a :: r, v => writeScattered (store s a 1 v Writer.cpu) r (v >>> 8)
  | none :: r, v => writeScattered s r (v >>> 8)

/-- The bytes lie one after the other from `pa` on. -/
def followOn : Nat → List (Option Nat) → Bool
  | _, [] => true
  | pa, a :: r => a == some pa && followOn (pa + 1) r

/-- Where the bytes of an access lie, if it is one that is single-copy atomic (R153, D9). -/
def atomicPlace : List (Option Nat) → Option Nat
  | some pa :: r => if followOn (pa + 1) r && singleCopy pa (r.length + 1) then some pa else none
  | _ => none

/-- The data of a host read: one value for a single-copy atomic access, else byte by byte (R153, D9). -/
def readHost (s : State) (pas : List (Option Nat)) : QWord :=
  match atomicPlace pas with
  | some pa => readPlain s 0 pa pas.length
  | none => readScattered s 0 pas

/-- A host write: at once for a single-copy atomic access, else byte by byte (R153, D9). -/
def writeHost (s : State) (pas : List (Option Nat)) (v : QWord) : State :=
  match atomicPlace pas with
  | some pa => store s pa pas.length v Writer.cpu
  | none => writeScattered s pas v

/-- A host access to bytes outside GTTMMADR (R104-R107). Where an aperture byte has no present entry the access is an invalid access
with code 01 (R832; log entry 16). -/
def scatteredAccess (write : Bool) (bytes : List HostByte) (data : QWord) (s : State) : Res State := do
  match ← placeBytes s bytes with
  | none => pure (advanceDraws (complete s ⟨.invalidAccess, if write then 0 else freeAt s 8, false, 1, 0, .wb, 0⟩) 24)
  | some pas =>
    if write then pure (noEffect (advanceDraws (writeHost s pas data) 24))
    else pure (advanceDraws (complete s ⟨.done, readHost s pas, false, 0, (pas.headD none).getD 0, .wb, 0⟩) 24)

/-- An access to GTTADR (R105, R106): an aligned DWord or QWord of the table in GSM; beyond the table a read is open and a write
has no effect. -/
def gttadrAccess (write : Bool) (off n : Nat) (data : QWord) (s : State) : Res State :=
  if !(n == 4 || n == 8) || off % n != 0 then refuse .misalignedMmio
  else if s.params.gsmSize < off + n then .ok (if write then noEffect s else readFree s)
  else physAccess write (s.params.gsmBase + off) n data s

/-- An access within GTTMMADR (R105): registers, the reserved 6 MB (I4), GTTADR. The MCHBAR alias takes aligned Words, DWords
and QWords, the registers aligned DWords (R24, D5). -/
def gttmmadrAccess (write : Bool) (off n : Nat) (data : QWord) (s : State) : Res State :=
  if 0x800000 ≤ off then gttadrAccess write (off - 0x800000) n data s
  else if 0x200000 ≤ off then .ok (if write then noEffect s else readFree s)
  else if 0x140000 ≤ off ∧ off < 0x148000 then
    if (n == 2 || n == 4 || n == 8) && off % n == 0 then .ok (if write then noEffect s else readFree s)
    else refuse .misalignedMmio
  else if n ≠ 4 then refuse .misalignedMmio
  else if write then mmioWrite .host off (data.setWidth 32) s
  else mmioRead .host off s

/-- A host access (R104-R110), of 1 to 8 bytes: within GTTMMADR to a register or GTTADR; elsewhere byte by byte. One that reaches
into GTTMMADR from outside is no aligned register access (I2). -/
def hostAccess (write : Bool) (addr n : Nat) (data : QWord) (s : State) : Res State :=
  let bytes := hostBytes s.params addr n
  if n = 0 ∨ 8 < n then refuse .undecodable
  else if bytes.all HostByte.isMmio then gttmmadrAccess write (addr - s.params.gttmmadrBase) n data s
  else if bytes.any HostByte.isMmio then refuse .misalignedMmio
  else scatteredAccess write bytes data s

/-- The processor's plain write to memory (R110): like any host write it does not reach the stolen memories (R105-R107). -/
def memWriteOp (pa n : Nat) (data : QWord) (s : State) : Res State :=
  if n = 0 ∨ 8 < n then refuse .undecodable
  else scatteredAccess true
    ((List.range n).map fun i => if isStolen s.params (pa + i) then HostByte.stolen else .phys (pa + i)) data s

/-- A peer device's access (R101): writes of graphics operands only, no access to graphics registers (I5); a read is no
transaction of this client and is dropped. A write outside the ranges of Device 2 is one to memory (log entry 30). -/
def peerAccess (write : Bool) (addr n : Nat) (data : QWord) (s : State) : Res State :=
  if (hostBytes s.params addr n).any HostByte.isMmio then refuse .peerRegisterAccess
  else if write then hostAccess true addr n data s
  else .ok (complete s ⟨.dropped, 0, false, 0, 0, .wb, 0⟩)

end Sys2Proof.Machine
end

