-- ==== Sys2Proof/Machine/TilesMessages.lean ====
section
/-! DEFINITION. The meanings of the tiling functions, the context messages and the MOCS entries (R240-R263, R34, R50, R52). -/

namespace Sys2Proof.Machine

open Sys2Proof

/-- TILE_LINEAR: the offset and the address of an element (R243, R261, R283). -/
def execTileLinear (a : TileArgs) (s : State) : Host.Outcome State Fault Refusal :=
  toOutcome (tileObject .linear a s)

/-- TILE_X: the offset and the address of an element (R253, R261, R283). -/
def execTileX (a : TileArgs) (s : State) : Host.Outcome State Fault Refusal :=
  toOutcome (tileObject .x a s)

/-- TILE_Y: the offset and the address of an element (R251, R261, R283). -/
def execTileY (a : TileArgs) (s : State) : Host.Outcome State Fault Refusal :=
  toOutcome (tileObject .y a s)

/-- TILE_W: the offset and the address of an element (R252, R261, R283). -/
def execTileW (a : TileArgs) (s : State) : Host.Outcome State Fault Refusal :=
  toOutcome (tileObject .w a s)

/-- TILE_YF: the offset and the address of an element (R260, R261, R283). -/
def execTileYf (a : TileArgs) (s : State) : Host.Outcome State Fault Refusal :=
  toOutcome (tileObject .yf a s)

/-- TILE_YS: the offset and the address of an element (R260, R261, R283). -/
def execTileYs (a : TileArgs) (s : State) : Host.Outcome State Fault Refusal :=
  toOutcome (tileObject .ys a s)

/-- The RCS message Context Available, to GAM (R34, R850). -/
def execMsgRcsContextAvailable (w : Word) (s : State) : Host.Outcome State Fault Refusal :=
  toOutcome (.ok (gamMessage .rcs w s))

/-- The RCS message Context ReceiveReady, to the command streamer (R34, R850). -/
def execMsgRcsContextReceiveReady (w : Word) (s : State) : Host.Outcome State Fault Refusal :=
  toOutcome (.ok (csMessage .rcs w s))

/-- The RCS message Context Launched, to GAM (R34, R850). -/
def execMsgRcsContextLaunched (w : Word) (s : State) : Host.Outcome State Fault Refusal :=
  toOutcome (.ok (gamMessage .rcs w s))

/-- The RCS message Context Confirmed, to the command streamer (R34, R850). -/
def execMsgRcsContextConfirmed (w : Word) (s : State) : Host.Outcome State Fault Refusal :=
  toOutcome (.ok (csMessage .rcs w s))

/-- The BCS message Context Available, to GAM (R34, R850). -/
def execMsgBcsContextAvailable (w : Word) (s : State) : Host.Outcome State Fault Refusal :=
  toOutcome (.ok (gamMessage .bcs w s))

/-- The BCS message Context ReceiveReady, to the command streamer (R34, R850). -/
def execMsgBcsContextReceiveReady (w : Word) (s : State) : Host.Outcome State Fault Refusal :=
  toOutcome (.ok (csMessage .bcs w s))

/-- The BCS message Context Launched, to GAM (R34, R850). -/
def execMsgBcsContextLaunched (w : Word) (s : State) : Host.Outcome State Fault Refusal :=
  toOutcome (.ok (gamMessage .bcs w s))

/-- The BCS message Context Confirmed, to the command streamer (R34, R850). -/
def execMsgBcsContextConfirmed (w : Word) (s : State) : Host.Outcome State Fault Refusal :=
  toOutcome (.ok (csMessage .bcs w s))

/-- The VECS message Context Available, to GAM (R34, R850). -/
def execMsgVecsContextAvailable (w : Word) (s : State) : Host.Outcome State Fault Refusal :=
  toOutcome (.ok (gamMessage .vecs w s))

/-- The VECS message Context ReceiveReady, to the command streamer (R34, R850). -/
def execMsgVecsContextReceiveReady (w : Word) (s : State) : Host.Outcome State Fault Refusal :=
  toOutcome (.ok (csMessage .vecs w s))

/-- The VECS message Context Launched, to GAM (R34, R850). -/
def execMsgVecsContextLaunched (w : Word) (s : State) : Host.Outcome State Fault Refusal :=
  toOutcome (.ok (gamMessage .vecs w s))

/-- The VECS message Context Confirmed, to the command streamer (R34, R850). -/
def execMsgVecsContextConfirmed (w : Word) (s : State) : Host.Outcome State Fault Refusal :=
  toOutcome (.ok (csMessage .vecs w s))

/-- The VCS0 message Context Available, to GAM (R34, R850). -/
def execMsgVcs0ContextAvailable (w : Word) (s : State) : Host.Outcome State Fault Refusal :=
  toOutcome (.ok (gamMessage .vcs0 w s))

/-- The VCS0 message Context ReceiveReady, to the command streamer (R34, R850). -/
def execMsgVcs0ContextReceiveReady (w : Word) (s : State) : Host.Outcome State Fault Refusal :=
  toOutcome (.ok (csMessage .vcs0 w s))

/-- The VCS0 message Context Launched, to GAM (R34, R850). -/
def execMsgVcs0ContextLaunched (w : Word) (s : State) : Host.Outcome State Fault Refusal :=
  toOutcome (.ok (gamMessage .vcs0 w s))

/-- The VCS0 message Context Confirmed, to the command streamer (R34, R850). -/
def execMsgVcs0ContextConfirmed (w : Word) (s : State) : Host.Outcome State Fault Refusal :=
  toOutcome (.ok (csMessage .vcs0 w s))

/-- The VCS1 message Context Available, to GAM (R34, R850). -/
def execMsgVcs1ContextAvailable (w : Word) (s : State) : Host.Outcome State Fault Refusal :=
  toOutcome (.ok (gamMessage .vcs1 w s))

/-- The VCS1 message Context ReceiveReady, to the command streamer (R34, R850). -/
def execMsgVcs1ContextReceiveReady (w : Word) (s : State) : Host.Outcome State Fault Refusal :=
  toOutcome (.ok (csMessage .vcs1 w s))

/-- The VCS1 message Context Launched, to GAM (R34, R850). -/
def execMsgVcs1ContextLaunched (w : Word) (s : State) : Host.Outcome State Fault Refusal :=
  toOutcome (.ok (gamMessage .vcs1 w s))

/-- The VCS1 message Context Confirmed, to the command streamer (R34, R850). -/
def execMsgVcs1ContextConfirmed (w : Word) (s : State) : Host.Outcome State Fault Refusal :=
  toOutcome (.ok (csMessage .vcs1 w s))

/-- An L3 control entry is written (R50, R51). -/
def execLncfcmocsEntry (w : BitVec 16) (a : MocsIndex) (s : State) : Host.Outcome State Fault Refusal :=
  toOutcome (writeLncf a.index.toNat w s)

/-- A memory-interface control entry is written (R52, R53). -/
def execGamMocsEntry (w : Word) (a : MocsSlot) (s : State) : Host.Outcome State Fault Refusal :=
  toOutcome (writeGamMocs (64 * a.block.toNat + a.index.toNat) w s)

end Sys2Proof.Machine
end

