-- ==== Sys2Proof/Machine/Dispatch.lean ====
section
/-! DEFINITION. The dispatch: one arm per constructor of Instr, one direct call of its meaning. -/

namespace Sys2Proof.Machine

open Sys2Proof

def exec (i : Instr) (s : State) : Host.Outcome State Fault Refusal :=
  match i with
  | .atomicPageUpdate0000 a => Sys2Proof.Machine.execAtomicPageUpdate0000 a s
  | .atomicPageUpdate0001 a => Sys2Proof.Machine.execAtomicPageUpdate0001 a s
  | .atomicPageUpdate0010 a => Sys2Proof.Machine.execAtomicPageUpdate0010 a s
  | .atomicPageUpdate0011 a => Sys2Proof.Machine.execAtomicPageUpdate0011 a s
  | .atomicPageUpdate0100 a => Sys2Proof.Machine.execAtomicPageUpdate0100 a s
  | .atomicPageUpdate0101 a => Sys2Proof.Machine.execAtomicPageUpdate0101 a s
  | .atomicPageUpdate0110 a => Sys2Proof.Machine.execAtomicPageUpdate0110 a s
  | .atomicPageUpdate0111 a => Sys2Proof.Machine.execAtomicPageUpdate0111 a s
  | .atomicPageUpdate1000 a => Sys2Proof.Machine.execAtomicPageUpdate1000 a s
  | .atomicPageUpdate1001 a => Sys2Proof.Machine.execAtomicPageUpdate1001 a s
  | .atomicPageUpdate1010 a => Sys2Proof.Machine.execAtomicPageUpdate1010 a s
  | .atomicPageUpdate1011 a => Sys2Proof.Machine.execAtomicPageUpdate1011 a s
  | .atomicPageUpdate1100 a => Sys2Proof.Machine.execAtomicPageUpdate1100 a s
  | .atomicPageUpdate1101 a => Sys2Proof.Machine.execAtomicPageUpdate1101 a s
  | .atomicPageUpdate1110 a => Sys2Proof.Machine.execAtomicPageUpdate1110 a s
  | .atomicPageUpdate1111 a => Sys2Proof.Machine.execAtomicPageUpdate1111 a s
  | .atomicAUpdate000 a => Sys2Proof.Machine.execAtomicAUpdate000 a s
  | .atomicAUpdate001 a => Sys2Proof.Machine.execAtomicAUpdate001 a s
  | .atomicAUpdate010 a => Sys2Proof.Machine.execAtomicAUpdate010 a s
  | .atomicAUpdate011 a => Sys2Proof.Machine.execAtomicAUpdate011 a s
  | .atomicAUpdate100 a => Sys2Proof.Machine.execAtomicAUpdate100 a s
  | .atomicAdUpdate101 a => Sys2Proof.Machine.execAtomicAdUpdate101 a s
  | .atomicAdUpdate110 a => Sys2Proof.Machine.execAtomicAdUpdate110 a s
  | .atomicAdUpdate111 a => Sys2Proof.Machine.execAtomicAdUpdate111 a s
  | .ctxLegacyGgtt d a => Sys2Proof.Machine.execCtxLegacyGgtt d a s
  | .ctxLegacyPpgtt32 d a => Sys2Proof.Machine.execCtxLegacyPpgtt32 d a s
  | .ctxLegacyPpgtt48 d a => Sys2Proof.Machine.execCtxLegacyPpgtt48 d a s
  | .ctxAdvanced d a => Sys2Proof.Machine.execCtxAdvanced d a s
  | .elementDescriptor d a => Sys2Proof.Machine.execElementDescriptor d a s
  | .faultModelHang d a => Sys2Proof.Machine.execFaultModelHang d a s
  | .faultModelHalt d a => Sys2Proof.Machine.execFaultModelHalt d a s
  | .faultModelStreamSwitch d a => Sys2Proof.Machine.execFaultModelStreamSwitch d a s
  | .faultModelReserved d a => Sys2Proof.Machine.execFaultModelReserved d a s
  | .ia32ePml4e e a => Sys2Proof.Machine.execIa32ePml4e e a s
  | .ia32ePdpePd e a => Sys2Proof.Machine.execIa32ePdpePd e a s
  | .ia32ePdpe1gb e a => Sys2Proof.Machine.execIa32ePdpe1gb e a s
  | .ia32ePdePt e a => Sys2Proof.Machine.execIa32ePdePt e a s
  | .ia32ePde2mb e a => Sys2Proof.Machine.execIa32ePde2mb e a s
  | .ia32ePte64kb e a => Sys2Proof.Machine.execIa32ePte64kb e a s
  | .ia32ePte4kb e a => Sys2Proof.Machine.execIa32ePte4kb e a s
  | .legacy32Pde e a => Sys2Proof.Machine.execLegacy32Pde e a s
  | .legacyPte64kb e a => Sys2Proof.Machine.execLegacyPte64kb e a s
  | .legacyPte4kb e a => Sys2Proof.Machine.execLegacyPte4kb e a s
  | .legacy64Pml4e e a => Sys2Proof.Machine.execLegacy64Pml4e e a s
  | .legacy64PdpePd e a => Sys2Proof.Machine.execLegacy64PdpePd e a s
  | .legacy64Pdpe1gb e a => Sys2Proof.Machine.execLegacy64Pdpe1gb e a s
  | .legacy64PdePt e a => Sys2Proof.Machine.execLegacy64PdePt e a s
  | .legacy64Pde2mb e a => Sys2Proof.Machine.execLegacy64Pde2mb e a s
  | .ggttPte e a => Sys2Proof.Machine.execGgttPte e a s
  | .trttL3e e a => Sys2Proof.Machine.execTrttL3e e a s
  | .trttL2e e a => Sys2Proof.Machine.execTrttL2e e a s
  | .trttL1e e a => Sys2Proof.Machine.execTrttL1e e a s
  | .vaIndex4level v => Sys2Proof.Machine.execVaIndex4level v s
  | .vaIndexPpgtt32 v => Sys2Proof.Machine.execVaIndexPpgtt32 v s
  | .vaIndexGgtt v => Sys2Proof.Machine.execVaIndexGgtt v s
  | .vaIndexTrtt v => Sys2Proof.Machine.execVaIndexTrtt v s
  | .miUpdateGttAddr v a => Sys2Proof.Machine.execMiUpdateGttAddr v a s
  | .hdcPageRequest a => Sys2Proof.Machine.execHdcPageRequest a s
  | .hdcTlbInvResponse a => Sys2Proof.Machine.execHdcTlbInvResponse a s
  | .gamPageResponse a => Sys2Proof.Machine.execGamPageResponse a s
  | .gamTlbInvStart => Sys2Proof.Machine.execGamTlbInvStart s
  | .gamTlbInvEnd => Sys2Proof.Machine.execGamTlbInvEnd s
  | .gamResponseOpcodeReserved => Sys2Proof.Machine.execGamResponseOpcodeReserved s
  | .faultCodeNone a => Sys2Proof.Machine.execFaultCodeNone a s
  | .faultCodeNotPresentOrReserved a => Sys2Proof.Machine.execFaultCodeNotPresentOrReserved a s
  | .faultCodePrivilege a => Sys2Proof.Machine.execFaultCodePrivilege a s
  | .faultCodeWritePermission a => Sys2Proof.Machine.execFaultCodeWritePermission a s
  | .memtypeUc a => Sys2Proof.Machine.execMemtypeUc a s
  | .memtypeWc a => Sys2Proof.Machine.execMemtypeWc a s
  | .memtypeWt a => Sys2Proof.Machine.execMemtypeWt a s
  | .memtypeWp a => Sys2Proof.Machine.execMemtypeWp a s
  | .memtypeWb a => Sys2Proof.Machine.execMemtypeWb a s
  | .memtypeReserved2 a => Sys2Proof.Machine.execMemtypeReserved2 a s
  | .memtypeReserved3 a => Sys2Proof.Machine.execMemtypeReserved3 a s
  | .memtypeReserved7 a => Sys2Proof.Machine.execMemtypeReserved7 a s
  | .etc1Individual b f => Sys2Proof.Machine.execEtc1Individual b f s
  | .etc1Differential b f => Sys2Proof.Machine.execEtc1Differential b f s
  | .etc2T b f => Sys2Proof.Machine.execEtc2T b f s
  | .etc2H b f => Sys2Proof.Machine.execEtc2H b f s
  | .etc2Planar b f => Sys2Proof.Machine.execEtc2Planar b f s
  | .etc2Rgb8Pta b f => Sys2Proof.Machine.execEtc2Rgb8Pta b f s
  | .eacR11 b f => Sys2Proof.Machine.execEacR11 b f s
  | .etc2EacRgba8 b f => Sys2Proof.Machine.execEtc2EacRgba8 b f s
  | .eacRg11 b f => Sys2Proof.Machine.execEacRg11 b f s
  | .fxt1CcHi b f => Sys2Proof.Machine.execFxt1CcHi b f s
  | .fxt1CcChroma b f => Sys2Proof.Machine.execFxt1CcChroma b f s
  | .fxt1CcAlpha b f => Sys2Proof.Machine.execFxt1CcAlpha b f s
  | .fxt1CcMixed b f => Sys2Proof.Machine.execFxt1CcMixed b f s
  | .dxt1FourColour b f => Sys2Proof.Machine.execDxt1FourColour b f s
  | .dxt1ThreeColourTransparent b f => Sys2Proof.Machine.execDxt1ThreeColourTransparent b f s
  | .dxt1Rgb b f => Sys2Proof.Machine.execDxt1Rgb b f s
  | .dxt2Dxt3ExplicitAlpha b f => Sys2Proof.Machine.execDxt2Dxt3ExplicitAlpha b f s
  | .dxt4Dxt5InterpolatedAlpha b f => Sys2Proof.Machine.execDxt4Dxt5InterpolatedAlpha b f s
  | .bc4 b f => Sys2Proof.Machine.execBc4 b f s
  | .bc5 b f => Sys2Proof.Machine.execBc5 b f s
  | .bc6hMode0 b f => Sys2Proof.Machine.execBc6hMode0 b f s
  | .bc6hMode1 b f => Sys2Proof.Machine.execBc6hMode1 b f s
  | .bc6hMode2 b f => Sys2Proof.Machine.execBc6hMode2 b f s
  | .bc6hMode3 b f => Sys2Proof.Machine.execBc6hMode3 b f s
  | .bc6hMode4 b f => Sys2Proof.Machine.execBc6hMode4 b f s
  | .bc6hMode5 b f => Sys2Proof.Machine.execBc6hMode5 b f s
  | .bc6hMode6 b f => Sys2Proof.Machine.execBc6hMode6 b f s
  | .bc6hMode7 b f => Sys2Proof.Machine.execBc6hMode7 b f s
  | .bc6hMode8 b f => Sys2Proof.Machine.execBc6hMode8 b f s
  | .bc6hMode9 b f => Sys2Proof.Machine.execBc6hMode9 b f s
  | .bc6hMode10 b f => Sys2Proof.Machine.execBc6hMode10 b f s
  | .bc6hMode11 b f => Sys2Proof.Machine.execBc6hMode11 b f s
  | .bc6hMode12 b f => Sys2Proof.Machine.execBc6hMode12 b f s
  | .bc6hMode13 b f => Sys2Proof.Machine.execBc6hMode13 b f s
  | .bc6hUndefined10011 b f => Sys2Proof.Machine.execBc6hUndefined10011 b f s
  | .bc6hUndefined10111 b f => Sys2Proof.Machine.execBc6hUndefined10111 b f s
  | .bc6hUndefined11011 b f => Sys2Proof.Machine.execBc6hUndefined11011 b f s
  | .bc6hUndefined11111 b f => Sys2Proof.Machine.execBc6hUndefined11111 b f s
  | .bc7Mode0 b f => Sys2Proof.Machine.execBc7Mode0 b f s
  | .bc7Mode1 b f => Sys2Proof.Machine.execBc7Mode1 b f s
  | .bc7Mode2 b f => Sys2Proof.Machine.execBc7Mode2 b f s
  | .bc7Mode3 b f => Sys2Proof.Machine.execBc7Mode3 b f s
  | .bc7Mode4 b f => Sys2Proof.Machine.execBc7Mode4 b f s
  | .bc7Mode5 b f => Sys2Proof.Machine.execBc7Mode5 b f s
  | .bc7Mode6 b f => Sys2Proof.Machine.execBc7Mode6 b f s
  | .bc7Mode7 b f => Sys2Proof.Machine.execBc7Mode7 b f s
  | .bc7Undefined b f => Sys2Proof.Machine.execBc7Undefined b f s
  | .astcVoidExtent2d b => Sys2Proof.Machine.execAstcVoidExtent2d b s
  | .astcReservedModeA b => Sys2Proof.Machine.execAstcReservedModeA b s
  | .astcReservedModeB b => Sys2Proof.Machine.execAstcReservedModeB b s
  | .astcModeWBp4HAp2 b => Sys2Proof.Machine.execAstcModeWBp4HAp2 b s
  | .astcModeWBp8HAp2 b => Sys2Proof.Machine.execAstcModeWBp8HAp2 b s
  | .astcModeWAp2HBp8 b => Sys2Proof.Machine.execAstcModeWAp2HBp8 b s
  | .astcModeWAp2HBp6 b => Sys2Proof.Machine.execAstcModeWAp2HBp6 b s
  | .astcModeWBp2HAp2 b => Sys2Proof.Machine.execAstcModeWBp2HAp2 b s
  | .astcModeW12HAp2 b => Sys2Proof.Machine.execAstcModeW12HAp2 b s
  | .astcModeWAp2H12 b => Sys2Proof.Machine.execAstcModeWAp2H12 b s
  | .astcModeW6H10 b => Sys2Proof.Machine.execAstcModeW6H10 b s
  | .astcModeW10H6 b => Sys2Proof.Machine.execAstcModeW10H6 b s
  | .astcModeWAp6HBp6 b => Sys2Proof.Machine.execAstcModeWAp6HBp6 b s
  | .astcCem0 b => Sys2Proof.Machine.execAstcCem0 b s
  | .astcCem1 b => Sys2Proof.Machine.execAstcCem1 b s
  | .astcCem2 b => Sys2Proof.Machine.execAstcCem2 b s
  | .astcCem3 b => Sys2Proof.Machine.execAstcCem3 b s
  | .astcCem4 b => Sys2Proof.Machine.execAstcCem4 b s
  | .astcCem5 b => Sys2Proof.Machine.execAstcCem5 b s
  | .astcCem6 b => Sys2Proof.Machine.execAstcCem6 b s
  | .astcCem7 b => Sys2Proof.Machine.execAstcCem7 b s
  | .astcCem8 b => Sys2Proof.Machine.execAstcCem8 b s
  | .astcCem9 b => Sys2Proof.Machine.execAstcCem9 b s
  | .astcCem10 b => Sys2Proof.Machine.execAstcCem10 b s
  | .astcCem11 b => Sys2Proof.Machine.execAstcCem11 b s
  | .astcCem12 b => Sys2Proof.Machine.execAstcCem12 b s
  | .astcCem13 b => Sys2Proof.Machine.execAstcCem13 b s
  | .astcCem14 b => Sys2Proof.Machine.execAstcCem14 b s
  | .astcCem15 b => Sys2Proof.Machine.execAstcCem15 b s
  | .astcLdr2d4x4U8srgb => Sys2Proof.Machine.execAstcLdr2d4x4U8srgb s
  | .astcLdr2d5x4U8srgb => Sys2Proof.Machine.execAstcLdr2d5x4U8srgb s
  | .astcLdr2d5x5U8srgb => Sys2Proof.Machine.execAstcLdr2d5x5U8srgb s
  | .astcLdr2d6x5U8srgb => Sys2Proof.Machine.execAstcLdr2d6x5U8srgb s
  | .astcLdr2d6x6U8srgb => Sys2Proof.Machine.execAstcLdr2d6x6U8srgb s
  | .astcLdr2d8x5U8srgb => Sys2Proof.Machine.execAstcLdr2d8x5U8srgb s
  | .astcLdr2d8x6U8srgb => Sys2Proof.Machine.execAstcLdr2d8x6U8srgb s
  | .astcLdr2d10x5U8srgb => Sys2Proof.Machine.execAstcLdr2d10x5U8srgb s
  | .astcLdr2d10x6U8srgb => Sys2Proof.Machine.execAstcLdr2d10x6U8srgb s
  | .astcLdr2d8x8U8srgb => Sys2Proof.Machine.execAstcLdr2d8x8U8srgb s
  | .astcLdr2d10x8U8srgb => Sys2Proof.Machine.execAstcLdr2d10x8U8srgb s
  | .astcLdr2d10x10U8srgb => Sys2Proof.Machine.execAstcLdr2d10x10U8srgb s
  | .astcLdr2d12x10U8srgb => Sys2Proof.Machine.execAstcLdr2d12x10U8srgb s
  | .astcLdr2d12x12U8srgb => Sys2Proof.Machine.execAstcLdr2d12x12U8srgb s
  | .astcLdr2d4x4Flt16 => Sys2Proof.Machine.execAstcLdr2d4x4Flt16 s
  | .astcLdr2d5x4Flt16 => Sys2Proof.Machine.execAstcLdr2d5x4Flt16 s
  | .astcLdr2d5x5Flt16 => Sys2Proof.Machine.execAstcLdr2d5x5Flt16 s
  | .astcLdr2d6x5Flt16 => Sys2Proof.Machine.execAstcLdr2d6x5Flt16 s
  | .astcLdr2d6x6Flt16 => Sys2Proof.Machine.execAstcLdr2d6x6Flt16 s
  | .astcLdr2d8x5Flt16 => Sys2Proof.Machine.execAstcLdr2d8x5Flt16 s
  | .astcLdr2d8x6Flt16 => Sys2Proof.Machine.execAstcLdr2d8x6Flt16 s
  | .astcLdr2d10x5Flt16 => Sys2Proof.Machine.execAstcLdr2d10x5Flt16 s
  | .astcLdr2d10x6Flt16 => Sys2Proof.Machine.execAstcLdr2d10x6Flt16 s
  | .astcLdr2d8x8Flt16 => Sys2Proof.Machine.execAstcLdr2d8x8Flt16 s
  | .astcLdr2d10x8Flt16 => Sys2Proof.Machine.execAstcLdr2d10x8Flt16 s
  | .astcLdr2d10x10Flt16 => Sys2Proof.Machine.execAstcLdr2d10x10Flt16 s
  | .astcLdr2d12x10Flt16 => Sys2Proof.Machine.execAstcLdr2d12x10Flt16 s
  | .astcLdr2d12x12Flt16 => Sys2Proof.Machine.execAstcLdr2d12x12Flt16 s
  | .astcFull2d4x4Flt16 => Sys2Proof.Machine.execAstcFull2d4x4Flt16 s
  | .astcFull2d5x4Flt16 => Sys2Proof.Machine.execAstcFull2d5x4Flt16 s
  | .astcFull2d5x5Flt16 => Sys2Proof.Machine.execAstcFull2d5x5Flt16 s
  | .astcFull2d6x5Flt16 => Sys2Proof.Machine.execAstcFull2d6x5Flt16 s
  | .astcFull2d6x6Flt16 => Sys2Proof.Machine.execAstcFull2d6x6Flt16 s
  | .astcFull2d8x5Flt16 => Sys2Proof.Machine.execAstcFull2d8x5Flt16 s
  | .astcFull2d8x6Flt16 => Sys2Proof.Machine.execAstcFull2d8x6Flt16 s
  | .astcFull2d10x5Flt16 => Sys2Proof.Machine.execAstcFull2d10x5Flt16 s
  | .astcFull2d10x6Flt16 => Sys2Proof.Machine.execAstcFull2d10x6Flt16 s
  | .astcFull2d8x8Flt16 => Sys2Proof.Machine.execAstcFull2d8x8Flt16 s
  | .astcFull2d10x8Flt16 => Sys2Proof.Machine.execAstcFull2d10x8Flt16 s
  | .astcFull2d10x10Flt16 => Sys2Proof.Machine.execAstcFull2d10x10Flt16 s
  | .astcFull2d12x10Flt16 => Sys2Proof.Machine.execAstcFull2d12x10Flt16 s
  | .astcFull2d12x12Flt16 => Sys2Proof.Machine.execAstcFull2d12x12Flt16 s
  | .tileLinear a => Sys2Proof.Machine.execTileLinear a s
  | .tileX a => Sys2Proof.Machine.execTileX a s
  | .tileY a => Sys2Proof.Machine.execTileY a s
  | .tileW a => Sys2Proof.Machine.execTileW a s
  | .tileYf a => Sys2Proof.Machine.execTileYf a s
  | .tileYs a => Sys2Proof.Machine.execTileYs a s
  | .msgRcsContextAvailable w => Sys2Proof.Machine.execMsgRcsContextAvailable w s
  | .msgRcsContextReceiveReady w => Sys2Proof.Machine.execMsgRcsContextReceiveReady w s
  | .msgRcsContextLaunched w => Sys2Proof.Machine.execMsgRcsContextLaunched w s
  | .msgRcsContextConfirmed w => Sys2Proof.Machine.execMsgRcsContextConfirmed w s
  | .msgBcsContextAvailable w => Sys2Proof.Machine.execMsgBcsContextAvailable w s
  | .msgBcsContextReceiveReady w => Sys2Proof.Machine.execMsgBcsContextReceiveReady w s
  | .msgBcsContextLaunched w => Sys2Proof.Machine.execMsgBcsContextLaunched w s
  | .msgBcsContextConfirmed w => Sys2Proof.Machine.execMsgBcsContextConfirmed w s
  | .msgVecsContextAvailable w => Sys2Proof.Machine.execMsgVecsContextAvailable w s
  | .msgVecsContextReceiveReady w => Sys2Proof.Machine.execMsgVecsContextReceiveReady w s
  | .msgVecsContextLaunched w => Sys2Proof.Machine.execMsgVecsContextLaunched w s
  | .msgVecsContextConfirmed w => Sys2Proof.Machine.execMsgVecsContextConfirmed w s
  | .msgVcs0ContextAvailable w => Sys2Proof.Machine.execMsgVcs0ContextAvailable w s
  | .msgVcs0ContextReceiveReady w => Sys2Proof.Machine.execMsgVcs0ContextReceiveReady w s
  | .msgVcs0ContextLaunched w => Sys2Proof.Machine.execMsgVcs0ContextLaunched w s
  | .msgVcs0ContextConfirmed w => Sys2Proof.Machine.execMsgVcs0ContextConfirmed w s
  | .msgVcs1ContextAvailable w => Sys2Proof.Machine.execMsgVcs1ContextAvailable w s
  | .msgVcs1ContextReceiveReady w => Sys2Proof.Machine.execMsgVcs1ContextReceiveReady w s
  | .msgVcs1ContextLaunched w => Sys2Proof.Machine.execMsgVcs1ContextLaunched w s
  | .msgVcs1ContextConfirmed w => Sys2Proof.Machine.execMsgVcs1ContextConfirmed w s
  | .lncfcmocsEntry w a => Sys2Proof.Machine.execLncfcmocsEntry w a s
  | .gamMocsEntry w a => Sys2Proof.Machine.execGamMocsEntry w a s

end Sys2Proof.Machine
end

