-- ==== Sys2Proof/WellFormed.lean ====
section
/-! DEFINITION. Which terms of the syntax are objects of the machine: the fixed bits and predicates of every opcode-table
row, and the operand values the encoding admits. -/

namespace Sys2Proof

/-- The clients that the table of R101 lets write; the others only read. -/
def Client.mayWrite : Client → Bool
  | .commandStream => false
  | .vertexStream => false
  | .instructionState => false
  | .renderCache => true
  | .samplerCache => false
  | .displayOverlay => false
  | .media => true
  | .uController => true
  | .coherentReadWrite => true
  | .hdc => true

/-- A request an internal client can make: a write or atomic only from a client that may write (R101), an instruction fetch
only as a read of the Instruction/State cache (R855: ER = 1 for instruction-cache fetches only), and a virtual address whose
bits 63:48 equal bit 47 (R302, I21: refused at the client). The address is that of the first byte: later bytes beyond bit 47, an auxiliary
tile's address and padding are translated by bits 47:0 (DESIGN CHOICE, log entry 99). -/
def Access.wf (a : Access) : Bool :=
  (a.kind == .read || a.client.mayWrite) && (!a.ifetch || (a.kind == .read && a.client == .instructionState))
    && (a.va == (a.va.extractLsb' 0 48).signExtend 64)

/-- A page-table atomic acts on a naturally aligned QWord (R131, R420). -/
def AtomicArgs.wf (a : AtomicArgs) : Bool := field a.pa 0 3 == 0

/-- A fault is about a well-formed request. -/
def FaultArgs.wf (a : FaultArgs) : Bool := a.acc.wf

/-- The slice of a request is one bit and its address is 36 bits (R196). -/
def HdcRequest.wf (a : HdcRequest) : Bool := !bit a.src.slice 1 && field a.vaPage 36 28 == 0

/-- The slice of an acknowledgement is one bit (R196). -/
def HdcAck.wf (a : HdcAck) : Bool := !bit a.src.slice 1

/-- The PA of a response is 27 bits (R197). -/
def GamResponse.wf (a : GamResponse) : Bool := field a.pa 27 5 == 0

/-- The well-formed objects: the row's own bits are those of the opcode table, and the operands are admissible. -/
def Instr.wf : Instr → Bool
  | .atomicPageUpdate0000 a => a.wf
  | .atomicPageUpdate0001 a => a.wf
  | .atomicPageUpdate0010 a => a.wf
  | .atomicPageUpdate0011 a => a.wf
  | .atomicPageUpdate0100 a => a.wf
  | .atomicPageUpdate0101 a => a.wf
  | .atomicPageUpdate0110 a => a.wf
  | .atomicPageUpdate0111 a => a.wf
  | .atomicPageUpdate1000 a => a.wf
  | .atomicPageUpdate1001 a => a.wf
  | .atomicPageUpdate1010 a => a.wf
  | .atomicPageUpdate1011 a => a.wf
  | .atomicPageUpdate1100 a => a.wf
  | .atomicPageUpdate1101 a => a.wf
  | .atomicPageUpdate1110 a => a.wf
  | .atomicPageUpdate1111 a => a.wf
  | .atomicAUpdate000 a => a.wf
  | .atomicAUpdate001 a => a.wf
  | .atomicAUpdate010 a => a.wf
  | .atomicAUpdate011 a => a.wf
  | .atomicAUpdate100 a => a.wf
  | .atomicAdUpdate101 a => a.wf
  | .atomicAdUpdate110 a => a.wf
  | .atomicAdUpdate111 a => a.wf
  | .ctxLegacyGgtt d a => (walkMode d == .ggtt) && a.wf
  | .ctxLegacyPpgtt32 d a => (walkMode d == .ppgtt32) && a.wf
  | .ctxLegacyPpgtt48 d a => (walkMode d == .ppgtt48) && a.wf
  | .ctxAdvanced d a => (walkMode d == .advanced) && a.wf
  | .elementDescriptor _ _ => true
  | .faultModelHang d a => (field d 6 2 == 0) && a.wf
  | .faultModelHalt d a => (field d 6 2 == 1) && a.wf
  | .faultModelStreamSwitch d a => (field d 6 2 == 2) && a.wf
  | .faultModelReserved d a => (field d 6 2 == 3) && a.wf
  | .ia32ePml4e e a => matchesPat e 0x81 0x1 && a.wf
  | .ia32ePdpePd e a => matchesPat e 0x81 0x1 && a.wf
  | .ia32ePdpe1gb e a => matchesPat e 0x81 0x81 && a.wf
  | .ia32ePdePt e a => matchesPat e 0x81 0x1 && a.wf
  | .ia32ePde2mb e a => matchesPat e 0x81 0x81 && a.wf
  | .ia32ePte64kb e a => matchesPat e 0x1 0x1 && a.wf
  | .ia32ePte4kb e a => matchesPat e 0x1 0x1 && a.wf
  | .legacy32Pde e a => matchesPat e 0x1 0x1 && a.wf
  | .legacyPte64kb e a => matchesPat e 0x1 0x1 && a.wf
  | .legacyPte4kb e a => matchesPat e 0x1 0x1 && a.wf
  | .legacy64Pml4e e a => matchesPat e 0x1 0x1 && a.wf
  | .legacy64PdpePd e a => matchesPat e 0x81 0x1 && a.wf
  | .legacy64Pdpe1gb e a => matchesPat e 0x81 0x81 && a.wf
  | .legacy64PdePt e a => matchesPat e 0x81 0x1 && a.wf
  | .legacy64Pde2mb e a => matchesPat e 0x81 0x81 && a.wf
  | .ggttPte e a => matchesPat e 0x1 0x1 && a.wf
  | .trttL3e _ a => a.wf
  | .trttL2e _ a => a.wf
  | .trttL1e _ a => a.wf
  | .vaIndex4level _ => true
  | .vaIndexPpgtt32 _ => true
  | .vaIndexGgtt _ => true
  | .vaIndexTrtt _ => true
  | .miUpdateGttAddr _ _ => true
  | .hdcPageRequest a => a.wf
  | .hdcTlbInvResponse a => a.wf
  | .gamPageResponse a => a.wf
  | .gamTlbInvStart => true
  | .gamTlbInvEnd => true
  | .gamResponseOpcodeReserved => true
  | .faultCodeNone a => a.wf
  | .faultCodeNotPresentOrReserved a => a.wf
  | .faultCodePrivilege a => a.wf
  | .faultCodeWritePermission a => a.wf
  | .memtypeUc _ => true
  | .memtypeWc _ => true
  | .memtypeWt _ => true
  | .memtypeWp _ => true
  | .memtypeWb _ => true
  | .memtypeReserved2 _ => true
  | .memtypeReserved3 _ => true
  | .memtypeReserved7 _ => true
  | .etc1Individual b _ => !bit b 25
  | .etc1Differential b _ => bit b 25
  | .etc2T b _ => etc2Mode b == .t
  | .etc2H b _ => etc2Mode b == .h
  | .etc2Planar b _ => etc2Mode b == .planar
  | .etc2Rgb8Pta _ _ => true
  | .eacR11 _ _ => true
  | .etc2EacRgba8 _ _ => true
  | .eacRg11 _ _ => true
  | .fxt1CcHi b _ => matchesPat b 0xc0000000000000000000000000000000 0x00000000000000000000000000000000
  | .fxt1CcChroma b _ => matchesPat b 0xe0000000000000000000000000000000 0x40000000000000000000000000000000
  | .fxt1CcAlpha b _ => matchesPat b 0xe0000000000000000000000000000000 0x60000000000000000000000000000000
  | .fxt1CcMixed b _ => matchesPat b 0x80000000000000000000000000000000 0x80000000000000000000000000000000
  | .dxt1FourColour b _ => decide (field b 0 16 > field b 16 16)
  | .dxt1ThreeColourTransparent b _ => decide (field b 0 16 ≤ field b 16 16)
  | .dxt1Rgb _ _ => true
  | .dxt2Dxt3ExplicitAlpha _ _ => true
  | .dxt4Dxt5InterpolatedAlpha _ _ => true
  | .bc4 _ _ => true
  | .bc5 _ _ => true
  | .bc6hMode0 b _ => matchesPat b 0x3 0x0
  | .bc6hMode1 b _ => matchesPat b 0x3 0x1
  | .bc6hMode2 b _ => matchesPat b 0x1f 0x2
  | .bc6hMode3 b _ => matchesPat b 0x1f 0x6
  | .bc6hMode4 b _ => matchesPat b 0x1f 0xa
  | .bc6hMode5 b _ => matchesPat b 0x1f 0xe
  | .bc6hMode6 b _ => matchesPat b 0x1f 0x12
  | .bc6hMode7 b _ => matchesPat b 0x1f 0x16
  | .bc6hMode8 b _ => matchesPat b 0x1f 0x1a
  | .bc6hMode9 b _ => matchesPat b 0x1f 0x1e
  | .bc6hMode10 b _ => matchesPat b 0x1f 0x3
  | .bc6hMode11 b _ => matchesPat b 0x1f 0x7
  | .bc6hMode12 b _ => matchesPat b 0x1f 0xb
  | .bc6hMode13 b _ => matchesPat b 0x1f 0xf
  | .bc6hUndefined10011 b _ => matchesPat b 0x1f 0x13
  | .bc6hUndefined10111 b _ => matchesPat b 0x1f 0x17
  | .bc6hUndefined11011 b _ => matchesPat b 0x1f 0x1b
  | .bc6hUndefined11111 b _ => matchesPat b 0x1f 0x1f
  | .bc7Mode0 b _ => matchesPat b 0x1 0x1
  | .bc7Mode1 b _ => matchesPat b 0x3 0x2
  | .bc7Mode2 b _ => matchesPat b 0x7 0x4
  | .bc7Mode3 b _ => matchesPat b 0xf 0x8
  | .bc7Mode4 b _ => matchesPat b 0x1f 0x10
  | .bc7Mode5 b _ => matchesPat b 0x3f 0x20
  | .bc7Mode6 b _ => matchesPat b 0x7f 0x40
  | .bc7Mode7 b _ => matchesPat b 0xff 0x80
  | .bc7Undefined b _ => matchesPat b 0xff 0x0
  | .astcVoidExtent2d b => astcClass (astcModeBits b) == .voidExtent
  | .astcReservedModeA b => astcClass (astcModeBits b) == .reservedA
  | .astcReservedModeB b => astcClass (astcModeBits b) == .reservedB
  | .astcModeWBp4HAp2 b => astcClass (astcModeBits b) == .wBp4HAp2
  | .astcModeWBp8HAp2 b => astcClass (astcModeBits b) == .wBp8HAp2
  | .astcModeWAp2HBp8 b => astcClass (astcModeBits b) == .wAp2HBp8
  | .astcModeWAp2HBp6 b => astcClass (astcModeBits b) == .wAp2HBp6
  | .astcModeWBp2HAp2 b => astcClass (astcModeBits b) == .wBp2HAp2
  | .astcModeW12HAp2 b => astcClass (astcModeBits b) == .w12HAp2
  | .astcModeWAp2H12 b => astcClass (astcModeBits b) == .wAp2H12
  | .astcModeW6H10 b => astcClass (astcModeBits b) == .w6H10
  | .astcModeW10H6 b => astcClass (astcModeBits b) == .w10H6
  | .astcModeWAp6HBp6 b => astcClass (astcModeBits b) == .wAp6HBp6
  | .astcCem0 b => field b 13 4 == 0
  | .astcCem1 b => field b 13 4 == 1
  | .astcCem2 b => field b 13 4 == 2
  | .astcCem3 b => field b 13 4 == 3
  | .astcCem4 b => field b 13 4 == 4
  | .astcCem5 b => field b 13 4 == 5
  | .astcCem6 b => field b 13 4 == 6
  | .astcCem7 b => field b 13 4 == 7
  | .astcCem8 b => field b 13 4 == 8
  | .astcCem9 b => field b 13 4 == 9
  | .astcCem10 b => field b 13 4 == 10
  | .astcCem11 b => field b 13 4 == 11
  | .astcCem12 b => field b 13 4 == 12
  | .astcCem13 b => field b 13 4 == 13
  | .astcCem14 b => field b 13 4 == 14
  | .astcCem15 b => field b 13 4 == 15
  | .astcLdr2d4x4U8srgb => true
  | .astcLdr2d5x4U8srgb => true
  | .astcLdr2d5x5U8srgb => true
  | .astcLdr2d6x5U8srgb => true
  | .astcLdr2d6x6U8srgb => true
  | .astcLdr2d8x5U8srgb => true
  | .astcLdr2d8x6U8srgb => true
  | .astcLdr2d10x5U8srgb => true
  | .astcLdr2d10x6U8srgb => true
  | .astcLdr2d8x8U8srgb => true
  | .astcLdr2d10x8U8srgb => true
  | .astcLdr2d10x10U8srgb => true
  | .astcLdr2d12x10U8srgb => true
  | .astcLdr2d12x12U8srgb => true
  | .astcLdr2d4x4Flt16 => true
  | .astcLdr2d5x4Flt16 => true
  | .astcLdr2d5x5Flt16 => true
  | .astcLdr2d6x5Flt16 => true
  | .astcLdr2d6x6Flt16 => true
  | .astcLdr2d8x5Flt16 => true
  | .astcLdr2d8x6Flt16 => true
  | .astcLdr2d10x5Flt16 => true
  | .astcLdr2d10x6Flt16 => true
  | .astcLdr2d8x8Flt16 => true
  | .astcLdr2d10x8Flt16 => true
  | .astcLdr2d10x10Flt16 => true
  | .astcLdr2d12x10Flt16 => true
  | .astcLdr2d12x12Flt16 => true
  | .astcFull2d4x4Flt16 => true
  | .astcFull2d5x4Flt16 => true
  | .astcFull2d5x5Flt16 => true
  | .astcFull2d6x5Flt16 => true
  | .astcFull2d6x6Flt16 => true
  | .astcFull2d8x5Flt16 => true
  | .astcFull2d8x6Flt16 => true
  | .astcFull2d10x5Flt16 => true
  | .astcFull2d10x6Flt16 => true
  | .astcFull2d8x8Flt16 => true
  | .astcFull2d10x8Flt16 => true
  | .astcFull2d10x10Flt16 => true
  | .astcFull2d12x10Flt16 => true
  | .astcFull2d12x12Flt16 => true
  | .tileLinear _ => true
  | .tileX _ => true
  | .tileY _ => true
  | .tileW _ => true
  | .tileYf _ => true
  | .tileYs _ => true
  | .msgRcsContextAvailable w => messageBit w 0
  | .msgRcsContextReceiveReady w => messageBit w 0
  | .msgRcsContextLaunched w => !messageBit w 0 && messageBit w 1
  | .msgRcsContextConfirmed w => !messageBit w 0 && messageBit w 1
  | .msgBcsContextAvailable w => messageBit w 0
  | .msgBcsContextReceiveReady w => messageBit w 0
  | .msgBcsContextLaunched w => !messageBit w 0 && messageBit w 1
  | .msgBcsContextConfirmed w => !messageBit w 0 && messageBit w 1
  | .msgVecsContextAvailable w => messageBit w 0
  | .msgVecsContextReceiveReady w => messageBit w 0
  | .msgVecsContextLaunched w => !messageBit w 0 && messageBit w 1
  | .msgVecsContextConfirmed w => !messageBit w 0 && messageBit w 1
  | .msgVcs0ContextAvailable w => messageBit w 0
  | .msgVcs0ContextReceiveReady w => messageBit w 0
  | .msgVcs0ContextLaunched w => !messageBit w 0 && messageBit w 1
  | .msgVcs0ContextConfirmed w => !messageBit w 0 && messageBit w 1
  | .msgVcs1ContextAvailable w => messageBit w 0
  | .msgVcs1ContextReceiveReady w => messageBit w 0
  | .msgVcs1ContextLaunched w => !messageBit w 0 && messageBit w 1
  | .msgVcs1ContextConfirmed w => !messageBit w 0 && messageBit w 1
  | .lncfcmocsEntry _ _ => true
  | .gamMocsEntry _ _ => true

end Sys2Proof
end

