-- ==== Sys2Proof/Decode.lean ====
section
/-! DEFINITION. The decoder, total on any bytes and refusing by name, and the encoder after it. An encoded object is its own
bits as spec/opcode_table.json numbers them, least significant byte first (R9, D4), followed by its operands; the byte form
of the operands is the model's own (log entry 5), since the spec gives them as abstract records only. -/

namespace Sys2Proof

/-- Why bytes are no object. `entryFault`, `maskedOff` and `notValid` are outcomes the spec gives (a page fault with code 01, R801;
a message write without its mask bit, R34; an invalidation broadcast without its Valid bit, R197): the step acts on them. The others are refusals. -/
inductive DecodeError where
  | truncated
  | unknownAtomicOpcode
  | unknownAtomicCase
  | unknownHdcOpcode
  | unknownGamOpcode
  | unknownFaultCode
  | unknownMemType
  | unknownAstcFormat
  | entryFault (a : Access) (level : Nat)
  | maskedOff
  | notValid
  | illFormedOperands
deriving DecidableEq, Repr

/-- One byte. -/
def getByte : List Byte → Option (Byte × List Byte)
  | [] => none
  | b :: r => some (b, r)

/-- A little-endian value of `k` bytes. -/
def getLe (n k : Nat) (bs : List Byte) : Option (BitVec n × List Byte) :=
  if k ≤ bs.length then some (ofLeBytes n (bs.take k), bs.drop k) else none

/-- Two bytes. -/
def getBits16 : List Byte → Option (BitVec 16 × List Byte) := getLe 16 2
/-- Four bytes. -/
def getWord : List Byte → Option (Word × List Byte) := getLe 32 4
/-- Six bytes. -/
def getBits48 : List Byte → Option (BitVec 48 × List Byte) := getLe 48 6
/-- Eight bytes. -/
def getQWord : List Byte → Option (QWord × List Byte) := getLe 64 8
/-- Sixteen bytes. -/
def getBlock : List Byte → Option (Block × List Byte) := getLe 128 16

/-- A Boolean: 0 or 1. -/
def getBool : List Byte → Option (Bool × List Byte)
  | [] => none
  | b :: r => if b == 0 then some (false, r) else if b == 1 then some (true, r) else none

/-- Writes a Boolean. -/
def putBool (x : Bool) : List Byte := [if x then 1 else 0]

/-- A field of at most 8 bits, in one byte whose other bits are 0. -/
def getSmall (n : Nat) : List Byte → Option (BitVec n × List Byte)
  | [] => none
  | b :: r => if b.toNat < 2 ^ n then some (b.setWidth n, r) else none

/-- Writes a field of at most 8 bits. -/
def putSmall {n : Nat} (x : BitVec n) : List Byte := [x.setWidth 8]

/-- A reader's failure, as the decoder's: too few bytes, or a code no value has. -/
def operand {α : Type} (g : List Byte → Option (α × List Byte)) (bs : List Byte) : Except DecodeError (α × List Byte) :=
  match g bs with
  | some x => .ok x
  | none => .error .truncated

/-- The byte that stands for a value of `Engine`. -/
def Engine.code : Engine → Byte
  | .rcs => 0
  | .vcs0 => 1
  | .vcs1 => 2
  | .vecs => 3
  | .bcs => 4

/-- Reads a `Engine`; other codes are refused. -/
def Engine.get : List Byte → Option (Engine × List Byte)
  | [] => none
  | b :: r =>
    if b == 0 then some (.rcs, r)
    else if b == 1 then some (.vcs0, r)
    else if b == 2 then some (.vcs1, r)
    else if b == 3 then some (.vecs, r)
    else if b == 4 then some (.bcs, r)
    else none

/-- Writes a `Engine`. -/
def Engine.put (x : Engine) : List Byte := [x.code]

/-- The byte that stands for a value of `Client`. -/
def Client.code : Client → Byte
  | .commandStream => 0
  | .vertexStream => 1
  | .instructionState => 2
  | .renderCache => 3
  | .samplerCache => 4
  | .displayOverlay => 5
  | .media => 6
  | .uController => 7
  | .coherentReadWrite => 8
  | .hdc => 9

/-- Reads a `Client`; other codes are refused. -/
def Client.get : List Byte → Option (Client × List Byte)
  | [] => none
  | b :: r =>
    if b == 0 then some (.commandStream, r)
    else if b == 1 then some (.vertexStream, r)
    else if b == 2 then some (.instructionState, r)
    else if b == 3 then some (.renderCache, r)
    else if b == 4 then some (.samplerCache, r)
    else if b == 5 then some (.displayOverlay, r)
    else if b == 6 then some (.media, r)
    else if b == 7 then some (.uController, r)
    else if b == 8 then some (.coherentReadWrite, r)
    else if b == 9 then some (.hdc, r)
    else none

/-- Writes a `Client`. -/
def Client.put (x : Client) : List Byte := [x.code]

/-- The byte that stands for a value of `AccessKind`. -/
def AccessKind.code : AccessKind → Byte
  | .read => 0
  | .write => 1
  | .atomic => 2

/-- Reads a `AccessKind`; other codes are refused. -/
def AccessKind.get : List Byte → Option (AccessKind × List Byte)
  | [] => none
  | b :: r =>
    if b == 0 then some (.read, r)
    else if b == 1 then some (.write, r)
    else if b == 2 then some (.atomic, r)
    else none

/-- Writes a `AccessKind`. -/
def AccessKind.put (x : AccessKind) : List Byte := [x.code]

/-- The byte that stands for a value of `ElemBits`. -/
def ElemBits.code : ElemBits → Byte
  | .e8 => 0
  | .e16 => 1
  | .e32 => 2
  | .e64 => 3
  | .e128 => 4
  | .e24 => 5
  | .e48 => 6
  | .e96 => 7

/-- Reads a `ElemBits`; other codes are refused. -/
def ElemBits.get : List Byte → Option (ElemBits × List Byte)
  | [] => none
  | b :: r =>
    if b == 0 then some (.e8, r)
    else if b == 1 then some (.e16, r)
    else if b == 2 then some (.e32, r)
    else if b == 3 then some (.e64, r)
    else if b == 4 then some (.e128, r)
    else if b == 5 then some (.e24, r)
    else if b == 6 then some (.e48, r)
    else if b == 7 then some (.e96, r)
    else none

/-- Writes a `ElemBits`. -/
def ElemBits.put (x : ElemBits) : List Byte := [x.code]

/-- The byte that stands for a value of `Samples`. -/
def Samples.code : Samples → Byte
  | .s1 => 0
  | .s2 => 1
  | .s4 => 2
  | .s8 => 3
  | .s16 => 4

/-- Reads a `Samples`; other codes are refused. -/
def Samples.get : List Byte → Option (Samples × List Byte)
  | [] => none
  | b :: r =>
    if b == 0 then some (.s1, r)
    else if b == 1 then some (.s2, r)
    else if b == 2 then some (.s4, r)
    else if b == 3 then some (.s8, r)
    else if b == 4 then some (.s16, r)
    else none

/-- Writes a `Samples`. -/
def Samples.put (x : Samples) : List Byte := [x.code]

/-- Reads a `AtomicArgs`, field after field. -/
def AtomicArgs.get (r : List Byte) : Option (AtomicArgs × List Byte) := do
  let (eng, r) ← Engine.get r
  let (pa, r) ← getQWord r
  pure (⟨eng, pa⟩, r)

/-- Writes a `AtomicArgs`, field after field. -/
def AtomicArgs.put (x : AtomicArgs) : List Byte :=
  x.eng.put ++ leBytes x.pa 8

/-- Reads a `Access`, field after field. -/
def Access.get (r : List Byte) : Option (Access × List Byte) := do
  let (eng, r) ← Engine.get r
  let (client, r) ← Client.get r
  let (kind, r) ← AccessKind.get r
  let (ifetch, r) ← getBool r
  let (useGgtt, r) ← getBool r
  let (coherent, r) ← getBool r
  let (faultable, r) ← getBool r
  let (tileX, r) ← getBool r
  let (gttControl, r) ← getBool r
  let (mocs, r) ← (getSmall 6) r
  let (size, r) ← (getSmall 3) r
  let (va, r) ← getQWord r
  let (data, r) ← getQWord r
  pure (⟨eng, client, kind, ifetch, useGgtt, coherent, faultable, tileX, gttControl, mocs, size, va, data⟩, r)

/-- Writes a `Access`, field after field. -/
def Access.put (x : Access) : List Byte :=
  x.eng.put ++ x.client.put ++ x.kind.put ++ putBool x.ifetch ++ putBool x.useGgtt ++ putBool x.coherent ++ putBool x.faultable ++ putBool x.tileX ++ putBool x.gttControl ++ putSmall x.mocs ++ putSmall x.size ++ leBytes x.va 8 ++ leBytes x.data 8

/-- Reads a `DescArgs`, field after field. -/
def DescArgs.get (r : List Byte) : Option (DescArgs × List Byte) := do
  let (eng, r) ← Engine.get r
  let (pdp0, r) ← getQWord r
  let (pdp1, r) ← getQWord r
  let (pdp2, r) ← getQWord r
  let (pdp3, r) ← getQWord r
  pure (⟨eng, pdp0, pdp1, pdp2, pdp3⟩, r)

/-- Writes a `DescArgs`, field after field. -/
def DescArgs.put (x : DescArgs) : List Byte :=
  x.eng.put ++ leBytes x.pdp0 8 ++ leBytes x.pdp1 8 ++ leBytes x.pdp2 8 ++ leBytes x.pdp3 8

/-- Reads a `FaultArgs`, field after field. -/
def FaultArgs.get (r : List Byte) : Option (FaultArgs × List Byte) := do
  let (acc, r) ← Access.get r
  let (code, r) ← (getSmall 2) r
  let (level, r) ← (getSmall 3) r
  pure (⟨acc, code, level⟩, r)

/-- Writes a `FaultArgs`, field after field. -/
def FaultArgs.put (x : FaultArgs) : List Byte :=
  x.acc.put ++ putSmall x.code ++ putSmall x.level

/-- Reads a `GttUpdateArgs`, field after field. -/
def GttUpdateArgs.get (r : List Byte) : Option (GttUpdateArgs × List Byte) := do
  let (entry, r) ← getQWord r
  pure (⟨entry⟩, r)

/-- Writes a `GttUpdateArgs`, field after field. -/
def GttUpdateArgs.put (x : GttUpdateArgs) : List Byte :=
  leBytes x.entry 8

/-- Reads a `HdcId`, field after field. -/
def HdcId.get (r : List Byte) : Option (HdcId × List Byte) := do
  let (slice, r) ← (getSmall 2) r
  let (hdc, r) ← (getSmall 2) r
  pure (⟨slice, hdc⟩, r)

/-- Writes a `HdcId`, field after field. -/
def HdcId.put (x : HdcId) : List Byte :=
  putSmall x.slice ++ putSmall x.hdc

/-- Reads a `HdcRequest`, field after field. -/
def HdcRequest.get (r : List Byte) : Option (HdcRequest × List Byte) := do
  let (valid, r) ← getBool r
  let (src, r) ← HdcId.get r
  let (vaPage, r) ← getQWord r
  let (isWrite, r) ← getBool r
  let (tracking, r) ← getByte r
  let (faultable, r) ← getBool r
  pure (⟨valid, src, vaPage, isWrite, tracking, faultable⟩, r)

/-- Writes a `HdcRequest`, field after field. -/
def HdcRequest.put (x : HdcRequest) : List Byte :=
  putBool x.valid ++ x.src.put ++ leBytes x.vaPage 8 ++ putBool x.isWrite ++ [x.tracking] ++ putBool x.faultable

/-- Reads a `HdcAck`, field after field. -/
def HdcAck.get (r : List Byte) : Option (HdcAck × List Byte) := do
  let (valid, r) ← getBool r
  let (src, r) ← HdcId.get r
  pure (⟨valid, src⟩, r)

/-- Writes a `HdcAck`, field after field. -/
def HdcAck.put (x : HdcAck) : List Byte := putBool x.valid ++ x.src.put

/-- The byte of a `ResponseKind`. -/
def ResponseKind.code : ResponseKind → Byte
  | .translation => 0
  | .null => 1
  | .invalid => 2

/-- Reads a `ResponseKind`. -/
def ResponseKind.get (r : List Byte) : Option (ResponseKind × List Byte) :=
  match r with
  | [] => none
  | b :: r =>
    if b == 0 then some (.translation, r)
    else if b == 1 then some (.null, r)
    else if b == 2 then some (.invalid, r)
    else none

/-- Writes a `ResponseKind`. -/
def ResponseKind.put (x : ResponseKind) : List Byte := [x.code]

/-- Reads a `GamResponse`, field after field. -/
def GamResponse.get (r : List Byte) : Option (GamResponse × List Byte) := do
  let (valid, r) ← getBool r
  let (dst, r) ← HdcId.get r
  let (pa, r) ← getWord r
  let (isWrite, r) ← getBool r
  let (dirty, r) ← getBool r
  let (code, r) ← (getSmall 2) r
  let (memType, r) ← (getSmall 3) r
  let (tracking, r) ← getByte r
  let (faultMode, r) ← (getSmall 2) r
  let (kind, r) ← ResponseKind.get r
  pure (⟨valid, dst, pa, isWrite, dirty, code, memType, tracking, faultMode, kind⟩, r)

/-- Writes a `GamResponse`, field after field. -/
def GamResponse.put (x : GamResponse) : List Byte :=
  putBool x.valid ++ x.dst.put ++ leBytes x.pa 4 ++ putBool x.isWrite ++ putBool x.dirty ++ putSmall x.code ++ putSmall x.memType ++ [x.tracking] ++
    putSmall x.faultMode ++ x.kind.put

/-- Reads a `TypeArgs`, field after field. -/
def TypeArgs.get (r : List Byte) : Option (TypeArgs × List Byte) := do
  let (isWrite, r) ← getBool r
  pure (⟨isWrite⟩, r)

/-- Writes a `TypeArgs`, field after field. -/
def TypeArgs.put (x : TypeArgs) : List Byte :=
  putBool x.isWrite

/-- Reads a `FormatFlags`, field after field. -/
def FormatFlags.get (r : List Byte) : Option (FormatFlags × List Byte) := do
  let (signed, r) ← getBool r
  let (srgb, r) ← getBool r
  pure (⟨signed, srgb⟩, r)

/-- Writes a `FormatFlags`, field after field. -/
def FormatFlags.put (x : FormatFlags) : List Byte :=
  putBool x.signed ++ putBool x.srgb

/-- Reads a `TileArgs`, field after field. -/
def TileArgs.get (r : List Byte) : Option (TileArgs × List Byte) := do
  let (u, r) ← getWord r
  let (v, r) ← getWord r
  let (pitch, r) ← getWord r
  let (base, r) ← getQWord r
  let (elem, r) ← ElemBits.get r
  let (samples, r) ← Samples.get r
  let (ss, r) ← getByte r
  pure (⟨u, v, pitch, base, elem, samples, ss⟩, r)

/-- Writes a `TileArgs`, field after field. -/
def TileArgs.put (x : TileArgs) : List Byte :=
  leBytes x.u 4 ++ leBytes x.v 4 ++ leBytes x.pitch 4 ++ leBytes x.base 8 ++ x.elem.put ++ x.samples.put ++ [x.ss]

/-- Reads a `MocsIndex`, field after field. -/
def MocsIndex.get (r : List Byte) : Option (MocsIndex × List Byte) := do
  let (index, r) ← (getSmall 6) r
  pure (⟨index⟩, r)

/-- Writes a `MocsIndex`, field after field. -/
def MocsIndex.put (x : MocsIndex) : List Byte :=
  putSmall x.index

/-- Reads a `MocsSlot`, field after field. -/
def MocsSlot.get (r : List Byte) : Option (MocsSlot × List Byte) := do
  let (block, r) ← (getSmall 3) r
  let (index, r) ← (getSmall 6) r
  pure (⟨block, index⟩, r)

/-- Writes a `MocsSlot`, field after field. -/
def MocsSlot.put (x : MocsSlot) : List Byte :=
  putSmall x.block ++ putSmall x.index

/-- The object that the bytes at a port are, and the bytes after it; operands not yet checked against each other. -/
def decodeObject (p : Port) (bs : List Byte) : Except DecodeError (Instr × List Byte) :=
  match p with
  | .atomicPage => do
      let (o, r) ← operand getByte bs
      let (a, r) ← operand AtomicArgs.get r
      if o == 0xC0 then pure (.atomicPageUpdate0000 a, r)
      else if o == 0xC1 then pure (.atomicPageUpdate0001 a, r)
      else if o == 0xC2 then pure (.atomicPageUpdate0010 a, r)
      else if o == 0xC3 then pure (.atomicPageUpdate0011 a, r)
      else if o == 0xC4 then pure (.atomicPageUpdate0100 a, r)
      else if o == 0xC5 then pure (.atomicPageUpdate0101 a, r)
      else if o == 0xC6 then pure (.atomicPageUpdate0110 a, r)
      else if o == 0xC7 then pure (.atomicPageUpdate0111 a, r)
      else if o == 0xC8 then pure (.atomicPageUpdate1000 a, r)
      else if o == 0xC9 then pure (.atomicPageUpdate1001 a, r)
      else if o == 0xCA then pure (.atomicPageUpdate1010 a, r)
      else if o == 0xCB then pure (.atomicPageUpdate1011 a, r)
      else if o == 0xCC then pure (.atomicPageUpdate1100 a, r)
      else if o == 0xCD then pure (.atomicPageUpdate1101 a, r)
      else if o == 0xCE then pure (.atomicPageUpdate1110 a, r)
      else if o == 0xCF then pure (.atomicPageUpdate1111 a, r)
      else throw .unknownAtomicOpcode
  | .atomicA => do
      let (o, r) ← operand getByte bs
      let (a, r) ← operand AtomicArgs.get r
      if o == 0 then pure (.atomicAUpdate000 a, r)
      else if o == 1 then pure (.atomicAUpdate001 a, r)
      else if o == 2 then pure (.atomicAUpdate010 a, r)
      else if o == 3 then pure (.atomicAUpdate011 a, r)
      else if o == 4 then pure (.atomicAUpdate100 a, r)
      else if o == 5 then pure (.atomicAdUpdate101 a, r)
      else if o == 6 then pure (.atomicAdUpdate110 a, r)
      else if o == 7 then pure (.atomicAdUpdate111 a, r)
      else throw .unknownAtomicCase
  | .ctxMode => do
      let (o, r) ← operand getQWord bs
      let (a, r) ← operand Access.get r
      if walkMode o == .ggtt then pure (.ctxLegacyGgtt o a, r)
      else if walkMode o == .ppgtt32 then pure (.ctxLegacyPpgtt32 o a, r)
      else if walkMode o == .ppgtt48 then pure (.ctxLegacyPpgtt48 o a, r)
      else pure (.ctxAdvanced o a, r)
  | .elementDescriptor => do
      let (o, r) ← operand getQWord bs
      let (a, r) ← operand DescArgs.get r
      pure (.elementDescriptor o a, r)
  | .faultModel => do
      let (o, r) ← operand getQWord bs
      let (a, r) ← operand FaultArgs.get r
      if field o 6 2 == 0 then pure (.faultModelHang o a, r)
      else if field o 6 2 == 1 then pure (.faultModelHalt o a, r)
      else if field o 6 2 == 2 then pure (.faultModelStreamSwitch o a, r)
      else pure (.faultModelReserved o a, r)
  | .ia32ePml4 => do
      let (o, r) ← operand getQWord bs
      let (a, r) ← operand Access.get r
      if matchesPat o 0x81 0x1 then pure (.ia32ePml4e o a, r)
      else throw (.entryFault a 4)
  | .ia32ePdp => do
      let (o, r) ← operand getQWord bs
      let (a, r) ← operand Access.get r
      if matchesPat o 0x81 0x1 then pure (.ia32ePdpePd o a, r)
      else if matchesPat o 0x81 0x81 then pure (.ia32ePdpe1gb o a, r)
      else throw (.entryFault a 3)
  | .ia32ePd => do
      let (o, r) ← operand getQWord bs
      let (a, r) ← operand Access.get r
      if matchesPat o 0x81 0x1 then pure (.ia32ePdePt o a, r)
      else if matchesPat o 0x81 0x81 then pure (.ia32ePde2mb o a, r)
      else throw (.entryFault a 2)
  | .ia32ePt64 => do
      let (o, r) ← operand getQWord bs
      let (a, r) ← operand Access.get r
      if matchesPat o 0x1 0x1 then pure (.ia32ePte64kb o a, r)
      else throw (.entryFault a 1)
  | .ia32ePt4 => do
      let (o, r) ← operand getQWord bs
      let (a, r) ← operand Access.get r
      if matchesPat o 0x1 0x1 then pure (.ia32ePte4kb o a, r)
      else throw (.entryFault a 1)
  | .legacy32Pd => do
      let (o, r) ← operand getQWord bs
      let (a, r) ← operand Access.get r
      if matchesPat o 0x1 0x1 then pure (.legacy32Pde o a, r)
      else throw (.entryFault a 2)
  | .legacyPt64 => do
      let (o, r) ← operand getQWord bs
      let (a, r) ← operand Access.get r
      if matchesPat o 0x1 0x1 then pure (.legacyPte64kb o a, r)
      else throw (.entryFault a 1)
  | .legacyPt4 => do
      let (o, r) ← operand getQWord bs
      let (a, r) ← operand Access.get r
      if matchesPat o 0x1 0x1 then pure (.legacyPte4kb o a, r)
      else throw (.entryFault a 1)
  | .legacyPml4 => do
      let (o, r) ← operand getQWord bs
      let (a, r) ← operand Access.get r
      if matchesPat o 0x1 0x1 then pure (.legacy64Pml4e o a, r)
      else throw (.entryFault a 4)
  | .legacyPdp => do
      let (o, r) ← operand getQWord bs
      let (a, r) ← operand Access.get r
      if matchesPat o 0x81 0x1 then pure (.legacy64PdpePd o a, r)
      else if matchesPat o 0x81 0x81 then pure (.legacy64Pdpe1gb o a, r)
      else throw (.entryFault a 3)
  | .legacyPd => do
      let (o, r) ← operand getQWord bs
      let (a, r) ← operand Access.get r
      if matchesPat o 0x81 0x1 then pure (.legacy64PdePt o a, r)
      else if matchesPat o 0x81 0x81 then pure (.legacy64Pde2mb o a, r)
      else throw (.entryFault a 2)
  | .ggttPte => do
      let (o, r) ← operand getQWord bs
      let (a, r) ← operand Access.get r
      if matchesPat o 0x1 0x1 then pure (.ggttPte o a, r)
      else throw (.entryFault a 1)
  | .trttL3 => do
      let (o, r) ← operand getQWord bs
      let (a, r) ← operand Access.get r
      pure (.trttL3e o a, r)
  | .trttL2 => do
      let (o, r) ← operand getQWord bs
      let (a, r) ← operand Access.get r
      pure (.trttL2e o a, r)
  | .trttL1 => do
      let (o, r) ← operand getWord bs
      let (a, r) ← operand Access.get r
      pure (.trttL1e o a, r)
  | .va4Level => do
      let (o, r) ← operand getBits48 bs
      pure (.vaIndex4level o, r)
  | .vaPpgtt32 => do
      let (o, r) ← operand getWord bs
      pure (.vaIndexPpgtt32 o, r)
  | .vaGgtt => do
      let (o, r) ← operand getWord bs
      pure (.vaIndexGgtt o, r)
  | .vaTrtt => do
      let (o, r) ← operand getBits48 bs
      pure (.vaIndexTrtt o, r)
  | .miUpdateGtt => do
      let (o, r) ← operand getWord bs
      let (a, r) ← operand GttUpdateArgs.get r
      pure (.miUpdateGttAddr o a, r)
  | .hdcToGam => do
      let (o, r) ← operand getByte bs
      if o == 0 then (do let (a, r) ← operand HdcRequest.get r; pure (.hdcPageRequest a, r))
      else if o == 1 then (do let (a, r) ← operand HdcAck.get r; pure (.hdcTlbInvResponse a, r))
      else throw .unknownHdcOpcode
  | .gamToHdc => do
      -- the operand byte of an invalidation broadcast is 1 where its Valid bit is 0 (R197; log entry 5)
      let (o, r) ← operand getByte bs
      if o == 0 then (do let (a, r) ← operand GamResponse.get r; pure (.gamPageResponse a, r))
      else if o == 2 then (do let (off, r) ← operand getBool r; if off then throw .notValid else pure (.gamTlbInvStart, r))
      else if o == 3 then (do let (off, r) ← operand getBool r; if off then throw .notValid else pure (.gamTlbInvEnd, r))
      else if o == 1 then pure (.gamResponseOpcodeReserved, r)
      else throw .unknownGamOpcode
  | .faultCode => do
      let (o, r) ← operand getByte bs
      let (a, r) ← operand FaultArgs.get r
      if o == 0 then pure (.faultCodeNone a, r)
      else if o == 1 then pure (.faultCodeNotPresentOrReserved a, r)
      else if o == 2 then pure (.faultCodePrivilege a, r)
      else if o == 3 then pure (.faultCodeWritePermission a, r)
      else throw .unknownFaultCode
  | .memType => do
      let (o, r) ← operand getByte bs
      let (a, r) ← operand TypeArgs.get r
      if o == 0 then pure (.memtypeUc a, r)
      else if o == 1 then pure (.memtypeWc a, r)
      else if o == 4 then pure (.memtypeWt a, r)
      else if o == 5 then pure (.memtypeWp a, r)
      else if o == 6 then pure (.memtypeWb a, r)
      else if o == 2 then pure (.memtypeReserved2 a, r)
      else if o == 3 then pure (.memtypeReserved3 a, r)
      else if o == 7 then pure (.memtypeReserved7 a, r)
      else throw .unknownMemType
  | .etc1 => do
      let (o, r) ← operand getQWord bs
      let (a, r) ← operand FormatFlags.get r
      if !bit o 25 then pure (.etc1Individual o a, r)
      else pure (.etc1Differential o a, r)
  | .etc2 => do
      let (o, r) ← operand getQWord bs
      let (a, r) ← operand FormatFlags.get r
      if etc2Mode o == .t then pure (.etc2T o a, r)
      else if etc2Mode o == .h then pure (.etc2H o a, r)
      else if etc2Mode o == .planar then pure (.etc2Planar o a, r)
      else if bit o 25 then pure (.etc1Differential o a, r)
      else pure (.etc1Individual o a, r)
  | .etc2Pta => do
      let (o, r) ← operand getQWord bs
      let (a, r) ← operand FormatFlags.get r
      pure (.etc2Rgb8Pta o a, r)
  | .eacR11 => do
      let (o, r) ← operand getQWord bs
      let (a, r) ← operand FormatFlags.get r
      pure (.eacR11 o a, r)
  | .etc2EacRgba8 => do
      let (o, r) ← operand getBlock bs
      let (a, r) ← operand FormatFlags.get r
      pure (.etc2EacRgba8 o a, r)
  | .eacRg11 => do
      let (o, r) ← operand getBlock bs
      let (a, r) ← operand FormatFlags.get r
      pure (.eacRg11 o a, r)
  | .fxt1 => do
      let (o, r) ← operand getBlock bs
      let (a, r) ← operand FormatFlags.get r
      if matchesPat o 0xc0000000000000000000000000000000 0x00000000000000000000000000000000 then pure (.fxt1CcHi o a, r)
      else if matchesPat o 0xe0000000000000000000000000000000 0x40000000000000000000000000000000 then pure (.fxt1CcChroma o a, r)
      else if matchesPat o 0xe0000000000000000000000000000000 0x60000000000000000000000000000000 then pure (.fxt1CcAlpha o a, r)
      else pure (.fxt1CcMixed o a, r)
  | .dxt1 => do
      let (o, r) ← operand getQWord bs
      let (a, r) ← operand FormatFlags.get r
      if decide (field o 0 16 > field o 16 16) then pure (.dxt1FourColour o a, r)
      else pure (.dxt1ThreeColourTransparent o a, r)
  | .dxt1Rgb => do
      let (o, r) ← operand getQWord bs
      let (a, r) ← operand FormatFlags.get r
      pure (.dxt1Rgb o a, r)
  | .dxt23 => do
      let (o, r) ← operand getBlock bs
      let (a, r) ← operand FormatFlags.get r
      pure (.dxt2Dxt3ExplicitAlpha o a, r)
  | .dxt45 => do
      let (o, r) ← operand getBlock bs
      let (a, r) ← operand FormatFlags.get r
      pure (.dxt4Dxt5InterpolatedAlpha o a, r)
  | .bc4 => do
      let (o, r) ← operand getQWord bs
      let (a, r) ← operand FormatFlags.get r
      pure (.bc4 o a, r)
  | .bc5 => do
      let (o, r) ← operand getBlock bs
      let (a, r) ← operand FormatFlags.get r
      pure (.bc5 o a, r)
  | .bc6h => do
      let (o, r) ← operand getBlock bs
      let (a, r) ← operand FormatFlags.get r
      if matchesPat o 0x3 0x0 then pure (.bc6hMode0 o a, r)
      else if matchesPat o 0x3 0x1 then pure (.bc6hMode1 o a, r)
      else if matchesPat o 0x1f 0x2 then pure (.bc6hMode2 o a, r)
      else if matchesPat o 0x1f 0x6 then pure (.bc6hMode3 o a, r)
      else if matchesPat o 0x1f 0xa then pure (.bc6hMode4 o a, r)
      else if matchesPat o 0x1f 0xe then pure (.bc6hMode5 o a, r)
      else if matchesPat o 0x1f 0x12 then pure (.bc6hMode6 o a, r)
      else if matchesPat o 0x1f 0x16 then pure (.bc6hMode7 o a, r)
      else if matchesPat o 0x1f 0x1a then pure (.bc6hMode8 o a, r)
      else if matchesPat o 0x1f 0x1e then pure (.bc6hMode9 o a, r)
      else if matchesPat o 0x1f 0x3 then pure (.bc6hMode10 o a, r)
      else if matchesPat o 0x1f 0x7 then pure (.bc6hMode11 o a, r)
      else if matchesPat o 0x1f 0xb then pure (.bc6hMode12 o a, r)
      else if matchesPat o 0x1f 0xf then pure (.bc6hMode13 o a, r)
      else if matchesPat o 0x1f 0x13 then pure (.bc6hUndefined10011 o a, r)
      else if matchesPat o 0x1f 0x17 then pure (.bc6hUndefined10111 o a, r)
      else if matchesPat o 0x1f 0x1b then pure (.bc6hUndefined11011 o a, r)
      else pure (.bc6hUndefined11111 o a, r)
  | .bc7 => do
      let (o, r) ← operand getBlock bs
      let (a, r) ← operand FormatFlags.get r
      if matchesPat o 0x1 0x1 then pure (.bc7Mode0 o a, r)
      else if matchesPat o 0x3 0x2 then pure (.bc7Mode1 o a, r)
      else if matchesPat o 0x7 0x4 then pure (.bc7Mode2 o a, r)
      else if matchesPat o 0xf 0x8 then pure (.bc7Mode3 o a, r)
      else if matchesPat o 0x1f 0x10 then pure (.bc7Mode4 o a, r)
      else if matchesPat o 0x3f 0x20 then pure (.bc7Mode5 o a, r)
      else if matchesPat o 0x7f 0x40 then pure (.bc7Mode6 o a, r)
      else if matchesPat o 0xff 0x80 then pure (.bc7Mode7 o a, r)
      else pure (.bc7Undefined o a, r)
  | .astcMode => do
      let (o, r) ← operand getBlock bs
      if astcClass (astcModeBits o) == .voidExtent then pure (.astcVoidExtent2d o, r)
      else if astcClass (astcModeBits o) == .reservedA then pure (.astcReservedModeA o, r)
      else if astcClass (astcModeBits o) == .reservedB then pure (.astcReservedModeB o, r)
      else if astcClass (astcModeBits o) == .wBp4HAp2 then pure (.astcModeWBp4HAp2 o, r)
      else if astcClass (astcModeBits o) == .wBp8HAp2 then pure (.astcModeWBp8HAp2 o, r)
      else if astcClass (astcModeBits o) == .wAp2HBp8 then pure (.astcModeWAp2HBp8 o, r)
      else if astcClass (astcModeBits o) == .wAp2HBp6 then pure (.astcModeWAp2HBp6 o, r)
      else if astcClass (astcModeBits o) == .wBp2HAp2 then pure (.astcModeWBp2HAp2 o, r)
      else if astcClass (astcModeBits o) == .w12HAp2 then pure (.astcModeW12HAp2 o, r)
      else if astcClass (astcModeBits o) == .wAp2H12 then pure (.astcModeWAp2H12 o, r)
      else if astcClass (astcModeBits o) == .w6H10 then pure (.astcModeW6H10 o, r)
      else if astcClass (astcModeBits o) == .w10H6 then pure (.astcModeW10H6 o, r)
      else pure (.astcModeWAp6HBp6 o, r)
  | .astcCem => do
      let (o, r) ← operand getBlock bs
      if field o 13 4 == 0 then pure (.astcCem0 o, r)
      else if field o 13 4 == 1 then pure (.astcCem1 o, r)
      else if field o 13 4 == 2 then pure (.astcCem2 o, r)
      else if field o 13 4 == 3 then pure (.astcCem3 o, r)
      else if field o 13 4 == 4 then pure (.astcCem4 o, r)
      else if field o 13 4 == 5 then pure (.astcCem5 o, r)
      else if field o 13 4 == 6 then pure (.astcCem6 o, r)
      else if field o 13 4 == 7 then pure (.astcCem7 o, r)
      else if field o 13 4 == 8 then pure (.astcCem8 o, r)
      else if field o 13 4 == 9 then pure (.astcCem9 o, r)
      else if field o 13 4 == 10 then pure (.astcCem10 o, r)
      else if field o 13 4 == 11 then pure (.astcCem11 o, r)
      else if field o 13 4 == 12 then pure (.astcCem12 o, r)
      else if field o 13 4 == 13 then pure (.astcCem13 o, r)
      else if field o 13 4 == 14 then pure (.astcCem14 o, r)
      else pure (.astcCem15 o, r)
  | .astcFormat => do
      let (o, r) ← operand getBits16 bs
      if o == 0x000 then pure (.astcLdr2d4x4U8srgb, r)
      else if o == 0x008 then pure (.astcLdr2d5x4U8srgb, r)
      else if o == 0x009 then pure (.astcLdr2d5x5U8srgb, r)
      else if o == 0x011 then pure (.astcLdr2d6x5U8srgb, r)
      else if o == 0x012 then pure (.astcLdr2d6x6U8srgb, r)
      else if o == 0x021 then pure (.astcLdr2d8x5U8srgb, r)
      else if o == 0x022 then pure (.astcLdr2d8x6U8srgb, r)
      else if o == 0x031 then pure (.astcLdr2d10x5U8srgb, r)
      else if o == 0x032 then pure (.astcLdr2d10x6U8srgb, r)
      else if o == 0x024 then pure (.astcLdr2d8x8U8srgb, r)
      else if o == 0x034 then pure (.astcLdr2d10x8U8srgb, r)
      else if o == 0x036 then pure (.astcLdr2d10x10U8srgb, r)
      else if o == 0x03e then pure (.astcLdr2d12x10U8srgb, r)
      else if o == 0x03f then pure (.astcLdr2d12x12U8srgb, r)
      else if o == 0x040 then pure (.astcLdr2d4x4Flt16, r)
      else if o == 0x048 then pure (.astcLdr2d5x4Flt16, r)
      else if o == 0x049 then pure (.astcLdr2d5x5Flt16, r)
      else if o == 0x051 then pure (.astcLdr2d6x5Flt16, r)
      else if o == 0x052 then pure (.astcLdr2d6x6Flt16, r)
      else if o == 0x061 then pure (.astcLdr2d8x5Flt16, r)
      else if o == 0x062 then pure (.astcLdr2d8x6Flt16, r)
      else if o == 0x071 then pure (.astcLdr2d10x5Flt16, r)
      else if o == 0x072 then pure (.astcLdr2d10x6Flt16, r)
      else if o == 0x064 then pure (.astcLdr2d8x8Flt16, r)
      else if o == 0x074 then pure (.astcLdr2d10x8Flt16, r)
      else if o == 0x076 then pure (.astcLdr2d10x10Flt16, r)
      else if o == 0x07e then pure (.astcLdr2d12x10Flt16, r)
      else if o == 0x07f then pure (.astcLdr2d12x12Flt16, r)
      else if o == 0x140 then pure (.astcFull2d4x4Flt16, r)
      else if o == 0x148 then pure (.astcFull2d5x4Flt16, r)
      else if o == 0x149 then pure (.astcFull2d5x5Flt16, r)
      else if o == 0x151 then pure (.astcFull2d6x5Flt16, r)
      else if o == 0x152 then pure (.astcFull2d6x6Flt16, r)
      else if o == 0x161 then pure (.astcFull2d8x5Flt16, r)
      else if o == 0x162 then pure (.astcFull2d8x6Flt16, r)
      else if o == 0x171 then pure (.astcFull2d10x5Flt16, r)
      else if o == 0x172 then pure (.astcFull2d10x6Flt16, r)
      else if o == 0x164 then pure (.astcFull2d8x8Flt16, r)
      else if o == 0x174 then pure (.astcFull2d10x8Flt16, r)
      else if o == 0x176 then pure (.astcFull2d10x10Flt16, r)
      else if o == 0x17e then pure (.astcFull2d12x10Flt16, r)
      else if o == 0x17f then pure (.astcFull2d12x12Flt16, r)
      else throw .unknownAstcFormat
  | .tile .linear => do
      let (a, r) ← operand TileArgs.get bs
      pure (.tileLinear a, r)
  | .tile .x => do
      let (a, r) ← operand TileArgs.get bs
      pure (.tileX a, r)
  | .tile .y => do
      let (a, r) ← operand TileArgs.get bs
      pure (.tileY a, r)
  | .tile .w => do
      let (a, r) ← operand TileArgs.get bs
      pure (.tileW a, r)
  | .tile .yf => do
      let (a, r) ← operand TileArgs.get bs
      pure (.tileYf a, r)
  | .tile .ys => do
      let (a, r) ← operand TileArgs.get bs
      pure (.tileYs a, r)
  | .messageToGam .rcs => do
      let (o, r) ← operand getWord bs
      if messageBit o 0 then pure (.msgRcsContextAvailable o, r)
      else if !messageBit o 0 && messageBit o 1 then pure (.msgRcsContextLaunched o, r)
      else throw .maskedOff
  | .messageToCs .rcs => do
      let (o, r) ← operand getWord bs
      if messageBit o 0 then pure (.msgRcsContextReceiveReady o, r)
      else if !messageBit o 0 && messageBit o 1 then pure (.msgRcsContextConfirmed o, r)
      else throw .maskedOff
  | .messageToGam .bcs => do
      let (o, r) ← operand getWord bs
      if messageBit o 0 then pure (.msgBcsContextAvailable o, r)
      else if !messageBit o 0 && messageBit o 1 then pure (.msgBcsContextLaunched o, r)
      else throw .maskedOff
  | .messageToCs .bcs => do
      let (o, r) ← operand getWord bs
      if messageBit o 0 then pure (.msgBcsContextReceiveReady o, r)
      else if !messageBit o 0 && messageBit o 1 then pure (.msgBcsContextConfirmed o, r)
      else throw .maskedOff
  | .messageToGam .vecs => do
      let (o, r) ← operand getWord bs
      if messageBit o 0 then pure (.msgVecsContextAvailable o, r)
      else if !messageBit o 0 && messageBit o 1 then pure (.msgVecsContextLaunched o, r)
      else throw .maskedOff
  | .messageToCs .vecs => do
      let (o, r) ← operand getWord bs
      if messageBit o 0 then pure (.msgVecsContextReceiveReady o, r)
      else if !messageBit o 0 && messageBit o 1 then pure (.msgVecsContextConfirmed o, r)
      else throw .maskedOff
  | .messageToGam .vcs0 => do
      let (o, r) ← operand getWord bs
      if messageBit o 0 then pure (.msgVcs0ContextAvailable o, r)
      else if !messageBit o 0 && messageBit o 1 then pure (.msgVcs0ContextLaunched o, r)
      else throw .maskedOff
  | .messageToCs .vcs0 => do
      let (o, r) ← operand getWord bs
      if messageBit o 0 then pure (.msgVcs0ContextReceiveReady o, r)
      else if !messageBit o 0 && messageBit o 1 then pure (.msgVcs0ContextConfirmed o, r)
      else throw .maskedOff
  | .messageToGam .vcs1 => do
      let (o, r) ← operand getWord bs
      if messageBit o 0 then pure (.msgVcs1ContextAvailable o, r)
      else if !messageBit o 0 && messageBit o 1 then pure (.msgVcs1ContextLaunched o, r)
      else throw .maskedOff
  | .messageToCs .vcs1 => do
      let (o, r) ← operand getWord bs
      if messageBit o 0 then pure (.msgVcs1ContextReceiveReady o, r)
      else if !messageBit o 0 && messageBit o 1 then pure (.msgVcs1ContextConfirmed o, r)
      else throw .maskedOff
  | .lncfcmocs => do
      let (o, r) ← operand getBits16 bs
      let (a, r) ← operand MocsIndex.get r
      pure (.lncfcmocsEntry o a, r)
  | .gamMocs => do
      let (o, r) ← operand getWord bs
      let (a, r) ← operand MocsSlot.get r
      pure (.gamMocsEntry o a, r)

/-- The decoder: the object at a port, refused by name when its operands are not those of a well-formed object. -/
def decode (p : Port) (bs : List Byte) : Except DecodeError (Instr × List Byte) := do
  let (i, r) ← decodeObject p bs
  if i.wf then pure (i, r) else throw .illFormedOperands

/-- The port at which an object arrives. -/
def Instr.port : Instr → Port
  | .atomicPageUpdate0000 _ => .atomicPage
  | .atomicPageUpdate0001 _ => .atomicPage
  | .atomicPageUpdate0010 _ => .atomicPage
  | .atomicPageUpdate0011 _ => .atomicPage
  | .atomicPageUpdate0100 _ => .atomicPage
  | .atomicPageUpdate0101 _ => .atomicPage
  | .atomicPageUpdate0110 _ => .atomicPage
  | .atomicPageUpdate0111 _ => .atomicPage
  | .atomicPageUpdate1000 _ => .atomicPage
  | .atomicPageUpdate1001 _ => .atomicPage
  | .atomicPageUpdate1010 _ => .atomicPage
  | .atomicPageUpdate1011 _ => .atomicPage
  | .atomicPageUpdate1100 _ => .atomicPage
  | .atomicPageUpdate1101 _ => .atomicPage
  | .atomicPageUpdate1110 _ => .atomicPage
  | .atomicPageUpdate1111 _ => .atomicPage
  | .atomicAUpdate000 _ => .atomicA
  | .atomicAUpdate001 _ => .atomicA
  | .atomicAUpdate010 _ => .atomicA
  | .atomicAUpdate011 _ => .atomicA
  | .atomicAUpdate100 _ => .atomicA
  | .atomicAdUpdate101 _ => .atomicA
  | .atomicAdUpdate110 _ => .atomicA
  | .atomicAdUpdate111 _ => .atomicA
  | .ctxLegacyGgtt _ _ => .ctxMode
  | .ctxLegacyPpgtt32 _ _ => .ctxMode
  | .ctxLegacyPpgtt48 _ _ => .ctxMode
  | .ctxAdvanced _ _ => .ctxMode
  | .elementDescriptor _ _ => .elementDescriptor
  | .faultModelHang _ _ => .faultModel
  | .faultModelHalt _ _ => .faultModel
  | .faultModelStreamSwitch _ _ => .faultModel
  | .faultModelReserved _ _ => .faultModel
  | .ia32ePml4e _ _ => .ia32ePml4
  | .ia32ePdpePd _ _ => .ia32ePdp
  | .ia32ePdpe1gb _ _ => .ia32ePdp
  | .ia32ePdePt _ _ => .ia32ePd
  | .ia32ePde2mb _ _ => .ia32ePd
  | .ia32ePte64kb _ _ => .ia32ePt64
  | .ia32ePte4kb _ _ => .ia32ePt4
  | .legacy32Pde _ _ => .legacy32Pd
  | .legacyPte64kb _ _ => .legacyPt64
  | .legacyPte4kb _ _ => .legacyPt4
  | .legacy64Pml4e _ _ => .legacyPml4
  | .legacy64PdpePd _ _ => .legacyPdp
  | .legacy64Pdpe1gb _ _ => .legacyPdp
  | .legacy64PdePt _ _ => .legacyPd
  | .legacy64Pde2mb _ _ => .legacyPd
  | .ggttPte _ _ => .ggttPte
  | .trttL3e _ _ => .trttL3
  | .trttL2e _ _ => .trttL2
  | .trttL1e _ _ => .trttL1
  | .vaIndex4level _ => .va4Level
  | .vaIndexPpgtt32 _ => .vaPpgtt32
  | .vaIndexGgtt _ => .vaGgtt
  | .vaIndexTrtt _ => .vaTrtt
  | .miUpdateGttAddr _ _ => .miUpdateGtt
  | .hdcPageRequest _ => .hdcToGam
  | .hdcTlbInvResponse _ => .hdcToGam
  | .gamPageResponse _ => .gamToHdc
  | .gamTlbInvStart => .gamToHdc
  | .gamTlbInvEnd => .gamToHdc
  | .gamResponseOpcodeReserved => .gamToHdc
  | .faultCodeNone _ => .faultCode
  | .faultCodeNotPresentOrReserved _ => .faultCode
  | .faultCodePrivilege _ => .faultCode
  | .faultCodeWritePermission _ => .faultCode
  | .memtypeUc _ => .memType
  | .memtypeWc _ => .memType
  | .memtypeWt _ => .memType
  | .memtypeWp _ => .memType
  | .memtypeWb _ => .memType
  | .memtypeReserved2 _ => .memType
  | .memtypeReserved3 _ => .memType
  | .memtypeReserved7 _ => .memType
  | .etc1Individual _ _ => .etc1
  | .etc1Differential _ _ => .etc1
  | .etc2T _ _ => .etc2
  | .etc2H _ _ => .etc2
  | .etc2Planar _ _ => .etc2
  | .etc2Rgb8Pta _ _ => .etc2Pta
  | .eacR11 _ _ => .eacR11
  | .etc2EacRgba8 _ _ => .etc2EacRgba8
  | .eacRg11 _ _ => .eacRg11
  | .fxt1CcHi _ _ => .fxt1
  | .fxt1CcChroma _ _ => .fxt1
  | .fxt1CcAlpha _ _ => .fxt1
  | .fxt1CcMixed _ _ => .fxt1
  | .dxt1FourColour _ _ => .dxt1
  | .dxt1ThreeColourTransparent _ _ => .dxt1
  | .dxt1Rgb _ _ => .dxt1Rgb
  | .dxt2Dxt3ExplicitAlpha _ _ => .dxt23
  | .dxt4Dxt5InterpolatedAlpha _ _ => .dxt45
  | .bc4 _ _ => .bc4
  | .bc5 _ _ => .bc5
  | .bc6hMode0 _ _ => .bc6h
  | .bc6hMode1 _ _ => .bc6h
  | .bc6hMode2 _ _ => .bc6h
  | .bc6hMode3 _ _ => .bc6h
  | .bc6hMode4 _ _ => .bc6h
  | .bc6hMode5 _ _ => .bc6h
  | .bc6hMode6 _ _ => .bc6h
  | .bc6hMode7 _ _ => .bc6h
  | .bc6hMode8 _ _ => .bc6h
  | .bc6hMode9 _ _ => .bc6h
  | .bc6hMode10 _ _ => .bc6h
  | .bc6hMode11 _ _ => .bc6h
  | .bc6hMode12 _ _ => .bc6h
  | .bc6hMode13 _ _ => .bc6h
  | .bc6hUndefined10011 _ _ => .bc6h
  | .bc6hUndefined10111 _ _ => .bc6h
  | .bc6hUndefined11011 _ _ => .bc6h
  | .bc6hUndefined11111 _ _ => .bc6h
  | .bc7Mode0 _ _ => .bc7
  | .bc7Mode1 _ _ => .bc7
  | .bc7Mode2 _ _ => .bc7
  | .bc7Mode3 _ _ => .bc7
  | .bc7Mode4 _ _ => .bc7
  | .bc7Mode5 _ _ => .bc7
  | .bc7Mode6 _ _ => .bc7
  | .bc7Mode7 _ _ => .bc7
  | .bc7Undefined _ _ => .bc7
  | .astcVoidExtent2d _ => .astcMode
  | .astcReservedModeA _ => .astcMode
  | .astcReservedModeB _ => .astcMode
  | .astcModeWBp4HAp2 _ => .astcMode
  | .astcModeWBp8HAp2 _ => .astcMode
  | .astcModeWAp2HBp8 _ => .astcMode
  | .astcModeWAp2HBp6 _ => .astcMode
  | .astcModeWBp2HAp2 _ => .astcMode
  | .astcModeW12HAp2 _ => .astcMode
  | .astcModeWAp2H12 _ => .astcMode
  | .astcModeW6H10 _ => .astcMode
  | .astcModeW10H6 _ => .astcMode
  | .astcModeWAp6HBp6 _ => .astcMode
  | .astcCem0 _ => .astcCem
  | .astcCem1 _ => .astcCem
  | .astcCem2 _ => .astcCem
  | .astcCem3 _ => .astcCem
  | .astcCem4 _ => .astcCem
  | .astcCem5 _ => .astcCem
  | .astcCem6 _ => .astcCem
  | .astcCem7 _ => .astcCem
  | .astcCem8 _ => .astcCem
  | .astcCem9 _ => .astcCem
  | .astcCem10 _ => .astcCem
  | .astcCem11 _ => .astcCem
  | .astcCem12 _ => .astcCem
  | .astcCem13 _ => .astcCem
  | .astcCem14 _ => .astcCem
  | .astcCem15 _ => .astcCem
  | .astcLdr2d4x4U8srgb => .astcFormat
  | .astcLdr2d5x4U8srgb => .astcFormat
  | .astcLdr2d5x5U8srgb => .astcFormat
  | .astcLdr2d6x5U8srgb => .astcFormat
  | .astcLdr2d6x6U8srgb => .astcFormat
  | .astcLdr2d8x5U8srgb => .astcFormat
  | .astcLdr2d8x6U8srgb => .astcFormat
  | .astcLdr2d10x5U8srgb => .astcFormat
  | .astcLdr2d10x6U8srgb => .astcFormat
  | .astcLdr2d8x8U8srgb => .astcFormat
  | .astcLdr2d10x8U8srgb => .astcFormat
  | .astcLdr2d10x10U8srgb => .astcFormat
  | .astcLdr2d12x10U8srgb => .astcFormat
  | .astcLdr2d12x12U8srgb => .astcFormat
  | .astcLdr2d4x4Flt16 => .astcFormat
  | .astcLdr2d5x4Flt16 => .astcFormat
  | .astcLdr2d5x5Flt16 => .astcFormat
  | .astcLdr2d6x5Flt16 => .astcFormat
  | .astcLdr2d6x6Flt16 => .astcFormat
  | .astcLdr2d8x5Flt16 => .astcFormat
  | .astcLdr2d8x6Flt16 => .astcFormat
  | .astcLdr2d10x5Flt16 => .astcFormat
  | .astcLdr2d10x6Flt16 => .astcFormat
  | .astcLdr2d8x8Flt16 => .astcFormat
  | .astcLdr2d10x8Flt16 => .astcFormat
  | .astcLdr2d10x10Flt16 => .astcFormat
  | .astcLdr2d12x10Flt16 => .astcFormat
  | .astcLdr2d12x12Flt16 => .astcFormat
  | .astcFull2d4x4Flt16 => .astcFormat
  | .astcFull2d5x4Flt16 => .astcFormat
  | .astcFull2d5x5Flt16 => .astcFormat
  | .astcFull2d6x5Flt16 => .astcFormat
  | .astcFull2d6x6Flt16 => .astcFormat
  | .astcFull2d8x5Flt16 => .astcFormat
  | .astcFull2d8x6Flt16 => .astcFormat
  | .astcFull2d10x5Flt16 => .astcFormat
  | .astcFull2d10x6Flt16 => .astcFormat
  | .astcFull2d8x8Flt16 => .astcFormat
  | .astcFull2d10x8Flt16 => .astcFormat
  | .astcFull2d10x10Flt16 => .astcFormat
  | .astcFull2d12x10Flt16 => .astcFormat
  | .astcFull2d12x12Flt16 => .astcFormat
  | .tileLinear _ => .tile .linear
  | .tileX _ => .tile .x
  | .tileY _ => .tile .y
  | .tileW _ => .tile .w
  | .tileYf _ => .tile .yf
  | .tileYs _ => .tile .ys
  | .msgRcsContextAvailable _ => .messageToGam .rcs
  | .msgRcsContextReceiveReady _ => .messageToCs .rcs
  | .msgRcsContextLaunched _ => .messageToGam .rcs
  | .msgRcsContextConfirmed _ => .messageToCs .rcs
  | .msgBcsContextAvailable _ => .messageToGam .bcs
  | .msgBcsContextReceiveReady _ => .messageToCs .bcs
  | .msgBcsContextLaunched _ => .messageToGam .bcs
  | .msgBcsContextConfirmed _ => .messageToCs .bcs
  | .msgVecsContextAvailable _ => .messageToGam .vecs
  | .msgVecsContextReceiveReady _ => .messageToCs .vecs
  | .msgVecsContextLaunched _ => .messageToGam .vecs
  | .msgVecsContextConfirmed _ => .messageToCs .vecs
  | .msgVcs0ContextAvailable _ => .messageToGam .vcs0
  | .msgVcs0ContextReceiveReady _ => .messageToCs .vcs0
  | .msgVcs0ContextLaunched _ => .messageToGam .vcs0
  | .msgVcs0ContextConfirmed _ => .messageToCs .vcs0
  | .msgVcs1ContextAvailable _ => .messageToGam .vcs1
  | .msgVcs1ContextReceiveReady _ => .messageToCs .vcs1
  | .msgVcs1ContextLaunched _ => .messageToGam .vcs1
  | .msgVcs1ContextConfirmed _ => .messageToCs .vcs1
  | .lncfcmocsEntry _ _ => .lncfcmocs
  | .gamMocsEntry _ _ => .gamMocs

/-- The encoder: the bits the opcode table gives the object, then its operands. -/
def encode : Instr → List Byte
  | .atomicPageUpdate0000 a => [0xC0] ++ a.put
  | .atomicPageUpdate0001 a => [0xC1] ++ a.put
  | .atomicPageUpdate0010 a => [0xC2] ++ a.put
  | .atomicPageUpdate0011 a => [0xC3] ++ a.put
  | .atomicPageUpdate0100 a => [0xC4] ++ a.put
  | .atomicPageUpdate0101 a => [0xC5] ++ a.put
  | .atomicPageUpdate0110 a => [0xC6] ++ a.put
  | .atomicPageUpdate0111 a => [0xC7] ++ a.put
  | .atomicPageUpdate1000 a => [0xC8] ++ a.put
  | .atomicPageUpdate1001 a => [0xC9] ++ a.put
  | .atomicPageUpdate1010 a => [0xCA] ++ a.put
  | .atomicPageUpdate1011 a => [0xCB] ++ a.put
  | .atomicPageUpdate1100 a => [0xCC] ++ a.put
  | .atomicPageUpdate1101 a => [0xCD] ++ a.put
  | .atomicPageUpdate1110 a => [0xCE] ++ a.put
  | .atomicPageUpdate1111 a => [0xCF] ++ a.put
  | .atomicAUpdate000 a => [0] ++ a.put
  | .atomicAUpdate001 a => [1] ++ a.put
  | .atomicAUpdate010 a => [2] ++ a.put
  | .atomicAUpdate011 a => [3] ++ a.put
  | .atomicAUpdate100 a => [4] ++ a.put
  | .atomicAdUpdate101 a => [5] ++ a.put
  | .atomicAdUpdate110 a => [6] ++ a.put
  | .atomicAdUpdate111 a => [7] ++ a.put
  | .ctxLegacyGgtt d a => leBytes d 8 ++ a.put
  | .ctxLegacyPpgtt32 d a => leBytes d 8 ++ a.put
  | .ctxLegacyPpgtt48 d a => leBytes d 8 ++ a.put
  | .ctxAdvanced d a => leBytes d 8 ++ a.put
  | .elementDescriptor d a => leBytes d 8 ++ a.put
  | .faultModelHang d a => leBytes d 8 ++ a.put
  | .faultModelHalt d a => leBytes d 8 ++ a.put
  | .faultModelStreamSwitch d a => leBytes d 8 ++ a.put
  | .faultModelReserved d a => leBytes d 8 ++ a.put
  | .ia32ePml4e e a => leBytes e 8 ++ a.put
  | .ia32ePdpePd e a => leBytes e 8 ++ a.put
  | .ia32ePdpe1gb e a => leBytes e 8 ++ a.put
  | .ia32ePdePt e a => leBytes e 8 ++ a.put
  | .ia32ePde2mb e a => leBytes e 8 ++ a.put
  | .ia32ePte64kb e a => leBytes e 8 ++ a.put
  | .ia32ePte4kb e a => leBytes e 8 ++ a.put
  | .legacy32Pde e a => leBytes e 8 ++ a.put
  | .legacyPte64kb e a => leBytes e 8 ++ a.put
  | .legacyPte4kb e a => leBytes e 8 ++ a.put
  | .legacy64Pml4e e a => leBytes e 8 ++ a.put
  | .legacy64PdpePd e a => leBytes e 8 ++ a.put
  | .legacy64Pdpe1gb e a => leBytes e 8 ++ a.put
  | .legacy64PdePt e a => leBytes e 8 ++ a.put
  | .legacy64Pde2mb e a => leBytes e 8 ++ a.put
  | .ggttPte e a => leBytes e 8 ++ a.put
  | .trttL3e e a => leBytes e 8 ++ a.put
  | .trttL2e e a => leBytes e 8 ++ a.put
  | .trttL1e e a => leBytes e 4 ++ a.put
  | .vaIndex4level v => leBytes v 6
  | .vaIndexPpgtt32 v => leBytes v 4
  | .vaIndexGgtt v => leBytes v 4
  | .vaIndexTrtt v => leBytes v 6
  | .miUpdateGttAddr v a => leBytes v 4 ++ a.put
  | .hdcPageRequest a => [0] ++ a.put
  | .hdcTlbInvResponse a => [1] ++ a.put
  | .gamPageResponse a => [0] ++ a.put
  | .gamTlbInvStart => [2, 0]
  | .gamTlbInvEnd => [3, 0]
  | .gamResponseOpcodeReserved => [1]
  | .faultCodeNone a => [0] ++ a.put
  | .faultCodeNotPresentOrReserved a => [1] ++ a.put
  | .faultCodePrivilege a => [2] ++ a.put
  | .faultCodeWritePermission a => [3] ++ a.put
  | .memtypeUc a => [0] ++ a.put
  | .memtypeWc a => [1] ++ a.put
  | .memtypeWt a => [4] ++ a.put
  | .memtypeWp a => [5] ++ a.put
  | .memtypeWb a => [6] ++ a.put
  | .memtypeReserved2 a => [2] ++ a.put
  | .memtypeReserved3 a => [3] ++ a.put
  | .memtypeReserved7 a => [7] ++ a.put
  | .etc1Individual b f => leBytes b 8 ++ f.put
  | .etc1Differential b f => leBytes b 8 ++ f.put
  | .etc2T b f => leBytes b 8 ++ f.put
  | .etc2H b f => leBytes b 8 ++ f.put
  | .etc2Planar b f => leBytes b 8 ++ f.put
  | .etc2Rgb8Pta b f => leBytes b 8 ++ f.put
  | .eacR11 b f => leBytes b 8 ++ f.put
  | .etc2EacRgba8 b f => leBytes b 16 ++ f.put
  | .eacRg11 b f => leBytes b 16 ++ f.put
  | .fxt1CcHi b f => leBytes b 16 ++ f.put
  | .fxt1CcChroma b f => leBytes b 16 ++ f.put
  | .fxt1CcAlpha b f => leBytes b 16 ++ f.put
  | .fxt1CcMixed b f => leBytes b 16 ++ f.put
  | .dxt1FourColour b f => leBytes b 8 ++ f.put
  | .dxt1ThreeColourTransparent b f => leBytes b 8 ++ f.put
  | .dxt1Rgb b f => leBytes b 8 ++ f.put
  | .dxt2Dxt3ExplicitAlpha b f => leBytes b 16 ++ f.put
  | .dxt4Dxt5InterpolatedAlpha b f => leBytes b 16 ++ f.put
  | .bc4 b f => leBytes b 8 ++ f.put
  | .bc5 b f => leBytes b 16 ++ f.put
  | .bc6hMode0 b f => leBytes b 16 ++ f.put
  | .bc6hMode1 b f => leBytes b 16 ++ f.put
  | .bc6hMode2 b f => leBytes b 16 ++ f.put
  | .bc6hMode3 b f => leBytes b 16 ++ f.put
  | .bc6hMode4 b f => leBytes b 16 ++ f.put
  | .bc6hMode5 b f => leBytes b 16 ++ f.put
  | .bc6hMode6 b f => leBytes b 16 ++ f.put
  | .bc6hMode7 b f => leBytes b 16 ++ f.put
  | .bc6hMode8 b f => leBytes b 16 ++ f.put
  | .bc6hMode9 b f => leBytes b 16 ++ f.put
  | .bc6hMode10 b f => leBytes b 16 ++ f.put
  | .bc6hMode11 b f => leBytes b 16 ++ f.put
  | .bc6hMode12 b f => leBytes b 16 ++ f.put
  | .bc6hMode13 b f => leBytes b 16 ++ f.put
  | .bc6hUndefined10011 b f => leBytes b 16 ++ f.put
  | .bc6hUndefined10111 b f => leBytes b 16 ++ f.put
  | .bc6hUndefined11011 b f => leBytes b 16 ++ f.put
  | .bc6hUndefined11111 b f => leBytes b 16 ++ f.put
  | .bc7Mode0 b f => leBytes b 16 ++ f.put
  | .bc7Mode1 b f => leBytes b 16 ++ f.put
  | .bc7Mode2 b f => leBytes b 16 ++ f.put
  | .bc7Mode3 b f => leBytes b 16 ++ f.put
  | .bc7Mode4 b f => leBytes b 16 ++ f.put
  | .bc7Mode5 b f => leBytes b 16 ++ f.put
  | .bc7Mode6 b f => leBytes b 16 ++ f.put
  | .bc7Mode7 b f => leBytes b 16 ++ f.put
  | .bc7Undefined b f => leBytes b 16 ++ f.put
  | .astcVoidExtent2d b => leBytes b 16
  | .astcReservedModeA b => leBytes b 16
  | .astcReservedModeB b => leBytes b 16
  | .astcModeWBp4HAp2 b => leBytes b 16
  | .astcModeWBp8HAp2 b => leBytes b 16
  | .astcModeWAp2HBp8 b => leBytes b 16
  | .astcModeWAp2HBp6 b => leBytes b 16
  | .astcModeWBp2HAp2 b => leBytes b 16
  | .astcModeW12HAp2 b => leBytes b 16
  | .astcModeWAp2H12 b => leBytes b 16
  | .astcModeW6H10 b => leBytes b 16
  | .astcModeW10H6 b => leBytes b 16
  | .astcModeWAp6HBp6 b => leBytes b 16
  | .astcCem0 b => leBytes b 16
  | .astcCem1 b => leBytes b 16
  | .astcCem2 b => leBytes b 16
  | .astcCem3 b => leBytes b 16
  | .astcCem4 b => leBytes b 16
  | .astcCem5 b => leBytes b 16
  | .astcCem6 b => leBytes b 16
  | .astcCem7 b => leBytes b 16
  | .astcCem8 b => leBytes b 16
  | .astcCem9 b => leBytes b 16
  | .astcCem10 b => leBytes b 16
  | .astcCem11 b => leBytes b 16
  | .astcCem12 b => leBytes b 16
  | .astcCem13 b => leBytes b 16
  | .astcCem14 b => leBytes b 16
  | .astcCem15 b => leBytes b 16
  | .astcLdr2d4x4U8srgb => leBytes (0x000 : BitVec 16) 2
  | .astcLdr2d5x4U8srgb => leBytes (0x008 : BitVec 16) 2
  | .astcLdr2d5x5U8srgb => leBytes (0x009 : BitVec 16) 2
  | .astcLdr2d6x5U8srgb => leBytes (0x011 : BitVec 16) 2
  | .astcLdr2d6x6U8srgb => leBytes (0x012 : BitVec 16) 2
  | .astcLdr2d8x5U8srgb => leBytes (0x021 : BitVec 16) 2
  | .astcLdr2d8x6U8srgb => leBytes (0x022 : BitVec 16) 2
  | .astcLdr2d10x5U8srgb => leBytes (0x031 : BitVec 16) 2
  | .astcLdr2d10x6U8srgb => leBytes (0x032 : BitVec 16) 2
  | .astcLdr2d8x8U8srgb => leBytes (0x024 : BitVec 16) 2
  | .astcLdr2d10x8U8srgb => leBytes (0x034 : BitVec 16) 2
  | .astcLdr2d10x10U8srgb => leBytes (0x036 : BitVec 16) 2
  | .astcLdr2d12x10U8srgb => leBytes (0x03e : BitVec 16) 2
  | .astcLdr2d12x12U8srgb => leBytes (0x03f : BitVec 16) 2
  | .astcLdr2d4x4Flt16 => leBytes (0x040 : BitVec 16) 2
  | .astcLdr2d5x4Flt16 => leBytes (0x048 : BitVec 16) 2
  | .astcLdr2d5x5Flt16 => leBytes (0x049 : BitVec 16) 2
  | .astcLdr2d6x5Flt16 => leBytes (0x051 : BitVec 16) 2
  | .astcLdr2d6x6Flt16 => leBytes (0x052 : BitVec 16) 2
  | .astcLdr2d8x5Flt16 => leBytes (0x061 : BitVec 16) 2
  | .astcLdr2d8x6Flt16 => leBytes (0x062 : BitVec 16) 2
  | .astcLdr2d10x5Flt16 => leBytes (0x071 : BitVec 16) 2
  | .astcLdr2d10x6Flt16 => leBytes (0x072 : BitVec 16) 2
  | .astcLdr2d8x8Flt16 => leBytes (0x064 : BitVec 16) 2
  | .astcLdr2d10x8Flt16 => leBytes (0x074 : BitVec 16) 2
  | .astcLdr2d10x10Flt16 => leBytes (0x076 : BitVec 16) 2
  | .astcLdr2d12x10Flt16 => leBytes (0x07e : BitVec 16) 2
  | .astcLdr2d12x12Flt16 => leBytes (0x07f : BitVec 16) 2
  | .astcFull2d4x4Flt16 => leBytes (0x140 : BitVec 16) 2
  | .astcFull2d5x4Flt16 => leBytes (0x148 : BitVec 16) 2
  | .astcFull2d5x5Flt16 => leBytes (0x149 : BitVec 16) 2
  | .astcFull2d6x5Flt16 => leBytes (0x151 : BitVec 16) 2
  | .astcFull2d6x6Flt16 => leBytes (0x152 : BitVec 16) 2
  | .astcFull2d8x5Flt16 => leBytes (0x161 : BitVec 16) 2
  | .astcFull2d8x6Flt16 => leBytes (0x162 : BitVec 16) 2
  | .astcFull2d10x5Flt16 => leBytes (0x171 : BitVec 16) 2
  | .astcFull2d10x6Flt16 => leBytes (0x172 : BitVec 16) 2
  | .astcFull2d8x8Flt16 => leBytes (0x164 : BitVec 16) 2
  | .astcFull2d10x8Flt16 => leBytes (0x174 : BitVec 16) 2
  | .astcFull2d10x10Flt16 => leBytes (0x176 : BitVec 16) 2
  | .astcFull2d12x10Flt16 => leBytes (0x17e : BitVec 16) 2
  | .astcFull2d12x12Flt16 => leBytes (0x17f : BitVec 16) 2
  | .tileLinear a => a.put
  | .tileX a => a.put
  | .tileY a => a.put
  | .tileW a => a.put
  | .tileYf a => a.put
  | .tileYs a => a.put
  | .msgRcsContextAvailable w => leBytes w 4
  | .msgRcsContextReceiveReady w => leBytes w 4
  | .msgRcsContextLaunched w => leBytes w 4
  | .msgRcsContextConfirmed w => leBytes w 4
  | .msgBcsContextAvailable w => leBytes w 4
  | .msgBcsContextReceiveReady w => leBytes w 4
  | .msgBcsContextLaunched w => leBytes w 4
  | .msgBcsContextConfirmed w => leBytes w 4
  | .msgVecsContextAvailable w => leBytes w 4
  | .msgVecsContextReceiveReady w => leBytes w 4
  | .msgVecsContextLaunched w => leBytes w 4
  | .msgVecsContextConfirmed w => leBytes w 4
  | .msgVcs0ContextAvailable w => leBytes w 4
  | .msgVcs0ContextReceiveReady w => leBytes w 4
  | .msgVcs0ContextLaunched w => leBytes w 4
  | .msgVcs0ContextConfirmed w => leBytes w 4
  | .msgVcs1ContextAvailable w => leBytes w 4
  | .msgVcs1ContextReceiveReady w => leBytes w 4
  | .msgVcs1ContextLaunched w => leBytes w 4
  | .msgVcs1ContextConfirmed w => leBytes w 4
  | .lncfcmocsEntry w a => leBytes w 2 ++ a.put
  | .gamMocsEntry w a => leBytes w 4 ++ a.put

/-- The ASTC surface-format codes (R651). -/
def astcFormatCodes : List Nat :=
  let low := [0x00, 0x08, 0x09, 0x11, 0x12, 0x21, 0x22, 0x31, 0x32, 0x24, 0x34, 0x36, 0x3E, 0x3F]
  low ++ low.map (· + 0x40) ++ low.map (· + 0x140)

/-- The port that a bare bit pattern of the opcode table is read at. Bits alone do not say what an object is (log entry 6):
where a pattern belongs to several rows, this names one of them. -/
def tablePort (nbits w : Nat) : Port :=
  let q : QWord := BitVec.ofNat 64 w
  let b : Block := BitVec.ofNat 128 w
  if nbits = 0 then .tile .linear
  else if nbits ≤ 8 then (if w < 8 then .atomicA else .atomicPage)
  else if nbits ≤ 16 then
    (if astcFormatCodes.contains w then .astcFormat else if w < 2048 then .astcMode else .lncfcmocs)
  else if nbits ≤ 32 then
    (if messageBit (BitVec.ofNat 32 w) 0 || messageBit (BitVec.ofNat 32 w) 1 then .messageToGam .rcs
     else if w % 4096 = 0 ∧ w ≠ 0 then .miUpdateGtt else .gamMocs)
  else if nbits ≤ 48 then .va4Level
  else if nbits ≤ 64 then
    (if bit q 0 then (if bit q 7 then .legacyPdp else .legacyPml4)
     else if field q 6 2 ≠ 0 then .faultModel
     else if bit q 3 then .ctxMode
     else if bit q 25 then .etc1
     else .elementDescriptor)
  else if field b 126 2 ≠ 0 then .fxt1
  else if field b 0 9 = 0x1FC then .astcMode
  else if w = 0x13 then .bc6h
  else if field b 0 13 = 0 ∧ w ≠ 0 then .astcCem
  else if [1, 2, 4, 8, 0x10, 0x20, 0x40, 0x80].contains w then .bc7
  else .bc6h

/-- The bytes of a table pattern, with operand bytes of zeros up to the longest object. -/
def tableBytes (port : Port) (nbits w : Nat) : List Byte :=
  match port with
  | .astcMode => leBytes (BitVec.ofNat 128 w) 16 ++ List.replicate 48 0
  | _ => leBytes (BitVec.ofNat 128 w) ((nbits + 7) / 8) ++ List.replicate 64 0

/-- The instruction the decoder reads from a table pattern (fixed name of the interface). -/
def decodeTableWord (nbits w : Nat) : Option Instr :=
  let p := tablePort nbits w
  match decode p (tableBytes p nbits w) with
  | .ok (i, _) => some i
  | .error _ => none

end Sys2Proof
end

