-- ==== Sys2Proof/Machine/Layout.lean ====
section
/-! DEFINITION. Surface layout (R730-R764): from a surface description and coordinates to the byte offset, mip tails,
multisampling, planar surfaces (R513-R515), what the model refuses (R285, R286), and where the spec states no offset. -/

namespace Sys2Proof.Machine

open Sys2Proof

/-! ### Tables -/

/-- The offsets of the 1D mip tail, in elements (R736). -/
def tail1dTable : List (List Nat) :=
  [[2048, 4096, 8192, 16384, 32768],
   [1024, 2048, 4096, 8192, 16384],
   [512, 1024, 2048, 4096, 8192],
   [256, 512, 1024, 2048, 4096],
   [128, 256, 512, 1024, 2048],
   [64, 128, 256, 512, 1024],
   [48, 96, 192, 384, 768],
   [32, 64, 128, 256, 512],
   [28, 56, 112, 224, 448],
   [24, 48, 96, 192, 384],
   [20, 40, 80, 160, 320],
   [16, 32, 64, 128, 256],
   [12, 24, 48, 96, 192],
   [8, 16, 32, 64, 128],
   [4, 8, 16, 32, 64],
   [0, 0, 0, 0, 0]]

/-- The offsets of the 3D mip tail, in texels (R764). -/
def tail3dTable : List (List (Nat × Nat × Nat)) :=
  [[(8, 0, 0), (16, 0, 0), (16, 0, 0), (16, 0, 0), (32, 0, 0)],
   [(0, 8, 0), (0, 8, 0), (0, 16, 0), (0, 16, 0), (0, 16, 0)],
   [(0, 0, 8), (0, 0, 8), (0, 0, 8), (0, 0, 16), (0, 0, 16)],
   [(4, 0, 0), (8, 0, 0), (8, 0, 0), (8, 0, 0), (16, 0, 0)],
   [(0, 4, 0), (0, 4, 0), (0, 8, 0), (0, 8, 0), (0, 8, 0)],
   [(0, 0, 4), (0, 0, 4), (0, 0, 4), (0, 0, 8), (0, 0, 8)],
   [(3, 0, 0), (6, 0, 0), (4, 4, 0), (0, 4, 4), (0, 4, 4)],
   [(2, 0, 0), (4, 0, 0), (0, 4, 0), (0, 4, 0), (0, 4, 0)],
   [(1, 0, 3), (2, 0, 3), (4, 0, 3), (0, 0, 7), (0, 0, 7)],
   [(1, 0, 2), (2, 0, 2), (4, 0, 2), (0, 0, 6), (0, 0, 6)],
   [(1, 0, 1), (2, 0, 1), (4, 0, 1), (0, 0, 5), (0, 0, 5)],
   [(1, 0, 0), (2, 0, 0), (4, 0, 0), (0, 0, 4), (0, 0, 4)],
   [(0, 0, 3), (0, 0, 3), (0, 0, 3), (0, 0, 3), (0, 0, 3)],
   [(0, 0, 2), (0, 0, 2), (0, 0, 2), (0, 0, 2), (0, 0, 2)],
   [(0, 0, 1), (0, 0, 1), (0, 0, 1), (0, 0, 1), (0, 0, 1)],
   [(0, 0, 0), (0, 0, 0), (0, 0, 0), (0, 0, 0), (0, 0, 0)]]

/-- A cell of a table. -/
def tableCell {α : Type} (t : List (List α)) (row col : Nat) : Option α := (t[row]?).bind fun r => r[col]?

/-- A tiled-resource mode (TR_MODE other than NONE): TileYS or TileYF (R730). -/
def isTr : TileMode → Bool
  | .ys => true
  | .yf => true
  | _ => false

/-- Bytes of an element (R740). -/
def elemBytes (e : ElemBits) : Nat := elemBitsOf e / 8

/-- `a` rounded up to a multiple of `k`. -/
def roundUp (a k : Nat) : Nat := k * ((a + k - 1) / k)

/-- The division of `a` by `k`, rounded up. -/
def ceilDiv (a k : Nat) : Nat := (a + k - 1) / k

/-! ### LOD sizes (R735, R739, R741, R746, R747, R762) -/

/-- A dimension of a level: half of the level above, at least 1. -/
def lodDim (d l : Nat) : Nat := max (d / 2 ^ l) 1

/-- The sample number of a surface, 1 where it is not multisampled. -/
def samplesOf (s : Surface) : Samples := if s.msFormat = .none then .s1 else s.samples

/-- The width of a level, adjusted for interleaved multisampling (R739). -/
def lodWidth (s : Surface) (l : Nat) : Nat :=
  let w := lodDim s.width l
  if s.msFormat ≠ .ims then w
  else match s.samples with
    | .s1 => w
    | .s2 => ceilDiv w 2 * 4
    | .s4 => ceilDiv w 2 * 4
    | .s8 => ceilDiv w 2 * 8
    | .s16 => ceilDiv w 2 * 8

/-- The height of a level, adjusted for interleaved multisampling (R739). -/
def lodHeight (s : Surface) (l : Nat) : Nat :=
  let h := lodDim s.height l
  if s.msFormat ≠ .ims then h
  else match s.samples with
    | .s1 => h
    | .s2 => h
    | .s4 => ceilDiv h 2 * 4
    | .s8 => ceilDiv h 2 * 4
    | .s16 => ceilDiv h 2 * 8

/-- The fixed alignment of the tiled-resource modes, in elements: the dimensions of a tile (R746). -/
def trAlign (m : TileMode) (e : ElemBits) : Nat × Nat :=
  match m, e with
  | .ys, .e128 => (64, 64)
  | .ys, .e64 => (128, 64)
  | .ys, .e32 => (128, 128)
  | .ys, .e16 => (256, 128)
  | .ys, _ => (256, 256)
  | _, .e128 => (16, 16)
  | _, .e64 => (32, 16)
  | _, .e32 => (32, 32)
  | _, .e16 => (64, 32)
  | _, _ => (64, 64)

/-- What the alignments of a multisampled TileYS surface are divided by (R746). -/
def msAlignDiv : Samples → Nat × Nat
  | .s1 => (1, 1)
  | .s2 => (2, 1)
  | .s4 => (2, 2)
  | .s8 => (4, 2)
  | .s16 => (4, 4)

/-- The fixed alignment of 3D surfaces in the tiled-resource modes: horizontal, vertical, depth (R764). -/
def trAlign3d (m : TileMode) (e : ElemBits) : Nat × Nat × Nat :=
  match m, e with
  | .ys, .e128 => (16, 16, 16)
  | .ys, .e64 => (32, 16, 16)
  | .ys, .e32 => (32, 32, 16)
  | .ys, .e16 => (32, 32, 32)
  | .ys, _ => (64, 32, 32)
  | _, .e128 => (4, 8, 8)
  | _, .e64 => (8, 8, 8)
  | _, .e32 => (8, 16, 8)
  | _, .e16 => (8, 16, 16)
  | _, _ => (16, 16, 16)

/-- The alignment unit of the surfaces without a tiled-resource mode, in elements (R747; for ASTC R654: block rows come in fours). -/
def alignUnit (s : Surface) : Nat × Nat :=
  match s.alignFrom with
  | .given => (s.alignH, s.alignV)
  | .depthD16 => (8, 4)
  | .depthOther => (4, 4)
  | .stencil => (8, 8)
  | .bcEtcEac => (4, 4)
  | .fxt1 => (8, 4)
  | .astc => (1, 4)

/-- The alignment parameters i and j of a 2D or cube surface (R746, R747). -/
def align2d (s : Surface) : Nat × Nat :=
  if isTr s.tile then
    let a := trAlign s.tile s.elemBits
    let d := if s.msFormat = .mss ∧ s.tile = .ys then msAlignDiv s.samples else (1, 1)
    (a.1 / d.1, a.2 / d.2)
  else alignUnit s

/-- The alignment parameters of a 3D surface, depth among them (R762, R764), none for depth outside the tiled-resource modes. They are
in texels: those of ASTC are the width of a block and four heights of one (R747). -/
def align3d (s : Surface) : Nat × Nat × Nat :=
  if isTr s.tile then trAlign3d s.tile s.elemBits
  else if s.alignFrom = .astc then (s.blockW, 4 * s.blockH, 1)
  else ((alignUnit s).1, (alignUnit s).2, 1)

/-- The aligned width of a level: R741; a 3D surface has no block factor (R762). -/
def alignedWidth (s : Surface) (l : Nat) : Nat :=
  if s.kind = .s3d then roundUp (lodWidth s l) (align3d s).1
  else roundUp (lodWidth s l) ((align2d s).1 * s.blockW)

/-- The least height of a level of a 2D or cube surface outside the tiled-resource modes: 4 texels (R738). -/
def paddedHeight (s : Surface) (l : Nat) : Nat :=
  if isTr s.tile then lodHeight s l else max (lodHeight s l) 4

/-- The aligned height of a level: R738, R741, R762. -/
def alignedHeight (s : Surface) (l : Nat) : Nat :=
  if s.kind = .s3d then roundUp (lodHeight s l) (align3d s).2.1
  else roundUp (paddedHeight s l) ((align2d s).2 * s.blockH)

/-- The aligned depth of a level of a 3D surface (R762, R764). -/
def alignedDepth (s : Surface) (l : Nat) : Nat := roundUp (lodDim s.depth l) (align3d s).2.2

/-- `h_2 + ... + h_(n-1)`. -/
def sumHeights (s : Surface) (n : Nat) : Nat := ((List.range (n - 2)).map fun k => alignedHeight s (k + 2)).sum

/-- The corner of a level outside the mip tail (R742, R762): level 1 under level 0, the others stacked to the right of it. -/
def lodCorner (s : Surface) (l : Nat) : Nat × Nat :=
  match l with
  | 0 => (0, 0)
  | 1 => (0, alignedHeight s 0)
  | n => (alignedWidth s 1, alignedHeight s 0 + sumHeights s n)

/-! ### Mip tails (R736, R744, R764) -/

/-- The level lies in the mip tail (R744). -/
def inTail (s : Surface) (l : Nat) : Bool := isTr s.tile && decide (s.mipTailStart ≤ l)

/-- A corner of a level in texels: across, down, deep. -/
abbrev Corner := Nat × Nat × Nat

/-- The slot of a level in the 3D tail (R764). -/
def tailCorner3d (s : Surface) (l col : Nat) : Option Corner :=
  let c := lodCorner s s.mipTailStart
  (tableCell tail3dTable (l - s.mipTailStart + (if s.tile = .yf then 4 else 0)) col).map fun m =>
    (c.1 + m.1, c.2 + m.2.1, m.2.2)

/-- The row of the 2D table for a level of the tail (R744): TileYS begins at a row that depends on the samples, TileYF at 4. -/
def tailRow2d (s : Surface) (l : Nat) : Nat := l - s.mipTailStart + firstTailRow s.tile (samplesOf s)

/-- The slot of a level in the 2D tail (R744): standard tiling does not support slots 12 to 14 (I30), beyond them there is none. -/
def tailCorner2d (s : Surface) (l col : Nat) : Res (Option Corner) :=
  let c := lodCorner s s.mipTailStart
  if 12 ≤ tailRow2d s l ∧ tailRow2d s l ≤ 14 then refuse .unsupportedLayout
  else .ok ((tableCell tail2dTable (tailRow2d s l) col).map fun m => (c.1 + m.1, c.2 + m.2, 0))

/-- The corner of a level of a 2D, cube or 3D surface, with the depth offset of 3D tails (R742-R745, R764); `none` for a level
beyond the table of its tail. -/
def lodCornerTail (s : Surface) (l : Nat) : Res (Option Corner) :=
  if !inTail s l then .ok (some ((lodCorner s l).1, (lodCorner s l).2, 0))
  else
    match bpeColumn s.elemBits with
    | none => refuse .noSwizzleRow
    | some col => if s.kind = .s3d then .ok (tailCorner3d s l col) else tailCorner2d s l col

/-- The horizontal alignment of a 1D surface, in elements (R737). -/
def align1d (s : Surface) : Nat :=
  match s.tile with
  | .ys => 65536 / elemBytes s.elemBits
  | .yf => 4096 / elemBytes s.elemBits
  | _ => 64

/-- The aligned width of a level of a 1D surface (R735). -/
def width1d (s : Surface) (l : Nat) : Nat := roundUp (lodDim s.width l) (align1d s)

/-- `w_0 + ... + w_(l-1)` (R735). -/
def sumWidths1d (s : Surface) (l : Nat) : Nat := ((List.range l).map (width1d s)).sum

/-- The first row of R736 that the mip tail of a 1D surface uses. -/
def firstTailRow1d (m : TileMode) : Nat := if m = .yf then 4 else 0

/-- `LODU_L` of a 1D surface (R735, R736); `none` for a level beyond the table of its tail. Element sizes without a column have no
tiled-resource mode (R264, I24). -/
def lodu1d (s : Surface) (l : Nat) : Res (Option Nat) :=
  if !isTr s.tile then .ok (some (sumWidths1d s l))
  else
    match bpeColumn s.elemBits with
    | none => refuse .noSwizzleRow
    | some col =>
      if !inTail s l then .ok (some (sumWidths1d s l))
      else .ok ((tableCell tail1dTable (l - s.mipTailStart + firstTailRow1d s.tile) col).map fun t =>
        sumWidths1d s s.mipTailStart + t)

/-! ### Coordinates to elements -/

/-- A position in a surface: byte offset in the row, row of elements, and the texel inside the block (R740). -/
structure ElemPos where
  u : Nat
  v : Nat
  bx : Nat
  by_ : Nat
deriving DecidableEq, Repr

/-- Where a texel is: the address it is counted from, its offset if the spec states one, and the texel inside the block. -/
structure Place where
  base : QWord
  offset : Option Nat
  bx : Nat
  by_ : Nat
deriving DecidableEq, Repr

/-- A place for which the spec states no offset (DESIGN CHOICE, log entry 72). -/
def Place.unstated (s : Surface) : Place := ⟨s.base, none, 0, 0⟩

/-- The number of samples, as a number. -/
def sampleCount (s : Surface) : Nat := 2 ^ samplesLog (samplesOf s)

/-- The surface is a quilted texture (R760). -/
def isQuilted (s : Surface) : Bool := s.quiltW != 0 || s.quiltH != 0

/-- The slice index `R` of a coordinate: cube faces (R761), quilts (R760), sample slices of the tilings that have no sample bits
in their swizzle (R757). A face identifier above 5 enters the formula of R761 as it is (DESIGN CHOICE, log entry 72). -/
def sliceIndex (s : Surface) (c : Coord) : Nat :=
  let r := if s.cube then c.r * 6 + c.face else c.r
  let r := if isQuilted s then r * s.quiltW * s.quiltH + c.qy * s.quiltW + c.qx else r
  if s.msFormat = .mss ∧ !isTr s.tile then r * sampleCount s + c.ss else r

/-- The size of the block of samples of a pixel in an interleaved surface (R739, R750). -/
def imsBlock : Samples → Nat × Nat
  | .s1 => (1, 1)
  | .s2 => (2, 1)
  | .s4 => (2, 2)
  | .s8 => (4, 2)
  | .s16 => (4, 4)

/-- The texel of a sample: in an interleaved surface the coordinates are scaled, and the sample has its place in the pixel's block,
which the spec leaves open (R750; log entry 66). -/
def sampleTexel (s : Surface) (c : Coord) : Nat × Nat :=
  if s.msFormat ≠ .ims then (c.u, c.v)
  else
    let b := imsBlock s.samples
    let k := Config.samplePosition (samplesLog s.samples) c.ss
    (c.u * b.1 + k.1 % b.1, c.v * b.2 + k.2 % b.2)

/-- The element that holds a texel (R740, D32): X and Y are the texel's position in its slice. -/
def elemOf (s : Surface) (x y slice : Nat) : ElemPos :=
  let row := slice * s.qpitch + y
  ⟨x / s.blockW * elemBytes s.elemBits, row / s.blockH, x % s.blockW, y % s.blockH⟩

/-- The column and the row of a texel of a 2D or cube surface in its slice, in texels, or in samples where those of a pixel are interleaved
(R741-R745): the X and Y offsets are added first (R743), after the coordinates of an interleaved surface are scaled and unscaled
themselves (DESIGN CHOICE, log entry 66). -/
def texelPos2d (s : Surface) (c : Coord) : Res (Option (Nat × Nat)) := do
  let k? ← lodCornerTail s c.lod
  let t := sampleTexel s c
  pure (k?.map fun k => (t.1 + s.xOffset + k.1, t.2 + s.yOffset + k.2.1))

/-- The position of a texel of a 2D or cube surface (R740-R745). -/
def pos2d (s : Surface) (c : Coord) : Res (Option ElemPos) := do
  let p? ← texelPos2d s c
  pure (p?.map fun p => elemOf s p.1 p.2 (sliceIndex s c))

/-- The column and the row of a texel of a 3D surface in its slice (R762). R743 gives the X and Y offsets for the formula of 2D surfaces and
that of R762 has none: they are added here too (DESIGN CHOICE, log entry 66). -/
def texelPos3d (s : Surface) (c : Coord) : Nat × Nat :=
  let k := lodCorner s c.lod
  (c.u + s.xOffset + k.1, c.v + s.yOffset + k.2)

/-- The position of a texel of a 3D surface (R762, D33). R762 does not divide by the height of a compression block: on a compressed
surface the row, r·QPitch and V together, is divided by it as R740 does for 2D surfaces (DESIGN CHOICE, log entry 102). -/
def pos3d (s : Surface) (c : Coord) : ElemPos := elemOf s (texelPos3d s c).1 (texelPos3d s c).2 c.r

/-- The position of a control byte of the CCS of a 3D surface (R763). The shifts from pixels to control bytes are not in the source (N72):
the coordinates and the dimensions of the surface description count control bytes already, and so do the alignments of its levels, those of a
2D surface of that description (R738, R741, R747; DESIGN CHOICE, log entry 97). X_Offset and Y_Offset do not enter (R743 gives them for its
own formula; DESIGN CHOICE, log entry 97). -/
def posCcs3d (s : Surface) (c : Coord) : ElemPos :=
  let k := lodCorner s c.lod
  ⟨c.u + k.1, c.r * s.qpitch + k.2 + c.v, 0, 0⟩

/-! ### What the model refuses -/

/-- The width of level 0 in bytes; that of the CCS of a 3D surface counts its control bytes (R763, log entry 97). -/
def widthBytes (s : Surface) : Nat :=
  if s.kind = .ccs3d then lodWidth s 0 else ceilDiv (lodWidth s 0) s.blockW * elemBytes s.elemBits

/-- The kinds of surface with rows and a pitch. -/
def hasPitch (s : Surface) : Bool := s.kind == .s2d || s.kind == .s3d || s.kind == .ccs3d || (s.kind == .s1d && !isTr s.tile)

/-- The fence's walk is that of the surface's tiles (R285). -/
def sameWalk (f : Fence) (m : TileMode) : Bool := m == (if f.walkY then TileMode.y else TileMode.x)

/-- A surface that the host reaches through a fence under the same mapping meets R282 and R285: its base begins a tile row of the
fence's region, the pitches and walks are equal. -/
def sharedSame (f : Fence) (s : Surface) : Bool :=
  sameWalk f s.tile && fencePitch f == s.pitch && fenceCovers s.base.toNat f
    && decide ((s.base.toNat - f.base) % (f.pitch * 4096) = 0)

/-- A surface that the host reaches through a fence under another mapping meets R285: 4 KB aligned, both pitches at most 128 KB, the
width at most either, the walks equal. -/
def sharedRemapped (f : Fence) (s : Surface) : Bool :=
  f.enable && sameWalk f s.tile && s.base.toNat % 4096 == 0 && decide (s.pitch ≤ 131072) && decide (fencePitch f ≤ 131072)
    && decide (widthBytes s ≤ min s.pitch (fencePitch f))

/-- The rows of R285 for surfaces that host and client share (R282). -/
def sharingAllowed (fences : List Fence) (s : Surface) : Bool :=
  match s.shared with
  | .clientOnly => true
  | .sameMapping i => sharedSame (fences.getD i Fence.off) s
  | .remapped i => sharedRemapped (fences.getD i Fence.off) s

/-- The chroma planes have half the pitch of the Y plane: those of half-pitch formats, and all separate ones (R513). -/
def halfPitchChroma (p : Planar) : Bool := p.halfPitch || p.separate.isSome

/-- The preconditions on a surface that the model refuses when they fail: half-pitch chroma tiled (R515, I27), a width above the
pitch of a tiled surface (R283, R285), a sharing outside R285. -/
def checkSurface (fences : List Fence) (s : Surface) : Res Unit :=
  if s.planar.any halfPitchChroma && s.tile != .linear then refuse .unsupportedLayout
  else if hasPitch s && s.tile != .linear && decide (s.pitch < widthBytes s) then refuse .badPitch
  else if sharingAllowed fences s then .ok ()
  else refuse .badSharedSurface

/-- A surface state that describes a single MIP (R244); a MIPCOUNT of 0 counts as one level (log entry 72). -/
def singleMip (s : Surface) : Bool := decide (s.mipCount ≤ 1)

/-- The base of a 1D surface in a tiled-resource mode: aligned, or, of a single MIP with 64- or 128-bit elements, that of a level in a mip
tail (R244). -/
def base1dAligned (s : Surface) : Bool :=
  match s.tile with
  | .linear => true
  | m =>
    s.base.toNat % baseAlign m == 0
      || singleMip s && (match bpeColumn s.elemBits with
        | none => false
        | some col =>
          decide (col ≤ 1) && (tail1dTable.drop (firstTailRow1d m)).any fun r =>
            r[col]?.any fun t => s.base.toNat % baseAlign m == t * elemBytes s.elemBits)

/-- A 1D surface that is laid out as one (R735, R737): linear, or in a tiled-resource mode; legacy tiles make it a 2D surface (log entry
34). -/
def isPlain1d (s : Surface) : Bool := s.kind == .s1d && (s.tile == .linear || isTr s.tile)

/-- A memory stream supports the tiling of a surface as laid out (R286): the display and the blitter that of linear and X-major ones only.
A 1D surface in a tiled-resource mode is linear (R735). -/
def streamSupports (a : Access) (s : Surface) : Bool :=
  if a.client == .displayOverlay || a.eng == .bcs then isPlain1d s || s.tile == .linear || s.tile == .x else true

/-- The samples of a surface that its tile mode stores in the tile (R263, R757). -/
def tileSamples (s : Surface) (m : TileMode) : Samples := if s.msFormat = .mss ∧ isTr m then s.samples else .s1

/-- The preconditions on the base and the pitch of a surface with rows in tiles (R244, R264, R285): the base of a level in the mip tail of
another surface is one for a single MIP only. -/
def checkRows (s : Surface) (m : TileMode) : Res Unit := do
  let _ ← checkedRow m s.elemBits (tileSamples s m) s.pitch s.base.toNat
  if singleMip s || s.base.toNat % baseAlign m == 0 then pure () else refuse .misalignedTileBase

/-- The preconditions on the base and the pitch of a surface (R244, R285), whatever coordinate is asked for: the tiled-resource modes of a
3D surface are refused, their swizzle being lost (I29); buffers are linear and have none. -/
def checkTiling (s : Surface) : Res Unit :=
  match s.kind with
  | .typedBuffer => .ok ()
  | .rawBuffer => .ok ()
  | .structuredBuffer => .ok ()
  | .s1d => if !isPlain1d s then checkRows s s.tile else if base1dAligned s then .ok () else refuse .misalignedTileBase
  | .s2d => checkRows s s.tile
  | .s3d => if isTr s.tile then refuse .unsupportedLayout else checkRows s s.tile
  | .ccs3d => checkRows s .y

/-! ### Where the spec states no offset -/

/-- The number of slices of a surface, as `sliceIndex` counts them (R757, R760, R761). The depth of a cube surface counts cubes, of six slices
each (DESIGN CHOICE, log entry 72). -/
def sliceCount (s : Surface) : Nat :=
  max s.depth 1 * (if s.cube then 6 else 1) * (if isQuilted s then s.quiltW * s.quiltH else 1)
    * (if s.msFormat = .mss ∧ !isTr s.tile then sampleCount s else 1)

/-- The size of a surface that is held to 2^38 bytes (R8, R730): from its base to the end of the last slice at LOD 0. Levels below LOD 0,
the sample slices of a TileYS surface and chroma planes are not counted: where they alone pass the limit the offsets inside it are
those of the formulas (DESIGN CHOICE, log entry 72). -/
def surfaceBytes (s : Surface) : Nat :=
  let slices := sliceCount s
  match s.kind with
  | .typedBuffer => s.width * s.pitch
  | .rawBuffer => s.width
  | .structuredBuffer => s.width * s.pitch
  | .s1d => ((slices - 1) * s.qpitch + s.width) * elemBytes s.elemBits
  | _ => ceilDiv ((slices - 1) * s.qpitch + lodHeight s 0) s.blockH * s.pitch

/-- A quilted texture within the limits of R760: tiled, squares of at most 16k by 16k, a matrix of at most 32 by 32, at most
2048 / (QuiltWidth * QuiltHeight) array slices; the coordinate names a square of it. One with a dimension of 0, of which no rule gives
the meaning, has no square, and its offset is open (DESIGN CHOICE, log entry 72). -/
def quiltStated (s : Surface) (c : Coord) : Bool :=
  !isQuilted s
    || (s.tile != .linear && decide (s.width ≤ 16384) && decide (s.height ≤ 16384) && decide (s.quiltW ≤ 32)
      && decide (s.quiltH ≤ 32) && decide (c.qx < s.quiltW) && decide (c.qy < s.quiltH)
      && decide (c.r < 2048 / (s.quiltW * s.quiltH)))

/-- The alignment that applies is none of zero: the state's fields count only where they are used (R737, R746, R747). -/
def alignStated (s : Surface) : Bool :=
  isTr s.tile || (s.kind == .s1d && s.tile == .linear) || ((alignUnit s).1 != 0 && (alignUnit s).2 != 0)

/-- A level that the surface contains (R731); a MIPCOUNT of 0, of which no rule speaks, counts as one level (DESIGN CHOICE, log entry 72).
-/
def lodStated (s : Surface) (l : Nat) : Bool := decide (l < max s.mipCount 1)

/-- The spec's formulas apply to a coordinate of a surface other than a buffer (R731, R740, R757, R760, R762; log entry 72). -/
def layoutStated (s : Surface) (c : Coord) : Bool :=
  s.blockW != 0 && s.blockH != 0 && alignStated s && lodStated s c.lod && quiltStated s c
    && (s.msFormat == .none || decide (c.ss < sampleCount s)) && decide (surfaceBytes s ≤ maxSurface)

/-- The offset of a buffer element (R732-R734): linear only; structures of at most 2048 bytes; DWord offsets below the pitch. Of a buffer
described in a tile mode, whatever its kind, no offset is stated: it is open (DESIGN CHOICE, log entry 72). -/
def bufferOffset (s : Surface) (c : Coord) : Option Nat :=
  if s.tile ≠ .linear ∨ maxSurface < surfaceBytes s then none
  else match s.kind with
    | .typedBuffer => if s.pitch ≤ 2048 then withinSurface s.elemBits (c.v * s.pitch + c.u) else none
    | .rawBuffer => withinSurface s.elemBits c.u
    | _ =>
      if c.v % 4 = 0 ∧ s.pitch % 4 = 0 ∧ c.v < s.pitch then withinSurface s.elemBits (c.u * s.pitch + c.v) else none

/-! ### The layout functions -/

/-- The offset of an element through the tiling of the surface (R260, R261, R263). -/
def tiledPos (s : Surface) (m : TileMode) (ss : Nat) : Option ElemPos → Res Place
  | none => .ok (Place.unstated s)
  | some p => do
    let sm := tileSamples s m
    let o? ← tileOffset m s.elemBits sm (if sm = .s1 then 0 else ss) p.u p.v s.pitch s.base.toNat
    pure ⟨s.base, o?, p.bx, p.by_⟩

/-- A 1D surface in TileX, TileY or TileW, as the 2D surface of height 0 it makes (log entry 34). -/
def asRows (s : Surface) : Surface := if s.kind = .s1d then { s with kind := .s2d, height := 0 } else s

/-- A 1D surface (R735, R736): linear, whatever its tiled-resource mode; TileX, TileY and TileW make it a 2D surface of height 0. -/
def place1d (s : Surface) (c : Coord) : Res Place :=
  if isPlain1d s then do
    let l? ← lodu1d s c.lod
    pure ⟨s.base, l?.bind fun l => withinSurface s.elemBits ((c.r * s.qpitch + l + c.u) * elemBytes s.elemBits), 0, 0⟩
  else do tiledPos (asRows s) s.tile c.ss (← pos2d (asRows s) c)

/-- A 3D surface (R762): QPitch is a multiple of the tile height (D33), undivided on a compressed surface too (DESIGN CHOICE, log entry
102). -/
def place3d (s : Surface) (c : Coord) : Res Place :=
  match s.tile with
  | .linear => tiledPos s .linear 0 (some (pos3d s c))
  | m => if s.qpitch % (if m = .y then 32 else if m = .x then 8 else 64) = 0 then tiledPos s m 0 (some (pos3d s c)) else .ok (Place.unstated s)

/-- The rows of the chroma planes of a planar surface (R514). -/
def planarOffsets (halfPitch uBelowY : Bool) (yHeight vHeight : Nat) : PlanarOffsets :=
  let first := if halfPitch then yHeight * 2 else yHeight
  let second := first + vHeight
  if uBelowY then ⟨first, second⟩ else ⟨second, first⟩

/-- What R515 asks of a planar surface: 2D, a Y plane higher than 1, no mips, no mip tail; log entry 76. -/
def planarStated (s : Surface) : Bool :=
  s.kind == .s2d && decide (1 < s.height) && decide (s.mipCount ≤ 1) && !inTail s 0

/-- The row begins a row of tiles of a surface, if it is tiled (R260). -/
def startsTile (s : Surface) (row : Nat) : Bool :=
  match swizzleOf s.tile s.elemBits .s1 with
  | .ok (.tiled w) => decide (row % 2 ^ w.cv = 0)
  | _ => true

/-- The row of a full-pitch surface in which the first chroma plane begins: that of the field "Y Offset for U or UV Plane", else the one
after the Y plane (R514, R515). -/
def chromaStart (s : Surface) (p : Planar) : Nat := p.yOffset.getD s.height

/-- A chroma sample of a planar surface (R513, R514): subsampled by 2, or by 4, in each direction, and replicated (R515). Separate
planes have addresses of their own, and half the pitch of the Y plane; half-pitch planes follow the Y plane; a full-pitch plane
interleaves U and V and begins at a tile. Array slices and the X and Y offsets move a sample of the Y plane and none of the chroma planes
(DESIGN CHOICE, log entry 76). -/
def placeChroma (s : Surface) (p : Planar) (isU : Bool) (c : Coord) : Res Place :=
  let k := if p.quarter then 4 else 2
  let halfPitchAt (base : QWord) (row : Nat) : Res Place :=
    .ok ⟨base, withinSurface .e8 ((row + c.v / k) * (s.pitch / 2) + c.u / k), 0, 0⟩
  let rowOf (o : PlanarOffsets) : Nat := if isU then o.u else o.v
  match p.separate with
  | some (ua, va) => halfPitchAt (if isU then ua else va) 0
  | none =>
    if p.halfPitch then halfPitchAt s.base (rowOf (planarOffsets true p.uBelowY s.height p.vHeight))
    else if !startsTile s (chromaStart s p) then .ok (Place.unstated s)
    else
      let row := rowOf (planarOffsets false p.uBelowY (chromaStart s p) p.vHeight)
      tiledPos s s.tile 0 (some ⟨c.u / k * 2 + (if isU = p.uBelowY then 0 else 1), row + c.v / k, 0, 0⟩)

/-- A sample of a planar surface (R513-R515). -/
def placePlanar (s : Surface) (p : Planar) (c : Coord) : Res Place :=
  if !planarStated s then .ok (Place.unstated s)
  else match c.plane with
    | .y => do tiledPos s s.tile 0 (← pos2d s c)
    | .u => placeChroma s p true c
    | .v => placeChroma s p false c

/-- What the hardware takes from a surface description: the CCS of a 3D surface is Y-tiled (R763), a stencil surface W-tiled (R523), a
multisampled depth or stencil surface interleaved (R739, R750). -/
def asLaidOut (s : Surface) : Surface :=
  if s.kind = .ccs3d then { s with tile := .y } else
  match s.alignFrom with
  | .stencil => { s with tile := .w, msFormat := if s.msFormat = .none then .none else .ims }
  | .depthD16 => { s with msFormat := if s.msFormat = .none then .none else .ims }
  | .depthOther => { s with msFormat := if s.msFormat = .none then .none else .ims }
  | _ => s

/-- Where a texel, a pixel or a buffer byte is, in a surface as laid out (R732-R763). -/
def placeIn (s : Surface) (c : Coord) : Res Place :=
  match s.kind with
  | .typedBuffer => .ok ⟨s.base, bufferOffset s c, 0, 0⟩
  | .rawBuffer => .ok ⟨s.base, bufferOffset s c, 0, 0⟩
  | .structuredBuffer => .ok ⟨s.base, bufferOffset s c, 0, 0⟩
  | k =>
    if !layoutStated s c then .ok (Place.unstated s)
    else match s.planar with
      | some p => placePlanar s p c
      | none =>
        match k with
        | .s1d => place1d s c
        | .s2d => do tiledPos s s.tile c.ss (← pos2d s c)
        | .s3d => place3d s c
        | _ => tiledPos s .y 0 (some (posCcs3d s c))

/-- Where a coordinate of a surface is (R283, R285, R730-R763). -/
def layoutOf (fences : List Fence) (f : Surface) (c : Coord) : Res Place := do
  let s := asLaidOut f
  checkSurface fences s
  checkTiling s
  placeIn s c

/-- A layout query: the offset and the graphics virtual address of a coordinate (R283, R730-R763). -/
def layoutQuery (f : Surface) (c : Coord) (s : State) : Res State := do
  let p ← layoutOf s.regs.fences f c
  pure (latchTile s p.base p.bx p.by_ p.offset)

/-! ### What is fetched beyond an element (R770-R772, R898; log entry 84) -/

/-- The address of a place, `skip` bytes on: none where the layout gives none. -/
def placeAddress (skip : Nat) : Res Place → List QWord
  | .ok p => (p.offset.map fun o => p.base + BitVec.ofNat 64 (o + skip)).toList
  | .error _ => []

/-- The column and the row of a texel in its slice as they are stored, in a surface with rows. -/
def storedAt (s : Surface) (c : Coord) : Option (Nat × Nat) :=
  if s.kind = .s3d then some (texelPos3d s c)
  else match texelPos2d s c with
    | .ok p? => p?
    | .error _ => none

/-- The corner that the alignment units of a level are counted from: its own, and in a mip tail that of the tile the tail lies in (R741,
R744, R746). -/
def unitOrigin (s : Surface) (l : Nat) : Nat × Nat := lodCorner s (if inTail s l then s.mipTailStart else l)

/-- The alignment unit of a surface, as it is stored: in texels, in samples where those of a pixel are interleaved (R739, R741, R746, R747,
R762, R770). -/
def unitSize (s : Surface) : Nat × Nat :=
  let a := if s.kind = .s3d then ((align3d s).1, (align3d s).2.1) else ((align2d s).1 * s.blockW, (align2d s).2 * s.blockH)
  (max 1 a.1, max 1 a.2)

/-- The same for the sampling engine: that of a compressed surface is two rows of blocks high (R771). R771 speaks of j = 2q and R746 fixes j in
the tiled-resource modes: the unit of a compressed surface in one of them stays the tile (DESIGN CHOICE, log entry 84). -/
def samplerUnit (s : Surface) : Nat × Nat :=
  if !isTr s.tile && decide (1 < s.blockH) then ((unitSize s).1, 2 * s.blockH) else unitSize s

/-- Where the alignment unit of a texel begins, counted from the corner of its level. -/
def unitStart (s : Surface) (c : Coord) (unit p : Nat × Nat) : Nat × Nat :=
  let o := unitOrigin s c.lod
  ((p.1 - o.1) / unit.1 * unit.1, (p.2 - o.2) / unit.2 * unit.2)

/-- A texel of a chroma plane: its coordinates are those of the Y plane (R515). -/
def isChroma (s : Surface) (c : Coord) : Bool := s.planar.isSome && c.plane != .y

/-- The address of what lies `dx` columns and `dy` rows from the beginning of the alignment unit of a texel, `skip` bytes on. -/
def besideAt (s : Surface) (c : Coord) (unit : Nat × Nat) (dx dy skip : Nat) : List QWord :=
  if isChroma s c then
    placeAddress skip (placeIn s { c with u := c.u / unit.1 * unit.1 + dx, v := c.v / unit.2 * unit.2 + dy })
  else match storedAt s c with
    | none => []
    | some p =>
      let o := unitOrigin s c.lod
      let b := unitStart s c unit p
      let slice := if s.kind = .s3d then c.r else sliceIndex s c
      placeAddress skip (tiledPos s s.tile (if s.planar.isSome then 0 else c.ss)
        (some (elemOf s (o.1 + b.1 + dx) (o.2 + b.2 + dy) slice)))

/-- The buffer surfaces (R732-R734). -/
def isBuffer (s : Surface) : Bool := s.kind == .typedBuffer || s.kind == .rawBuffer || s.kind == .structuredBuffer

/-- Kinds of surface without rows of texels, which have no padding that a fetch may reach. R771 and R898 except buffers, 1D and 2D surfaces
"non-array, non-MSAA, non-mip-mapped" in linear memory: the qualification is taken as one of 2D surfaces only, so that every linear 1D
surface is excepted, arrays and mip-mapped ones too (DESIGN CHOICE, log entry 84). -/
def isRowless (s : Surface) : Bool :=
  match s.kind with
  | .s2d => false
  | .s3d => false
  | .s1d => s.tile == .linear || isTr s.tile
  | _ => true

/-- The surface has rows of texels, and the layout states the place of the texel. -/
def hasUnits (fences : List Fence) (f : Surface) (c : Coord) : Bool :=
  !isRowless (asLaidOut f) && !(placeAddress 0 (layoutOf fences f c)).isEmpty

/-- The columns of an alignment unit at which it may reach another page: those at the width of a 4 KB tile in the tiled-resource modes
(R746), else the first and the last. -/
def unitCols (s : Surface) (unit : Nat × Nat) : List Nat :=
  let w := (trAlign .yf s.elemBits).1 * s.blockW
  if isTr s.tile then (List.range (ceilDiv unit.1 w)).map (· * w) else [0, unit.1 - 1]

/-- The rows of an alignment unit at which it may reach another page: those at the height of a 4 KB tile in the tiled-resource modes, else
every row of elements. -/
def unitRows (s : Surface) (unit : Nat × Nat) : List Nat :=
  let h := if isTr s.tile then (trAlign .yf s.elemBits).2 * s.blockH else max 1 s.blockH
  (List.range (ceilDiv unit.2 h)).map (· * h)

/-- What lies in the alignment unit of an element (R770, R772). -/
def unitPads (s : Surface) (c : Coord) (unit : Nat × Nat) : List QWord :=
  (unitRows s unit).flatMap fun y => (unitCols s unit).flatMap fun x => besideAt s c unit x y 0

/-- A surface in linear memory whose only padding ends its last 64-byte line (R771). -/
def linePaddedOnly (s : Surface) : Bool :=
  s.kind == .s2d && s.tile == .linear && decide (sliceCount s ≤ 1) && s.msFormat == .none && decide (s.mipCount ≤ 1)

/-- The unit is the lowest of its level in the last slice: it reaches the last of the stored rows of the level. -/
def atBottom (s : Surface) (c : Coord) (unit : Nat × Nat) : Bool :=
  decide (sliceCount s ≤ sliceIndex s c + 1)
    && (storedAt s c).any fun p => decide (lodHeight s c.lod + s.yOffset ≤ (unitStart s c unit p).2 + unit.2)

/-- The padding below the bottom of a surface (R771), each part below the one before and as wide as the unit: two rows of a cube, a row and
16 bytes of the formats that need it, 64 bytes of a linear surface. The rows are rows of texels, of a compressed surface too, where they
lie in one row of blocks (DESIGN CHOICE, log entry 84). -/
def bottomPads (s : Surface) (c : Coord) (unit : Nat × Nat) (extraRow : Bool) : List QWord :=
  let rowAt (y : Nat) : List QWord := (unitCols s unit).flatMap fun x => besideAt s c unit x y 0
  let endOf (y more : Nat) : List QWord := besideAt s c unit (unit.1 - 1) y (elemBytes s.elemBits - 1 + more)
  let row := unit.2 + (if s.cube then 2 else 0)
  let bytes := if extraRow then 16 else 0
  (if s.cube then rowAt unit.2 ++ rowAt (unit.2 + 1) else [])
    ++ (if extraRow then rowAt row ++ endOf row bytes else [])
    ++ (if s.tile = .linear then endOf (if extraRow then row else row - 1) (bytes + 64) else [])

/-- What the sampling engine may fetch beyond a texel (R770, R771, R898). The neighbouring blocks that R690 has it fetch with an ASTC texel, by
figures that are lost, are not among it but where the unit or the padding reaches them (DESIGN CHOICE, log entry 84). -/
def samplerPads (fences : List Fence) (f : Surface) (c : Coord) (extraRow : Bool) : List QWord :=
  let s := asRows (asLaidOut f)
  let unit := samplerUnit s
  if !hasUnits fences f c || linePaddedOnly (asLaidOut f) then []
  else unitPads s c unit ++ (if atBottom s c unit then bottomPads s c unit extraRow else [])

/-- What a data port may fetch beyond a pixel: the amounts are not stated, its cache request is taken to be the alignment unit (R772;
DESIGN CHOICE, log entry 84). -/
def dataPortPads (fences : List Fence) (f : Surface) (c : Coord) : List QWord :=
  let s := asRows (asLaidOut f)
  if hasUnits fences f c then unitPads s c (unitSize s) else []

/-! ### Levels -/

/-- The corner and the aligned size of a level of a surface as laid out, in texels (R735, R741, R742, R744, R762, R764); `none` where
the spec states none. An element size without a row in the tables of the tiled-resource modes has no such surface (R264, R746, R764, I24).
-/
def lodOf (s : Surface) (l : Nat) : Res (Option LodOrigin) :=
  if !isBuffer s && isTr s.tile && (bpeColumn s.elemBits).isNone then refuse .noSwizzleRow
  else if !(s.blockW != 0 && s.blockH != 0 && alignStated s && lodStated s l) then .ok none
  else match s.kind with
    | .typedBuffer => .ok none
    | .rawBuffer => .ok none
    | .structuredBuffer => .ok none
    | .s1d =>
      if s.tile = .linear ∨ isTr s.tile then do
        let u? ← lodu1d s l
        pure (u?.map fun u => ⟨u, 0, 0, width1d s l, 1, 1⟩)
      else
        let s2 := asRows s
        .ok (some ⟨(lodCorner s2 l).1, (lodCorner s2 l).2, 0, alignedWidth s2 l, alignedHeight s2 l, 1⟩)
    | .s3d => do
      let k? ← lodCornerTail s l
      pure (k?.map fun k => ⟨k.1, k.2.1, k.2.2, alignedWidth s l, alignedHeight s l, alignedDepth s l⟩)
    | _ => do
      let k? ← lodCornerTail s l
      pure (k?.map fun k => ⟨k.1, k.2.1, k.2.2, alignedWidth s l, alignedHeight s l, 1⟩)

/-- An open LOD corner and size. -/
def freeLod (s : State) : LodOrigin :=
  let k (i : Nat) : Nat := (freeAt s i).toNat
  ⟨k 0, k 1, k 2, k 3, k 4, k 5⟩

/-- The corner and the aligned size of a level, latched. -/
def lodQuery (f : Surface) (l : Nat) (s : State) : Res State := do
  match ← lodOf (asLaidOut f) l with
  | some k => pure { s with lodOrigin := k }
  | none => pure (advanceDraws { s with lodOrigin := freeLod s } 6)

/-! ### MCS (R751-R756) -/

/-- The element size of an MCS by the number of samples (R751, R752). -/
def mcsElem : Samples → ElemBits
  | .s8 => .e32
  | .s16 => .e64
  | _ => .e8

/-- Where the MCS element of a pixel is (R751): one element per pixel of a surface of its own. -/
def mcsLayout (f : Surface) (c : Coord) (s : State) : Res State :=
  layoutQuery { f with elemBits := mcsElem f.samples, msFormat := .none } c s

/-- Where a sample of a multisampled surface is (R751-R756): a slice, or clear; `unstated` where the spec names no slice. -/
inductive SampleSlice where
  | slice (n : Nat)
  | clear
  | unstated
deriving DecidableEq, Repr

/-- Decodes an MCS value (R752-R756). -/
def mcsSlice (n : Samples) (mcs : QWord) (i : Nat) : SampleSlice :=
  let w := samplesLog n
  let f := field mcs (w * i) w
  if field mcs 0 w = 0 then .slice f
  else if f = 2 ^ w - 1 then .clear
  else if f = 0 then .unstated
  else .slice (f - 1)

/-- The slice of a sample (R751, R757): its own where there is no MCS, else the one that the MCS names. -/
def sampleSlice (mode : AuxMode) (n : Samples) (mcs : QWord) (i : Nat) : SampleSlice :=
  if 2 ^ samplesLog n ≤ i then .unstated
  else match mode with
    | .none => .slice i
    | .hiz => .unstated
    | _ => mcsSlice n mcs i

/-- An MCS lookup (R752-R756): the sample slice, or the surface's clear value for the texel; where the spec names no slice, a free value
(log entry 17). -/
def mcsSample (f : Surface) (mcs : QWord) (i : Nat) (s : State) : State :=
  match sampleSlice f.aux f.samples mcs i with
  | .slice k => complete s ⟨.done, BitVec.ofNat 64 k, false, 0, 0, .wb, 0⟩
  | .clear => complete { s with texel := f.clear } ⟨.clear, 0, false, 0, 0, .wb, 0⟩
  | .unstated => advanceDraws (complete s ⟨.done, freeAt s 0, false, 0, 0, .wb, 0⟩) 1

end Sys2Proof.Machine
end

