-- ==== Sys2Proof/Machine/Pixel.lean ====
section
/-! DEFINITION. Uncompressed pixel formats (R500-R523): the fields of a pixel, palettes, packed YUV, depth and stencil. -/

namespace Sys2Proof.Machine

open Sys2Proof

/-- A field of a pixel, whose number format another volume gives (R501). -/
def rawField (p : Block) (lo bits : Nat) : Chan := .raw (field p lo bits) bits

/-- The field of a channel in a format whose channels are listed from the LSB up, the first at bit `lo` (R501). -/
def channelField (p : Block) (c : ChanName) : List (ChanName × Nat) → Nat → Option Chan
  | [], _ => none
  | (n, bits) :: r, lo => if n = c then some (rawField p lo bits) else channelField p c r (lo + bits)

/-- A channel of a pixel: its field, or the default of a channel that the format does not store (R551). -/
def channelOr (p : Block) (l : List (ChanName × Nat)) (c : ChanName) (default : Chan) : Chan :=
  (channelField p c l 0).getD default

/-- An 8-bit value v, standing for v / 255 (R505). -/
def unorm8 (v : Nat) : Chan := .unorm v 255

/-- The palette entry of an index, a 32-bit ARGB value: alpha in bits 31:24, red in 23:16, green in 15:8, blue in 7:0, the RGB of the
formats with an alpha of their own in its low 24 bits (R505, R510; the places DESIGN CHOICE, log entry 86). -/
def paletteEntry (s : State) (i : Nat) : Word := s.palette.getD i 0

/-- The RGB of a palette entry with an 8-bit alpha (R505). R505 divides the alpha by 255; red, green and blue stand for v / 255 too
(DESIGN CHOICE, log entry 86). -/
def paletteTexel (w : Word) (alpha : Nat) : Texel :=
  ⟨unorm8 (field w 16 8), unorm8 (field w 8 8), unorm8 (field w 0 8), unorm8 alpha⟩

/-- Two YUV texels that share U and V (R511), mapped V to red, Y to green, U to blue (R512); alpha takes its
default (R551). -/
def yuvPair (d : Block) (y0 u y1 v : Nat) : List Texel :=
  let t (y : Nat) : Texel := ⟨rawField d (8 * v) 8, rawField d (8 * y) 8, rawField d (8 * u) 8, alphaOne⟩
  [t y0, t y1]

/-- The depth and the stencil of a depth format (R522). No rule says which channels of a texel carry them: depth is in the red place and
stencil in the green one, zero where the format has none (DESIGN CHOICE, log entry 95); blue and alpha take their defaults (R551). -/
def depthTexel (z st : Chan) : Texel := ⟨z, st, colourZero, alphaOne⟩

/-- The texels that the bits of an element hold (R501-R523). The stencil format is R8_UINT (R523), whose byte is red (R501). An element of P2
is read as one texel, its index in bits 1:0: no rule says how many indices an element holds (R510, N49; DESIGN CHOICE, log entry 75). A luminance
format without alpha takes the default of R551, 1.0: R503 and N48 give none of its own (DEDUCED, log entry 103). -/
def pixelTexels (s : State) (f : PixelFormat) (p : Block) : List Texel :=
  match f with
  | .channels l =>
    [⟨channelOr p l .r colourZero, channelOr p l .g colourZero, channelOr p l .b colourZero, channelOr p l .a alphaOne⟩]
  | .intensity n => [⟨rawField p 0 n, rawField p 0 n, rawField p 0 n, rawField p 0 n⟩]
  | .luminance n m =>
    [⟨rawField p 0 n, rawField p 0 n, rawField p 0 n, if m = 0 then alphaOne else rawField p n m⟩]
  | .r1 => (List.range 8).map fun k => ⟨rawField p k 1, rawField p k 1, rawField p k 1, rawField p k 1⟩
  | .mono8 => (List.range 8).map fun k => ⟨rawField p k 1, rawField p k 1, rawField p k 1, rawField p k 1⟩
  | .p4a4 => [paletteTexel (paletteEntry s (field p 0 4)) (field p 4 4 * 17)]
  | .a4p4 => [paletteTexel (paletteEntry s (field p 4 4)) (field p 0 4 * 17)]
  | .p8a8 => [paletteTexel (paletteEntry s (field p 0 8)) (field p 8 8)]
  | .a8p8 => [paletteTexel (paletteEntry s (field p 8 8)) (field p 0 8)]
  | .p8 => [paletteTexel (paletteEntry s (field p 0 8)) (field (paletteEntry s (field p 0 8)) 24 8)]
  | .p2 => [paletteTexel (paletteEntry s (field p 0 2)) (field (paletteEntry s (field p 0 2)) 24 8)]
  | .yuyv => yuvPair p 0 1 2 3
  | .yvyu => yuvPair p 0 3 2 1
  | .uyvy => yuvPair p 1 0 3 2
  | .vyuy => yuvPair p 1 2 3 0
  | .d32s8 => [depthTexel (rawField p 0 32) (rawField p 32 8)]
  | .d32 => [depthTexel (rawField p 0 32) colourZero]
  | .d24s8 => [depthTexel (rawField p 0 24) (rawField p 24 8)]
  | .d16 => [depthTexel (rawField p 0 16) colourZero]
  | .stencil8 => [⟨rawField p 0 8, colourZero, colourZero, alphaOne⟩]

/-- A read of an uncompressed element: its texels are latched. -/
def decodePixel (f : PixelFormat) (p : Block) (s : State) : State :=
  let ts := pixelTexels s f p
  advanceDraws { s with texels := ⟨ts.length, 1, ts⟩ } 1

/-- The bits of an element of a format (R501-R523): a packed YUV element holds two pixels. -/
def pixelBits : PixelFormat → Nat
  | .channels l => (l.map (·.2)).sum
  | .intensity n => n
  | .luminance n m => n + m
  | .d32s8 => 64
  | .d32 => 32
  | .d24s8 => 32
  | .yuyv => 32
  | .yvyu => 32
  | .uyvy => 32
  | .vyuy => 32
  | .d16 => 16
  | .p8a8 => 16
  | .a8p8 => 16
  | _ => 8

/-- The low `n` bits of a channel value, placed at bit `lo`. -/
def putField (w : Word) (lo n : Nat) : Block := BitVec.ofNat 128 (w.toNat % 2 ^ n * 2 ^ lo)

/-- The bits of a channel above its low 32, from open ones: the operands of a write are words of 32 bits, and no rule gives the widths of
channels (R501, N47; DESIGN CHOICE, log entry 98). -/
def putAbove (above : Block) (lo n : Nat) : Block :=
  if n ≤ 32 then 0 else above &&& BitVec.ofNat 128 ((2 ^ (n - 32) - 1) * 2 ^ (lo + 32))

/-- The channels of a write, placed from the LSB up (R501). -/
def putChannels (value : ChanName → Word) (above : Block) : List (ChanName × Nat) → Nat → Block
  | [], _ => 0
  | (n, bits) :: r, lo => putField (value n) lo bits ||| putAbove above lo bits ||| putChannels value above r (lo + bits)

/-- The channel values of a write, by name. -/
def channelValue (r g b a : Word) : ChanName → Word
  | .r => r
  | .g => g
  | .b => b
  | .a => a

/-- The four bytes of a packed YUV element (R511, R512): V, Y, U of a pixel and Y of the next, at their byte positions. -/
def putYuv (v y u y1 : Word) (iv iy iu iy1 : Nat) : Block :=
  putField v (8 * iv) 8 ||| putField y (8 * iy) 8 ||| putField u (8 * iu) 8 ||| putField y1 (8 * iy1) 8

/-- What a write of a pixel stores: stated bits, stated bits with `n` open ones above them at bit `lo`, `n` open bits, or nothing, the
format being no destination. -/
inductive Packed where
  | bits (p : Block)
  | bitsOpen (p : Block) (lo n : Nat)
  | openBits (n : Nat)
  | noDestination
deriving DecidableEq, Repr

/-- 128 open bits, of two draws. -/
def openBlock (s : State) : Block := freeAt s 1 ++ freeAt s 0

/-- The bits that a write of a pixel stores (R500, R501, R511, R512, R522, R523); for packed YUV the fourth operand is Y of the
second pixel (log entry 75). Intensity and luminance are no destinations (R502, R503, I31). For the one-bit and palette formats, and
for the unused bits of D32_FLOAT_S8X24_UINT, the spec states no bits (log entry 75);
`above` holds the open bits of wide channels. -/
def packPixel (f : PixelFormat) (r g b a : Word) (above : Block) : Packed :=
  match f with
  | .channels l => .bits (putChannels (channelValue r g b a) above l 0)
  | .d32s8 => .bitsOpen (putField r 0 32 ||| putField g 32 8) 40 24
  | .d32 => .bits (putField r 0 32)
  | .d24s8 => .bits (putField r 0 24 ||| putField g 24 8)
  | .d16 => .bits (putField r 0 16)
  | .stencil8 => .bits (putField r 0 8)
  | .yuyv => .bits (putYuv r g b a 3 0 1 2)
  | .yvyu => .bits (putYuv r g b a 1 0 3 2)
  | .uyvy => .bits (putYuv r g b a 2 1 0 3)
  | .vyuy => .bits (putYuv r g b a 0 1 2 3)
  | .intensity _ => .noDestination
  | .luminance _ _ => .noDestination
  | .p8a8 => .openBits 16
  | .a8p8 => .openBits 16
  | .r1 => .openBits 8
  | .mono8 => .openBits 8
  | .p4a4 => .openBits 8
  | .a4p4 => .openBits 8
  | .p8 => .openBits 8
  | .p2 => .openBits 8

/-- A write of an uncompressed element: its bits are latched. -/
def encodePixel (f : PixelFormat) (r g b a : Word) (s : State) : Res State :=
  match packPixel f r g b a (openBlock s) with
  | .bits p => .ok (advanceDraws { s with pixel := p } 2)
  | .bitsOpen p lo n => .ok (advanceDraws { s with pixel := p ||| putField ((freeAt s 0).setWidth 32) lo n } 1)
  | .openBits n => .ok (advanceDraws { s with pixel := BitVec.ofNat 128 ((freeAt s 0).toNat % 2 ^ n) } 1)
  | .noDestination => refuse .notARenderDestination

/-- Fills an element of `n` bits above the bits of its format, which no rule gives a write (R501; DESIGN CHOICE, log entry 98: open bits);
the element is latched. -/
def fillElement (used n : Nat) (s : State) : State :=
  if n ≤ used then s
  else advanceDraws { s with pixel := s.pixel ||| BitVec.ofNat 128 ((openBlock s).toNat % 2 ^ n / 2 ^ used * 2 ^ used) } 2

end Sys2Proof.Machine
end

