-- ==== Sys2Proof/Machine/Sampling.lean ====
section
/-! DEFINITION. Transactions that name a texel of a surface (R6, R100): layout and tiling give the address, the request goes the way
of every request, and the sampler turns the bytes into a texel (R500, R291, R513). -/

namespace Sys2Proof.Machine

open Sys2Proof

/-- A memory request of an engine under its loaded context (R100), if it is one a client can make (R101, I21), with what is fetched
beside it (R772). -/
def requestOp (a : Access) (pads : List QWord) (s : State) : Res State :=
  if a.wf then serveLoaded s a .client pads else refuse .undecodable

/-- Where a coordinate of a surface lies for a request: the layout (R283) on a stream that supports the tile mode (R286, I26, I27). -/
def locate (a : Access) (f : Surface) (c : Coord) (s : State) : Res State :=
  if streamSupports a (asLaidOut f) then layoutQuery f c s else refuse .tilingNotSupportedByStream

/-- The request for bytes at an address, of a surface: TileX surfaces are marked (R405). -/
def accessAt (a : Access) (f : Surface) (va : QWord) : Access := { a with va := va, tileX := (asLaidOut f).tile == .x }

/-- The clients that reach surfaces through a data port (R772): the HDC, the render cache, media. -/
def usesDataPort (a : Access) : Bool := a.client == .hdc || a.client == .renderCache || a.client == .media

/-- A surface of a compressed format: its elements are blocks of several rows (R530, R740); hardware only reads it (R500). -/
def isCompressed (f : Surface) : Bool := decide (1 < f.blockH)

/-- The request for bytes of a surface at an address; a data port fetches the rest of its cache request too (R772). -/
def surfaceRequest (a : Access) (f : Surface) (c : Coord) (va : QWord) (s : State) : Res State :=
  requestOp (accessAt a f va) (if usesDataPort a then dataPortPads s.regs.fences f c else []) s

/-- An access to the bytes of a texel, a pixel or a buffer element of a surface, as they are (R6, R100): `high` for the second half of a
16-byte element. -/
def surfaceOp (a : Access) (f : Surface) (c : Coord) (high : Bool) (s : State) : Res State :=
  if isCompressed f && a.kind != .read then refuse .notARenderDestination
  else do
    let s ← locate a f c s
    surfaceRequest a f c (s.tile.gva + (if high then 8 else 0)) s

/-- The ports at which blocks of compressed texels arrive. -/
def isBlockPort : Port → Bool
  | .etc1 | .etc2 | .etc2Pta | .eacR11 | .etc2EacRgba8 | .eacRg11 | .fxt1 | .dxt1 | .dxt1Rgb | .dxt23 | .dxt45 | .bc4 | .bc5 | .bc6h
  | .bc7 => true
  | _ => false

/-- The sampler reads texels of this format. A footprint that is none of the ASTC formats (R689: "listed footprints only", no effect stated) is
read by the general formulas (DESIGN CHOICE, log entry 104). -/
def texelFormatOk : TexelFormat → Bool
  | .block p _ => isBlockPort p
  | _ => true

/-- The accesses of at most 8 bytes that an element of `n` bytes takes: address and size less one. -/
def elementPieces (va : QWord) (n : Nat) : List (QWord × BitVec 3) :=
  if n ≤ 8 then [(va, BitVec.ofNat 3 (n - 1))] else [(va, 7), (va + 8, BitVec.ofNat 3 (n - 9))]

/-- The write of a pixel through the render cache or a data port (R500): the channel values are encoded in the surface's format, and the
element is stored, one of more than 8 bytes by a second write that follows (log entry 98). A RAW buffer, which R516 gives to data port
messages without a format only, is written as any other surface (DESIGN CHOICE, log entry 98). A format of more bits than the surface's
elements have is no request of a client. -/
def writePixelOp (a : Access) (f : Surface) (c : Coord) (how : PixelFormat) (r g b al : Word) (s : State) : Res State :=
  if a.kind ≠ .write ∨ !usesDataPort a ∨ elemBitsOf f.elemBits < pixelBits how then refuse .undecodable
  else if isCompressed f then refuse .notARenderDestination
  else do
    let s ← encodePixel how r g b al s
    let s ← locate a f c (fillElement (pixelBits how) (elemBitsOf f.elemBits) s)
    let piece (va : QWord) (size : BitVec 3) (lo : Nat) : Access := { a with va := va, size := size, data := s.pixel.extractLsb' lo 64 }
    match elementPieces s.tile.gva (elemBytes f.elemBits) with
    | (va, size) :: (va', size') :: _ =>
      surfaceRequest (piece va size 0) f c va { s with inputs := .op (.request (accessAt (piece va' size' 64) f va')) :: s.inputs }
    | (va, size) :: [] => surfaceRequest (piece va size 0) f c va s
    | [] => pure s

/-- The reads that a texel takes: its element, or one byte in each plane of a planar surface (R513). -/
def texelReads (f : Surface) (c : Coord) (how : TexelFormat) (s : State) : Res (List (QWord × BitVec 3) × State) :=
  match how with
  | .planar => do
    let s ← layoutQuery f { c with plane := .u } s
    let u := s.tile.gva
    let s ← layoutQuery f { c with plane := .v } s
    let v := s.tile.gva
    let s ← layoutQuery f { c with plane := .y } s
    pure ([(s.tile.gva, 0), (u, 0), (v, 0)], s)
  | _ => do
    let s ← layoutQuery f c s
    pure (elementPieces s.tile.gva (elemBytes f.elemBits), s)

/-- The formats whose surfaces need a row and 16 bytes more of padding (R771): packed YUV, and elements of 24, 48 and 96 bits. -/
def needsExtraRow (f : Surface) (how : TexelFormat) : Bool :=
  (match how with
    | .pixel .yuyv => true
    | .pixel .yvyu => true
    | .pixel .uyvy => true
    | .pixel .vyuy => true
    | _ => false)
  || f.elemBits == .e24 || f.elemBits == .e48 || f.elemBits == .e96

/-- A sample of a texel (R6, R500, R291): the sampler reads its bytes, its auxiliary tile where the surface has one, and with them cache
lines and alignment units (R770, R898), of a planar surface those of the plane that the coordinate names (DESIGN CHOICE, log entry 84). A RAW buffer, which R516 gives to data port messages only, is sampled as any other surface (DESIGN
CHOICE, log entry 98). -/
def sampleOp (a : Access) (f : Surface) (c : Coord) (how : TexelFormat) (aux : Option QWord) (s : State) : Res State :=
  if a.client ≠ .samplerCache ∨ !texelFormatOk how then refuse .undecodable
  else if !streamSupports a (asLaidOut f) then refuse .tilingNotSupportedByStream
  else do
    let (reads, s) ← texelReads f c how s
    match reads with
    | [] => pure s
    | (va, size) :: more =>
      let a := { accessAt a f va with size := size }
      if a.wf then
        serveLoaded s a (.sampler ⟨how, s.tile.inBlockX, s.tile.inBlockY, more, 0, 0, if f.aux = .none then none else aux⟩)
          (samplerPads s.regs.fences f c (needsExtraRow f how))
      else refuse .undecodable

/-- A sample at an address whose auxiliary tile is at another (R291): the bytes as they are. -/
def auxSample (a : Access) (aux : QWord) (s : State) : Res State :=
  if a.client ≠ .samplerCache ∨ !a.wf ∨ !{ a with va := aux }.wf then refuse .undecodable
  else serveLoaded s a (.sampler ⟨.raw, 0, 0, [], 0, 0, some aux⟩) []

/-- What the sampler presents to itself to turn the bytes of an element into its texel: the block or the pixel, then the choice of
the texel inside it (R740). -/
def texelInputs (t : TexelRead) : List Input :=
  let pick : Input := .op (.pickTexel t.bx t.by_)
  match t.how with
  | .raw => []
  | .pixel f => [.op (.decodePixel f t.got), pick]
  | .block p flags => [.object p (leBytes t.got t.gotBytes ++ flags.put), pick]
  | .astc _ => [.object .astcMode (leBytes t.got 16), pick]
  | .planar => []

/-- The texel of a planar surface (R512, R513): V, Y, U as red, green, blue; alpha 1.0. -/
def planarTexel (got : Block) : Texel := ⟨rawField got 16 8, rawField got 0 8, rawField got 8 8, alphaOne⟩

/-- The sampler has all bytes of a texel. -/
def deliver (t : TexelRead) (s : State) : State :=
  let s := match t.how with
    | .planar => { s with texel := planarTexel t.got }
    | .astc f => { s with astcFormat := f }
    | _ => s
  { s with inputs := texelInputs t ++ s.inputs }

/-- The texel of a NULL response (R291, R402): all zeros. -/
def nullTexel : Texel := ⟨colourZero, colourZero, colourZero, colourZero⟩

/-- The bytes of a read reach the sampler: a NULL response ends the sample; else it reads on, or has the texel. -/
def texelReturn (r : Request) (s : State) : Res State :=
  match r.origin with
  | .sampler t =>
    if s.completion.status = .nullTile ∨ s.completion.status = .invalidTile then .ok { s with texel := nullTexel }
    else match t.more with
      | (va, size) :: rest =>
        let a := { r.acc with va := va, size := size }
        if a.wf then serveNext s { r with acc := a, origin := .sampler { t with more := rest }, pads := [] } else refuse .undecodable
      | [] => .ok (deliver t s)
  | _ => .ok s

/-- The texel of the last block or element at a column and row of it (R740); outside its footprint there is none. -/
def pickTexel (bx by_ : Nat) (s : State) : State :=
  match (if bx < s.texels.width then s.texels.texels[by_ * s.texels.width + bx]? else none) with
  | some t => { s with texel := t }
  | none => advanceDraws { s with texel := freeTexel s 0 } 4

end Sys2Proof.Machine
end

