-- ==== Sys2Proof/Machine/Inputs.lean ====
section
/-! DEFINITION. What is presented to the machine: reading an encoded object at its port, the transactions that are no encoded
objects, and what happens at a port to bytes that are no object of it. -/

namespace Sys2Proof.Machine

open Sys2Proof

/-- What an input turns out to be. -/
inductive Fetched where
  | instr (i : Instr)
  | op (o : Op)
  | rejected (p : Port) (e : DecodeError)
deriving DecidableEq, Repr

/-- Reads an input: an encoded object through the decoder (R170, R211). -/
def fetched : Input → Fetched
  | .object p bs =>
    match decode p bs with
    | .ok (i, _) => .instr i
    | .error e => .rejected p e
  | .message i => .instr i
  | .op o => .op o

/-- The machine once its oldest input is taken. -/
def popInput (s : State) (rest : List Input) : State := { s with inputs := rest }

/-- Presents an input before all others. -/
def pushInput (s : State) (i : Input) : State := { s with inputs := i :: s.inputs }

/-- Bytes that are no object of their port: a paging entry with P = 0 or a set reserved bit is a page fault with code 01
(R801); a message write without its mask bits (R34) and an invalidation broadcast without its Valid bit (R197) change nothing; anything else is outside the model (R210, D12). -/
def rejectedObject (p : Port) (e : DecodeError) (s : State) : Res State :=
  match e with
  | .entryFault a level => if a.wf then rejectedEntry p a level s else refuse .undecodable
  | .maskedOff => .ok s
  | .notValid => .ok s
  | _ => refuse .undecodable

/-- A lookup of the cache controls for an access of an engine under its loaded context (R461-R471). -/
def mocsLookup (e : Engine) (index : BitVec 6) (addr : Nat) (typeBits : BitVec 3) (coherent hdc isWrite : Bool) (s : State) : State :=
  let x := engineOf s e
  let advanced := if runsAdvanced x then some (pointersOf x).desc else none
  advanceDraws { s with cache := cacheControlsOf s ⟨e, index.toNat, addr, typeBits, coherent, hdc, isWrite, advanced⟩ } 8

/-- The transactions that are no encoded objects. What state survives render power gating is not in the source (R864, N83): `enablePowerGating`
leaves everything else as it is (DESIGN CHOICE, log entry 80). -/
def runOp (o : Op) (s : State) : Res State :=
  match o with
  | .request a => requestOp a [] s
  | .surface a f c high => surfaceOp a f c high s
  | .writePixel a f c how r g b al => writePixelOp a f c how r g b al s
  | .sample a f c how aux => sampleOp a f c how aux s
  | .texelReturn r => texelReturn r s
  | .pickTexel bx by_ => .ok (pickTexel bx by_ s)
  | .resume r => resume s r
  | .rewalk r => rewalk s r
  | .hostAccess w addr n data => hostAccess w addr n data s
  | .peerAccess w addr n data => if n = 0 ∨ 8 < n then refuse .undecodable else peerAccess w addr n data s
  | .mmioRead off => mmioRead .host off s
  | .mmioWrite off data => mmioWrite .host off data s
  | .csMmioRead e off => mmioRead (.cs e) off s
  | .csMmioWrite e off data => mmioWrite (.cs e) off data s
  | .namedRead r => .ok (namedRead r s)
  | .namedWrite r data => .ok (namedWrite r data s)
  | .setFence i f => .ok (setFence i f s)
  | .memWrite pa n data => memWriteOp pa n data s
  | .pciRead r => .ok (readWord s (pciValue s.pci r))
  | .pciWrite r data => pciWrite r data s
  | .configRead off size => configRead off size s
  | .configWrite off size data => configWrite off size data s
  | .setIommu c => .ok { s with iommu := c }
  | .setMemRanges m => .ok { s with memRanges := m }
  | .setPalette i data => .ok { s with palette := s.palette.set i data }
  | .setMchbarAlias on => .ok { s with regs := { s.regs with mchbarAlias := on } }
  | .enablePowerGating => .ok { s with regs := { s.regs with powerGating := true } }
  | .pageResponse prg code => .ok (pageResponse s prg code)
  | .lastResponse e contextId => .ok (lastResponse s e contextId)
  | .switchOut e => .ok (switchOut s e)
  | .terminate contextId => .ok (terminate s contextId)
  | .invalidateEngine e => .ok (invalidateEngine s e)
  | .invalidateAll => .ok (invalidateAll s)
  | .invalidatePasid p => .ok (invalidatePasid s p)
  | .invalidateScope p page stage => .ok (invalidateScope s p page stage)
  | .invalidateTexture => .ok (invalidateTexture s)
  | .invalidateInstruction => .ok (invalidateInstruction s)
  | .invalidationWait => .ok (completeWait s)
  | .flush c => .ok (flush s c)
  | .holdPageRequest prg => .ok (holdPageRequest s prg)
  | .servicePageRequest prg => .ok (servicePageRequest s prg)
  | .engineReset e => .ok (requestReset s e)
  | .flr => .ok (requestFlr s)
  | .busReset => .ok (busReset s)
  | .mocsLookup e index addr typeBits coherent hdc isWrite => .ok (mocsLookup e index addr typeBits coherent hdc isWrite s)
  | .layout f c => layoutQuery f c s
  | .lodOrigin f lod => lodQuery f lod s
  | .auxSample a aux => auxSample a aux s
  | .mcsLayout f c => mcsLayout f c s
  | .mcsSample f mcs i => .ok (mcsSample f mcs i s)
  | .planarOffsets h u y v => .ok { s with planar := planarOffsets h u y v }
  | .decodePixel f bits => .ok (decodePixel f bits s)
  | .encodePixel f r g b a => encodePixel f r g b a s

/-- The input that presents a pattern of the opcode table, with operand bytes of zeros (log entry 6). -/
def tableInput (nbits w : Nat) : Input := .object (tablePort nbits w) (tableBytes (tablePort nbits w) nbits w)

end Sys2Proof.Machine
end

