-- ==== Sys2Proof/Machine/Step.lean ====
section
/-! DEFINITION. The step: the machine takes the oldest transaction presented to it (R6, D1) and carries it out; with none
presented nothing happens. -/

namespace Sys2Proof.Machine

open Sys2Proof

/-- Carries out what an input turned out to be. -/
def runFetched (f : Fetched) (s : State) : Host.Outcome State Fault Refusal :=
  match f with
  | .instr i => exec i s
  | .op o => toOutcome (runOp o s)
  | .rejected p e => toOutcome (rejectedObject p e s)

/-- One step. -/
def step (s : State) : Host.Outcome State Fault Refusal :=
  match s.inputs with
  | [] => .next s
  | i :: rest => runFetched (fetched i) (popInput s rest)

/-- The state that presents a pattern of the opcode table next: log entry 12 says how objects come to be presented. -/
def State.withFetchWord (s : State) (nbits w : Nat) : State := pushInput s (tableInput nbits w)

end Sys2Proof.Machine
end

