-- ==== Sys2Proof/Safety.lean ====
section
/-! DEFINITION. The terms in which the statements speak of a state: invariants of the machine, the conditions under which a
transaction is served at once, the tables of the page walks, the members of the larger families. -/

namespace Sys2Proof.Machine

open Sys2Proof

/-! ### Invariants -/

/-- The register banks have the sizes of R22, R23, R50, R52. -/
def Regs.banksOk (g : Regs) : Bool :=
  g.maxReqCounts.length == 16 && g.fences.length == 16 && g.lncf.length == 64 && g.gamMocs.length == 512

/-- The reserved bits of the TR-TT registers read 0: L3 pointer 63:48 and 15:0 (R41), TRVADR 31:8 (R44), TRTTE 31:2 (R45). -/
def Regs.trttReservedOk (g : Regs) : Bool :=
  field g.l3Ptr 48 16 == 0 && field g.l3Ptr 0 16 == 0 && field g.trvadr 8 24 == 0 && field g.trtte 2 30 == 0

/-- The reserved bits of the PCI capability registers read 0: PASID Control 15:3 (R68), ATS Control 14:5 (R71), Page Request
Control 15:1 (R73), Page Request Status 15:9 and 7:2 (R74). -/
def PciCaps.reservedOk (p : PciCaps) : Bool :=
  field p.pasidControl 3 13 == 0 && field p.atsControl 5 10 == 0 && field p.priControl 1 15 == 0
    && field p.priStatus 9 7 == 0 && field p.priStatus 2 6 == 0

/-- An engine is Halted exactly while a request waits at the top of its miss queue, unless it is Hung or Wedged (R833). -/
def EngineSt.haltOk (x : EngineSt) : Bool :=
  if x.miss.isSome then x.mode == .halted || x.mode == .hung || x.mode == .wedged else x.mode != .halted

/-- The pending events of an engine are a set (R810). -/
def EngineSt.eventsOk (x : EngineSt) : Prop := x.events.Nodup

/-- Every HDC has at most its two credits in use (R376). -/
def HdcPort.creditsOk (h : HdcPort) : Prop := ∀ src : HdcId, creditsUsed h src ≤ 2

/-- An engine that only a reset can bring back (R820, R832). -/
def EngineSt.stuck (x : EngineSt) : Bool := x.mode == .hung || x.mode == .wedged

/-- The input resets the engine (R871, R872, R870). -/
def Input.resetsEngine (e : Engine) : Input → Bool
  | .op (.engineReset e') => e == e'
  | .op .flr => true
  | .op .busReset => true
  | _ => false

/-! ### Frames -/

/-- Every byte of memory reads as before. -/
def sameMemory (s t : State) : Prop := ∀ a, memRead t.mem a = memRead s.mem a

/-- Every byte of memory outside the `n` bytes from `pa` reads as before. -/
def sameMemoryOutside (s t : State) (pa n : Nat) : Prop :=
  ∀ a, (a < pa ∨ pa + n ≤ a) → memRead t.mem a = memRead s.mem a

/-- Every engine but one is as before (R833: engines are independent). -/
def sameOtherEngines (s t : State) (e : Engine) : Prop := ∀ e', e' ≠ e → engineOf t e' = engineOf s e'

/-! ### Requests that are served at once -/

/-- The engine translates requests, and no fault of it waits: no handshake is under way, its context is not being terminated, no reset
of it waits, it is Idle or Running (R850, R842, R871, R833). -/
def servesNow (s : State) (e : Engine) : Bool :=
  (engineOf s e).phase == .quiet && !(engineOf s e).leaving && !(engineOf s e).resetting
    && ((engineOf s e).mode == .idle || (engineOf s e).mode == .running)

/-- No value that memory held before may still be used by the engine's walks: nothing was overwritten since its last
invalidation (R351, R371). -/
def nothingRetained (s : State) (e : Engine) : Bool := decide (s.history.length ≤ (engineOf s e).invMark)

/-- The access lies in one 4 KB page. -/
def inOnePage (a : Access) : Bool := decide (a.va.toNat % 4096 + accessSize a ≤ 4096)

/-- No request of the engine waits, so none keeps behind another (R150, D8). -/
def nothingWaits (s : State) (e : Engine) : Bool :=
  (engineOf s e).miss.isNone && (engineOf s e).outstanding.isEmpty && (engineOf s e).stalled.isEmpty && (engineOf s e).behind.isEmpty

/-- Nothing was written since the caches of both sides were flushed last (R154). -/
def nothingStale (s : State) : Bool := decide (s.history.length ≤ min s.gpuMark s.cpuMark)

/-- The processor has written nothing since the caches of both sides were flushed last (R154). -/
def cpuSettled (s : State) : Bool :=
  (s.history.take (s.history.length - min s.gpuMark s.cpuMark)).all fun o => o.writer.gpu

/-- The MOCS entry of an access alone makes it one that LLC caches: write-through or write-back, with a target of its own, and no skip
caching (R463, R470). It decides outside advanced contexts (R464). -/
def mocsInLlc (s : State) (a : Access) : Bool :=
  let m := gamMocsOf s a.eng a.mocs.toNat
  !a.gttControl && decide (2 ≤ field m 0 2) && decide (field m 2 2 ≠ 0) && decide (field m 8 3 = 0)

/-- No byte that the processor wrote is hidden from the access: it is a write, nothing of the processor's waits for a flush, or it is
coherent and cached in LLC by its MOCS entry (R154, R157). -/
def dataSettled (s : State) (a : Access) : Bool :=
  a.kind == .write || cpuSettled s || (a.coherent && mocsInLlc s a)

/-- A data access in one page, of a client without a read-only cache of its own (R155) and always under the tables of its context
(R300: not the display), with its data settled (R154), of an engine that serves it at once from memory as it is: the GTT
cache off, no page-fault mode in its MOCS entry (R360, R824). -/
def quietRequest (s : State) (a : Access) : Bool :=
  servesNow s a.eng && nothingWaits s a.eng && nothingRetained s a.eng && inOnePage a && !a.ifetch
    && a.client != .samplerCache && a.client != .instructionState && a.client != .displayOverlay
    && dataSettled s a && !s.params.gttCache
    && decide (field (gamMocsOf s a.eng a.mocs.toNat) 11 3 = 0)

/-- A request that is served at once and that TR-TT, which is off, does not translate (R391). -/
def plainRequest (s : State) (a : Access) : Bool := quietRequest s a && !trttOn s

/-- No memory request of any engine is in flight (R490). -/
def nothingInFlight (s : State) : Bool := allEngines.all fun e => (requestsInFlight s e).isEmpty

/-- Every copy of the context of a function and PASID that an engine may use is `x`, and there is one (R56, R57, R350). -/
def onlyContext (s : State) (e : Engine) (fn : BitVec 3) (pasid : BitVec 20) (x : IommuCtx) : Prop :=
  contextCopies s e fn pasid ≠ [] ∧ ∀ c ∈ contextCopies s e fn pasid, c = x

/-- No page-table entry of the address's page is held as a faulted one (R358). -/
def pageNotFaulted (s : State) (e : Engine) (va : QWord) : Prop :=
  ∀ p ∈ (engineOf s e).faulted, p.vaPage ≠ va.extractLsb' 12 36

/-! ### The tables of the page walks -/

/-- The ADDR field `e[HAW-1:lo]`, as an address (R312). -/
def addrField (haw lo : Nat) (e : QWord) : Nat := field e lo (haw - lo) * 2 ^ lo

/-- The QWord of the Global GTT that maps an address: entry va[31:12] of the table in GSM (R340). -/
def ggttSlot (s : State) (va : QWord) : Nat := s.params.gsmBase + 8 * field va 12 20

/-- The entry exists and is present. -/
def ggttPresent (s : State) (va : QWord) : Bool :=
  decide (8 * field va 12 20 + 8 ≤ s.params.gsmSize) && physExists s (ggttSlot s va) 8 && bit (mem64 s (ggttSlot s va)) 0

/-- The physical address a present Global GTT entry gives (R340). -/
def ggttTarget (s : State) (va : QWord) : Nat :=
  addrField s.params.haw 12 (mem64 s (ggttSlot s va)) + va.toNat % 4096

/-- The global address of DWord `k` of the context image that an LRCA addresses (R31, R80; log entry 73). -/
def imageVa (lrca : BitVec 20) (k : Nat) : QWord := BitVec.ofNat 64 ((lrca.toNat * 4096 + 4 * k) % 2 ^ 32)

/-- The Global GTT maps DWord `k` of the context image. -/
def imageMapped (s : State) (lrca : BitVec 20) (k : Nat) : Bool :=
  ggttPresent s (imageVa lrca k) && physExists s (ggttTarget s (imageVa lrca k)) 4

/-- The physical address of DWord `k` of the context image, where it is mapped. -/
def imageTarget (s : State) (lrca : BitVec 20) (k : Nat) : Nat := ggttTarget s (imageVa lrca k)

/-- The four bytes of DWord `k` of the image, if it is mapped, are no bytes of DWord `j`. -/
abbrev imageApart (s : State) (lrca : BitVec 20) (j k : Nat) : Prop :=
  imageMapped s lrca k = true →
    imageTarget s lrca k + 4 ≤ imageTarget s lrca j ∨ imageTarget s lrca j + 4 ≤ imageTarget s lrca k

/-- The slot of the entry of a level in the table at `base`: PT va[20:12], PD va[29:21], PDP va[38:30], PML4 va[47:39]
(R310). -/
def tableSlot (base : Nat) (va : QWord) (level : Nat) : Nat := base + 8 * field va (12 + 9 * (level - 1)) 9

/-- The entry in a slot exists and is present. -/
def slotPresent (s : State) (slot : Nat) : Bool := physExists s slot 8 && bit (mem64 s slot) 0

/-- The table that the entry in a slot points to. -/
def slotTable (s : State) (slot : Nat) : Nat := addrField s.params.haw 12 (mem64 s slot)

/-- The slot of the page-table entry of a legacy 32-bit walk: the PDP register that va[31:30] selects, then the page directory
(R341). -/
def pdSlot32 (s : State) (e : Engine) (va : QWord) : Nat :=
  tableSlot (addrField s.params.haw 12 (pdpRegister (pointersOf (engineOf s e)) va)) va 2

/-- The slot of the PTE of a legacy 32-bit walk. -/
def ptSlot32 (s : State) (e : Engine) (va : QWord) : Nat := tableSlot (slotTable s (pdSlot32 s e va)) va 1

/-- The slot of the PML4 entry of a four-level walk (R342, R343). -/
def pml4Slot (root : Nat) (va : QWord) : Nat := tableSlot root va 4
/-- The slot of the PDP entry. -/
def pdpSlot (s : State) (root : Nat) (va : QWord) : Nat := tableSlot (slotTable s (pml4Slot root va)) va 3
/-- The slot of the PD entry. -/
def pdSlot (s : State) (root : Nat) (va : QWord) : Nat := tableSlot (slotTable s (pdpSlot s root va)) va 2
/-- The slot of the PT entry. -/
def ptSlot (s : State) (root : Nat) (va : QWord) : Nat := tableSlot (slotTable s (pdSlot s root va)) va 1

/-- The entry points to a table: PS = 0 (R187). -/
def plainPointer (s : State) (slot : Nat) : Bool := slotPresent s slot && !bit (mem64 s slot) 7

/-- The page-directory entry points to a page table of 4 KB pages: PS = 0 and IPS = 0 (R187, R313). -/
def smallPages (s : State) (slot : Nat) : Bool := plainPointer s slot && !bit (mem64 s slot) 11

/-- A present legacy leaf that is no Null page (R322). -/
def legacyLeaf (s : State) (slot : Nat) : Bool := slotPresent s slot && !bit (mem64 s slot) 9

/-- A page-directory entry selects 64 KB pages, where they are enabled: bit 11 (R187, R313). -/
def selects64k (s : State) (slot : Nat) : Bool := bit (mem64 s slot) 11 && s.params.page64k

/-- The slot of the entry that maps a page of 2^k bytes in a legacy 32-bit walk (R313, R341). -/
def leafSlot32 (s : State) (e : Engine) (va : QWord) (k : Nat) : Nat :=
  if k = 16 then slotTable s (pdSlot32 s e va) + 8 * (16 * field va 16 5) else ptSlot32 s e va

/-- A legacy 32-bit walk reaches a page of 2^k bytes (R341, R313, R322). -/
def maps32 (s : State) (e : Engine) (va : QWord) (k : Nat) : Bool :=
  slotPresent s (pdSlot32 s e va) && selects64k s (pdSlot32 s e va) == decide (k = 16) && legacyLeaf s (leafSlot32 s e va k)

/-- The slot of the PT entry of a 64 KB page, by va[20:16] alone (R313). -/
def pt64Slot (s : State) (root : Nat) (va : QWord) : Nat := slotTable s (pdSlot s root va) + 8 * (16 * field va 16 5)

/-- The slot of the entry that maps a page of 2^k bytes (R312). -/
def leafSlot (s : State) (root : Nat) (va : QWord) (k : Nat) : Nat :=
  if k = 30 then pdpSlot s root va
  else if k = 21 then pdSlot s root va
  else if k = 16 then pt64Slot s root va
  else ptSlot s root va

/-- The slots of the entries above the leaf of a page of 2^k bytes. -/
def pointerSlots (s : State) (root : Nat) (va : QWord) (k : Nat) : List Nat :=
  pml4Slot root va :: ((if k = 30 then [] else [pdpSlot s root va]) ++ (if k = 30 ∨ k = 21 then [] else [pdSlot s root va]))

/-- A legacy 48-bit walk reaches the leaf of a page of 2^k bytes, a Null page or not (R342, R311, R313): of the entry in the PML4
nothing but P is examined. -/
def reaches48 (s : State) (root : Nat) (va : QWord) (k : Nat) : Bool :=
  slotPresent s (pml4Slot root va) && (pointerSlots s root va k).tail.all (plainPointer s)
    && slotPresent s (leafSlot s root va k) && (decide (k = 12 ∨ k = 16) || bit (mem64 s (leafSlot s root va k)) 7)
    && (decide (k = 30 ∨ k = 21) || selects64k s (pdSlot s root va) == decide (k = 16))

/-- A legacy 48-bit walk reaches a page of 2^k bytes that is no Null page (R322). -/
def maps48 (s : State) (root : Nat) (va : QWord) (k : Nat) : Bool :=
  reaches48 s root va k && !bit (mem64 s (leafSlot s root va k)) 9

/-- The physical address of a virtual one in the page of 2^k bytes to which a legacy 48-bit walk leads (R312). -/
def pageTarget (s : State) (root : Nat) (va : QWord) (k : Nat) : Nat :=
  addrField s.params.haw k (mem64 s (leafSlot s root va k)) + va.toNat % 2 ^ k

/-! ### The tables of TR-TT -/

/-- TR-TT translates the address for the render engine: it is on, with its mask at 1111b, and the address lies in the window (R391, R392).
The read of its tables is not refused (R824). -/
def trttTranslates (s : State) (va : QWord) : Bool :=
  trttOn s && !s.regs.lateBypass && decide (field s.regs.trvadr 4 4 = 15) && decide (field va 44 4 = field s.regs.trvadr 0 4)
    && decide (field (gamMocsOf s .rcs trttMocs) 11 3 = 0)

/-- The `n` bytes of a TR-TT entry at a virtual address outside the window, in a page of 2^k bytes, can be read (R394, R400). -/
def trttReadable (s : State) (root addr k n : Nat) : Bool :=
  let va : QWord := BitVec.ofNat 64 addr
  decide (field va 44 4 ≠ field s.regs.trvadr 0 4) && maps48 s root va k && physExists s (pageTarget s root va k) n

/-- The TR-TT entry of `n` bytes at a virtual address in a page of 2^k bytes. -/
def trttEntry (s : State) (root addr k n : Nat) : QWord := memReadLe s.mem (pageTarget s root (BitVec.ofNat 64 addr) k) n

/-- The virtual address of the L3 entry of an address (R400). -/
def trttL3Addr (s : State) (va : QWord) : Nat := field s.regs.l3Ptr 16 32 * 65536 + 8 * field va 35 9
/-- The virtual address of the L2 entry, from the L3 entry. -/
def trttL2Addr (e3 va : QWord) : Nat := field e3 12 36 * 4096 + 8 * field va 26 9
/-- The virtual address of the L1 entry, from the L2 entry. -/
def trttL1Addr (e2 va : QWord) : Nat := field e2 12 36 * 4096 + 4 * field va 16 10

/-! ### Advanced walks -/

/-- The entries of a four-level walk are present and select a page of 2^k bytes: PS at the PDP and PD levels, and bit 11 of the PD
entry where 64 KB pages are enabled (R187, R311, R313). -/
def selectsPage (s : State) (root : Nat) (va : QWord) (k : Nat) (en64k : Bool) : Bool :=
  (pointerSlots s root va k).all (fun slot => plainPointer s slot) && slotPresent s (leafSlot s root va k)
    && (decide (k = 12 ∨ k = 16) || bit (mem64 s (leafSlot s root va k)) 7)
    && (decide (k = 30 ∨ k = 21) || (bit (mem64 s (pdSlot s root va)) 11 && en64k) == decide (k = 16))

/-- An IA-32e entry lets a request pass: reserved bits 51:HAW are 0 (R331), U/S in user mode, R/W for a write in user mode or with
WPE (R320). -/
def entryAllows (s : State) (d : QWord) (x : IommuCtx) (write : Bool) (slot : Nat) : Bool :=
  decide (field (mem64 s slot) s.params.haw (52 - s.params.haw) = 0) && (bit d 8 || bit (mem64 s slot) 2)
    && (!write || (bit d 8 && !x.wpe) || bit (mem64 s slot) 1)

/-- The low address bits of a large leaf, which are reserved, are 0 (R331). -/
def leafLowClear (s : State) (slot k : Nat) : Bool :=
  let lo := if k = 16 then 12 else 13
  decide (field (mem64 s slot) lo (k - lo) = 0)

/-- An advanced walk of a data access reaches a page of 2^k bytes: the entries select it, and let the request pass (R343, R320,
R331). -/
def mapsAdvanced (s : State) (d : QWord) (x : IommuCtx) (write : Bool) (root : Nat) (va : QWord) (k : Nat) : Bool :=
  selectsPage s root va k x.fl64kpe
    && (leafSlot s root va k :: pointerSlots s root va k).all (entryAllows s d x write)
    && leafLowClear s (leafSlot s root va k) k

/-- With A/D management the flags of an entry need no change: A, EA where extended-accessed is enabled, and D for a write at the
leaf (R330). -/
def flagsSettled (s : State) (d : QWord) (x : IommuCtx) (leafWrite : Bool) (slot : Nat) : Bool :=
  !bit d 4 || (bit (mem64 s slot) 5 && (!x.eafe || bit (mem64 s slot) 10) && (!leafWrite || bit (mem64 s slot) 6))

/-! ### Larger families -/

/-- The page-table atomic of four opcode bits (R195, R420). -/
def pageUpdateInstr (i w e r : Bool) (a : AtomicArgs) : Instr :=
  match i, w, e, r with
  | false, false, false, false => .atomicPageUpdate0000 a
  | false, false, false, true => .atomicPageUpdate0001 a
  | false, false, true, false => .atomicPageUpdate0010 a
  | false, false, true, true => .atomicPageUpdate0011 a
  | false, true, false, false => .atomicPageUpdate0100 a
  | false, true, false, true => .atomicPageUpdate0101 a
  | false, true, true, false => .atomicPageUpdate0110 a
  | false, true, true, true => .atomicPageUpdate0111 a
  | true, false, false, false => .atomicPageUpdate1000 a
  | true, false, false, true => .atomicPageUpdate1001 a
  | true, false, true, false => .atomicPageUpdate1010 a
  | true, false, true, true => .atomicPageUpdate1011 a
  | true, true, false, false => .atomicPageUpdate1100 a
  | true, true, false, true => .atomicPageUpdate1101 a
  | true, true, true, false => .atomicPageUpdate1110 a
  | true, true, true, true => .atomicPageUpdate1111 a

/-- The entry may be updated by an atomic: it exists, and its memory is write-back and CD is 0, or bit 1 of the option register
says to ignore the type (R452). -/
def atomicAllowed (s : State) (a : AtomicArgs) : Bool :=
  physExists s a.pa.toNat 8 && (bit s.regs.adNonWb 1 || (decide (mtrrType s a.pa.toNat = .wb) && !contextCd s a.eng))

/-- The message Context Available of an engine (R34). -/
def availableOf (e : Engine) (w : Word) : Instr :=
  match e with
  | .rcs => .msgRcsContextAvailable w
  | .bcs => .msgBcsContextAvailable w
  | .vecs => .msgVecsContextAvailable w
  | .vcs0 => .msgVcs0ContextAvailable w
  | .vcs1 => .msgVcs1ContextAvailable w

/-- The message Context Receive Ready of an engine (R34). -/
def receiveReadyOf (e : Engine) (w : Word) : Instr :=
  match e with
  | .rcs => .msgRcsContextReceiveReady w
  | .bcs => .msgBcsContextReceiveReady w
  | .vecs => .msgVecsContextReceiveReady w
  | .vcs0 => .msgVcs0ContextReceiveReady w
  | .vcs1 => .msgVcs1ContextReceiveReady w

/-- The message Context Launched of an engine (R34). -/
def launchedOf (e : Engine) (w : Word) : Instr :=
  match e with
  | .rcs => .msgRcsContextLaunched w
  | .bcs => .msgBcsContextLaunched w
  | .vecs => .msgVecsContextLaunched w
  | .vcs0 => .msgVcs0ContextLaunched w
  | .vcs1 => .msgVcs1ContextLaunched w

/-- The message Context Confirmed of an engine (R34). -/
def confirmedOf (e : Engine) (w : Word) : Instr :=
  match e with
  | .rcs => .msgRcsContextConfirmed w
  | .bcs => .msgBcsContextConfirmed w
  | .vecs => .msgVecsContextConfirmed w
  | .vcs0 => .msgVcs0ContextConfirmed w
  | .vcs1 => .msgVcs1ContextConfirmed w

/-- The surface format of a 9-bit code of R651: width code V[5:3], height code V[2:0], Full profile V[8], FLT16 V[6]. -/
def astcFormatOf (v : Nat) : AstcFormat :=
  let size (c : Nat) : Nat := [4, 5, 6, 0, 8, 0, 10, 12].getD c 0
  ⟨size (v / 8 % 8), size (v % 8),
    if v / 256 % 2 = 1 then .fullFlt16 else if v / 64 % 2 = 1 then .ldrFlt16 else .u8srgb⟩

/-- The blocks of compressed textures, whatever the format (R540-R690). -/
def isTextureBlock : Instr → Bool
  | .etc1Individual _ _ => true
  | .etc1Differential _ _ => true
  | .etc2T _ _ => true
  | .etc2H _ _ => true
  | .etc2Planar _ _ => true
  | .etc2Rgb8Pta _ _ => true
  | .eacR11 _ _ => true
  | .etc2EacRgba8 _ _ => true
  | .eacRg11 _ _ => true
  | .fxt1CcHi _ _ => true
  | .fxt1CcChroma _ _ => true
  | .fxt1CcAlpha _ _ => true
  | .fxt1CcMixed _ _ => true
  | .dxt1FourColour _ _ => true
  | .dxt1ThreeColourTransparent _ _ => true
  | .dxt1Rgb _ _ => true
  | .dxt2Dxt3ExplicitAlpha _ _ => true
  | .dxt4Dxt5InterpolatedAlpha _ _ => true
  | .bc4 _ _ => true
  | .bc5 _ _ => true
  | .bc6hMode0 _ _ => true
  | .bc6hMode1 _ _ => true
  | .bc6hMode2 _ _ => true
  | .bc6hMode3 _ _ => true
  | .bc6hMode4 _ _ => true
  | .bc6hMode5 _ _ => true
  | .bc6hMode6 _ _ => true
  | .bc6hMode7 _ _ => true
  | .bc6hMode8 _ _ => true
  | .bc6hMode9 _ _ => true
  | .bc6hMode10 _ _ => true
  | .bc6hMode11 _ _ => true
  | .bc6hMode12 _ _ => true
  | .bc6hMode13 _ _ => true
  | .bc6hUndefined10011 _ _ => true
  | .bc6hUndefined10111 _ _ => true
  | .bc6hUndefined11011 _ _ => true
  | .bc6hUndefined11111 _ _ => true
  | .bc7Mode0 _ _ => true
  | .bc7Mode1 _ _ => true
  | .bc7Mode2 _ _ => true
  | .bc7Mode3 _ _ => true
  | .bc7Mode4 _ _ => true
  | .bc7Mode5 _ _ => true
  | .bc7Mode6 _ _ => true
  | .bc7Mode7 _ _ => true
  | .bc7Undefined _ _ => true
  | .astcVoidExtent2d _ => true
  | .astcReservedModeA _ => true
  | .astcReservedModeB _ => true
  | .astcModeWBp4HAp2 _ => true
  | .astcModeWBp8HAp2 _ => true
  | .astcModeWAp2HBp8 _ => true
  | .astcModeWAp2HBp6 _ => true
  | .astcModeWBp2HAp2 _ => true
  | .astcModeW12HAp2 _ => true
  | .astcModeWAp2H12 _ => true
  | .astcModeW6H10 _ => true
  | .astcModeW10H6 _ => true
  | .astcModeWAp6HBp6 _ => true
  | .astcCem0 _ => true
  | .astcCem1 _ => true
  | .astcCem2 _ => true
  | .astcCem3 _ => true
  | .astcCem4 _ => true
  | .astcCem5 _ => true
  | .astcCem6 _ => true
  | .astcCem7 _ => true
  | .astcCem8 _ => true
  | .astcCem9 _ => true
  | .astcCem10 _ => true
  | .astcCem11 _ => true
  | .astcCem12 _ => true
  | .astcCem13 _ => true
  | .astcCem14 _ => true
  | .astcCem15 _ => true
  | _ => false

/-- The width and height that the blocks of a port decode to: those of the ASTC surface format in force (R651), 8 by 4 for FXT1
(R560), else 4 by 4 (R540, R590, R605, R620). -/
def blockSize (s : State) (i : Instr) : Nat × Nat :=
  match i.port with
  | .astcMode => (s.astcFormat.width, s.astcFormat.height)
  | .astcCem => (s.astcFormat.width, s.astcFormat.height)
  | .fxt1 => (8, 4)
  | _ => (4, 4)

/-- The texels of a block row by row. -/
def TexelBlock.at (t : TexelBlock) (row col : Nat) : Texel :=
  t.texels.getD (t.width * row + col) ⟨.raw 0 0, .raw 0 0, .raw 0 0, .raw 0 0⟩

end Sys2Proof.Machine
end

