-- ==== Sys2Proof/Certificates/Slice0/Obligations.lean ====
section
/-! DEFINITION. The statements about the machine. `∀ a, memRead t.mem a = memRead s.mem a` is written `sameMemory s t`
(Sys2Proof/Safety.lean); an equation `exec i s = .next { s with … }` says that every field it does not name is unchanged. -/

open Sys2Proof Sys2Proof.Machine

/-! ### Encodings -/

/-- Decoding an encoded well-formed object at its port gives it back, with the bytes that follow it (R170, R195-R206, R300, R545,
R606, R620, R651, R657): no bit of an encoding or of an operand is dropped. -/
def Obligations.DecodeOfEncode : Prop :=
  ∀ (i : Instr) (rest : List Byte), i.wf = true → decode i.port (encode i ++ rest) = .ok (i, rest)

/-- Words written out from the encodings of the spec decode to their objects: opcode CDh (R195), the fault model of descriptor
0000_0022_0000_0093h (R31), the 2 MB PDE 4020_0083h (R175), the format code 17Fh (R651). -/
def Obligations.SpecWordsDecode : Prop :=
  (∀ a : AtomicArgs, a.wf = true → decode .atomicPage (0xCD :: a.put) = .ok (.atomicPageUpdate1101 a, [])) ∧
  (∀ a : FaultArgs, a.wf = true →
    decode .faultModel ([0x93, 0, 0, 0, 0x22, 0, 0, 0] ++ a.put) = .ok (.faultModelStreamSwitch 0x2200000093 a, [])) ∧
  (∀ a : Access, a.wf = true →
    decode .ia32ePd ([0x83, 0, 0x20, 0x40, 0, 0, 0, 0] ++ a.put) = .ok (.ia32ePde2mb 0x40200083 a, [])) ∧
  decode .astcFormat [0x7F, 0x01] = .ok (.astcFull2d12x12Flt16, [])

/-! ### The step -/

/-- When the bytes presented at a port decode to an object, the step is exec of that well-formed object on the machine with the
input taken; so is the step on a message from another unit. -/
def Obligations.StepRunsTheDecodedObject : Prop :=
  (∀ (s : State) (p : Port) (bs r : List Byte) (rest : List Input) (i : Instr),
    s.inputs = .object p bs :: rest → decode p bs = .ok (i, r) →
      i.wf = true ∧ step s = exec i { s with inputs := rest }) ∧
  (∀ (s : State) (rest : List Input) (i : Instr),
    s.inputs = .message i :: rest → step s = exec i { s with inputs := rest })

/-- A paging entry with P = 0, or a PML4 entry with reserved bit 7 set, at any of the IA-32e entry ports, under the GAM override, is
a page fault with code 01 (R801, R822): the bytes that are no entry of their port reach software as a page request with the level
that the decoder gives, and the engine halts; while a reset of the engine waits none is sent (R871). That the fault of an entry presented alone is taken as in an advanced context is the
model's choice (log entry 58); so is the one group index for each page request (log entry 61), and that an engine without a context halts
(log entry 96). -/
def Obligations.RejectedEntryIsAPageFault : Prop :=
  ∀ (s : State) (p : Port) (bs : List Byte) (rest : List Input) (a : Access) (level : Nat),
    p ∈ [Port.ia32ePml4, .ia32ePdp, .ia32ePd, .ia32ePt64, .ia32ePt4] →
    s.inputs = .object p bs :: rest → decode p bs = .error (.entryFault a level) →
    a.wf = true → bit s.regs.r404c 0 = true → a.useGgtt = false → a.client ≠ .displayOverlay →
    ((engineOf s a.eng).resetting = true → ∃ t, step s = .next t ∧ t.pageRequests = s.pageRequests ∧ sameMemory s t) ∧
    ((engineOf s a.eng).miss = none → (engineOf s a.eng).stuck = false → pageNotFaulted s a.eng a.va →
    (engineOf s a.eng).resetting = false →
    ∃ t q, step s = .next t ∧ t.pageRequests = s.pageRequests ++ [q] ∧ q.prg = s.nextPrg ∧ q.last = false ∧
      q.fault.code = 1 ∧ q.fault.eng = a.eng ∧ q.fault.level = level ∧ (engineOf t a.eng).mode = .halted ∧
      sameOtherEngines s t a.eng ∧ sameMemory s t)

/-! ### Invariants of every step -/

/-- Every step keeps memory in its canonical form. -/
def Obligations.StepKeepsMemoryCanonical : Prop :=
  ∀ s t : State, Memory.wf s.mem = true → step s = .next t → Memory.wf t.mem = true

/-- Every step keeps the reserved bits of the TR-TT registers (R41, R44, R45) and of the PCI capability registers (R68, R71, R73,
R74) at 0, and the sizes of the register banks (R23, R50, R52); that the bank of request counts has sixteen registers is the model's
choice (R22, log entry 45). -/
def Obligations.StepKeepsReservedBits : Prop :=
  ∀ s t : State, step s = .next t →
    (s.regs.trttReservedOk = true → t.regs.trttReservedOk = true) ∧
    (s.pci.reservedOk = true → t.pci.reservedOk = true) ∧
    (s.regs.banksOk = true → t.regs.banksOk = true)

/-- Every step keeps each engine Halted exactly while a request of it waits for a page response, unless it is Hung or Wedged
(R825, R833), and keeps its pending events a set (R810). -/
def Obligations.StepKeepsEngineInvariants : Prop :=
  ∀ s t : State, step s = .next t →
    ((∀ e, (engineOf s e).haltOk = true) → ∀ e, (engineOf t e).haltOk = true) ∧
    ((∀ e, (engineOf s e).eventsOk) → ∀ e, (engineOf t e).eventsOk)

/-- Every step keeps every HDC within its two credits (R376). -/
def Obligations.StepKeepsHdcCredits : Prop :=
  ∀ s t : State, s.hdc.creditsOk → step s = .next t → t.hdc.creditsOk

/-- From Hung or Wedged only a reset leads out (R820, R832, R833): every other step leaves a Hung engine Hung and a Wedged one
Wedged. -/
def Obligations.OnlyResetUnsticksAnEngine : Prop :=
  ∀ (s t : State) (e : Engine) (i : Input) (rest : List Input),
    s.inputs = i :: rest → i.resetsEngine e = false → (engineOf s e).stuck = true → step s = .next t →
    (engineOf t e).mode = (engineOf s e).mode

/-- The reset state meets every invariant. -/
def Obligations.ResetMeetsTheInvariants : Prop :=
  Memory.wf State.reset.mem = true ∧ State.reset.regs.trttReservedOk = true ∧ State.reset.pci.reservedOk = true ∧
  State.reset.regs.banksOk = true ∧ (∀ e, (engineOf State.reset e).haltOk = true) ∧
  (∀ e, (engineOf State.reset e).eventsOk) ∧ State.reset.hdc.creditsOk

/-! ### Memory -/

/-- A value stored at a physical address reads back, and every other byte is unchanged (R130). -/
def Obligations.StoreThenLoad : Prop :=
  ∀ (s : State) (pa : Nat) (v : QWord) (w : Writer),
    sameMemoryOutside s (store s pa 8 v w) pa 8 ∧
    (Memory.wf s.mem = true → mem64 (store s pa 8 v w) pa = v ∧ Memory.wf (store s pa 8 v w).mem = true)

/-! ### Reset -/

/-- The L3 control table after reset holds the words of R51, entry i the one of row i mod 16, each composed of L3CC, SCC and ESC
as R51 composes it. -/
def Obligations.ResetL3ControlTable : Prop :=
  let word (l3cc scc esc : Nat) : Nat := l3cc * 16 + scc * 2 + esc
  let rows : List Nat := [word 0 0 0, word 1 0 0, word 1 1 1, word 1 3 1, word 1 7 1, word 2 0 0, word 1 1 1, word 1 3 1,
    word 1 7 1, word 3 0 0, word 1 1 1, word 1 3 1, word 1 7 1, word 0 0 0, word 0 0 0, word 0 0 0]
  ∀ i, i < 64 → (State.reset.regs.lncf.getD i 0).toNat = rows.getD (i % 16) 0

/-- A device reset (R872, R873, R85) completes from every state in which no page request is at the MMIO registers (R871, log entry 37);
with one there it waits for software, as an engine reset does, and no engine sends a new page request meanwhile. It leaves: every engine is Idle with no context, nothing waiting and no
pending event; no translation is retained and no cached context; the counter of the PASID of each engine that ran an advanced
context is decremented; the TR-TT registers and the bypass bit are 0; the L3 control table and bits 13:0 of entries 0 to 31 of
every memory-interface control block are at their defaults; the PASID, ATS and Page Request control and status registers and the
allocation register are 0 (R68, R71, R73-R75); the IOMMU contexts and the page request queue are unchanged, and, with no request in
flight, every byte of memory (R880). That the PASID, ATS and Page Request registers are 0 is presumed from PCI Express in general
(log entry 51; R872, G15). That a register's Default Value is its value after a device reset is decision D7. -/
def Obligations.DeviceResetLeaves : Prop :=
  ∀ (s : State) (rest : List Input), s.inputs = .op .flr :: rest →
    ((∃ e, (engineOf s e).mmioRequests ≠ []) →
      ∃ t, step s = .next t ∧ (∀ e, engineOf t e = { engineOf s e with resetting := true }) ∧
        t = { s with inputs := rest, engines := t.engines, flrPending := true }) ∧
    ((∀ e, (engineOf s e).mmioRequests = []) →
    ∃ t, step s = .next t ∧ t.flrPending = false ∧
      (∀ e, (engineOf t e).resetting = false ∧ (engineOf t e).mode = .idle ∧ (engineOf t e).ctx = none ∧ (engineOf t e).phase = .quiet ∧
        (engineOf t e).miss = none ∧ (engineOf t e).outstanding = [] ∧ (engineOf t e).stalled = [] ∧
        (engineOf t e).behind = [] ∧ (engineOf t e).events = [] ∧ (engineOf t e).pasidCache = none ∧ nothingRetained t e = true) ∧
      t.contextCache = [] ∧
      t.pasidCounts = allEngines.foldl (fun l e =>
        if runsAdvanced (engineOf s e) then addPasidCount (pasidOf (engineOf s e)) (-1) l else l) s.pasidCounts ∧
      t.regs.l3Ptr = 0 ∧ t.regs.nullTile = 0 ∧ t.regs.invalidTile = 0 ∧ t.regs.trvadr = 0 ∧ t.regs.trtte = 0 ∧
      bit t.regs.r4dfc 0 = false ∧ t.regs.lncf = State.reset.regs.lncf ∧
      (∀ b i, b < 8 → i < 32 →
        (t.regs.gamMocs.getD (64 * b + i) 0).extractLsb' 0 14 = (gamMocsPeriod.getD (i % 16) 0).extractLsb' 0 14) ∧
      t.pci.pasidControl = 0 ∧ t.pci.atsControl = 0 ∧ t.pci.priControl = 0 ∧ t.pci.priStatus = 0 ∧ t.pci.priAllocation = 0 ∧
      t.iommu = s.iommu ∧ t.pageRequests = s.pageRequests ∧
      (nothingInFlight { s with inputs := rest } = true → sameMemory s t))

/-- An engine reset (R871, R833, R35, R85): the engine is Idle with no context and nothing waiting, its pending events, its retained
translations and its PASID Cache stay, the other engines are as before, and the counter of the PASID of an advanced context is
decremented; with no request of it in flight, no byte of memory changes. With a page request of the engine at the MMIO registers (log
entry 37) the reset does not complete: its mode and context stay, and nothing but the mark of the pending reset changes. That the PASID
Cache stays is the model's inference (log entry 43): R871 lists translations and the HDC mini-TLBs only. That the engine's own block of GAM_MOCS
and the TR-TT registers stay with the other registers is the model's choice (log entry 37). -/
def Obligations.EngineResetLeaves : Prop :=
  ∀ (s : State) (e : Engine) (rest : List Input),
    s.inputs = .op (.engineReset e) :: rest →
    ((engineOf s e).mmioRequests ≠ [] →
      ∃ t, step s = .next t ∧ engineOf t e = { engineOf s e with resetting := true } ∧
        t = { s with inputs := rest, engines := t.engines } ∧ sameOtherEngines s t e) ∧
    ((engineOf s e).mmioRequests = [] → inFlight { s with inputs := rest } e = [] →
    ∃ t, step s = .next t ∧ (engineOf t e).mode = .idle ∧ (engineOf t e).ctx = none ∧ (engineOf t e).phase = .quiet ∧
      (engineOf t e).miss = none ∧ (engineOf t e).outstanding = [] ∧ (engineOf t e).stalled = [] ∧
      (engineOf t e).behind = [] ∧ (engineOf t e).events = (engineOf s e).events ∧ (engineOf t e).invMark = (engineOf s e).invMark ∧
      (engineOf t e).pasidCache = (engineOf s e).pasidCache ∧ t.contextCache = s.contextCache ∧ t.history = s.history ∧
      sameOtherEngines s t e ∧ sameMemory s t ∧ t.pageRequests = s.pageRequests ∧ t.regs = s.regs ∧ t.pci = s.pci ∧
      t.pasidCounts =
        (if runsAdvanced (engineOf s e) then addPasidCount (pasidOf (engineOf s e)) (-1) s.pasidCounts else s.pasidCounts))

/-! ### Page-table atomics -/

/-- The sixteen page-table atomics (R420), Atomic_Page_update_iwer: what each does to the entry q at the operand address, bit by
bit. With P = 0, and for a refused write of a pointer entry, nothing is written and q is returned. Otherwise A is set, EA where e
= 1, D where r = 1 at a leaf whose write is not refused; every other bit is as in q, and the new value is returned. Every byte of
memory outside the entry, and all other state, is unchanged. -/
def Obligations.PageAtomicSetsFlags : Prop :=
  ∀ (s : State) (i w e r : Bool) (a : AtomicArgs), Memory.wf s.mem = true → atomicAllowed s a = true →
    ∃ t, exec (pageUpdateInstr i w e r a) s = .next t ∧
      (let pa := a.pa.toNat
       let q := mem64 s pa
       let new := mem64 t pa
       let leaf := !i || bit q 7
       let refused := r && w && !bit q 1
       t.atomicReturn = new ∧
       (bit q 0 = false ∨ (refused = true ∧ leaf = false) → new = q ∧ t.mem = s.mem) ∧
       (bit q 0 = true ∧ (refused = false ∨ leaf = true) →
         bit new 5 = true ∧ bit new 10 = (bit q 10 || e) ∧ bit new 6 = (bit q 6 || (r && leaf && !refused)) ∧
         ∀ k, k < 64 → k ≠ 5 → k ≠ 6 → k ≠ 10 → bit new k = bit q k) ∧
       sameMemoryOutside s t pa 8 ∧
       t = { s with mem := t.mem, history := t.history, atomicReturn := t.atomicReturn })

/-- The second family (R441-R448), Atomic_A_update_000 to _100 and Atomic_AD_update_101 to _111: A is set in a present entry;
the write forms set A and D, 101 and 110 only where R/W = 1, 111 whatever R/W is; nothing else changes. -/
def Obligations.AccessedDirtyUpdates : Prop :=
  ∀ (s : State) (a : AtomicArgs), Memory.wf s.mem = true → atomicAllowed s a = true →
    let pa := a.pa.toNat
    let q := mem64 s pa
    let result (i : Instr) (new : QWord) : Prop :=
      ∃ t, exec i s = .next t ∧ mem64 t pa = new ∧ t.atomicReturn = new ∧ sameMemoryOutside s t pa 8 ∧
        t = { s with mem := t.mem, history := t.history, atomicReturn := t.atomicReturn }
    let read := if bit q 0 then q ||| 0x20 else q
    let write := if bit q 0 && bit q 1 then q ||| 0x60 else q
    let anyWrite := if bit q 0 then q ||| 0x60 else q
    result (.atomicAUpdate000 a) read ∧ result (.atomicAUpdate001 a) read ∧ result (.atomicAUpdate010 a) read ∧
    result (.atomicAUpdate011 a) read ∧ result (.atomicAUpdate100 a) read ∧ result (.atomicAdUpdate101 a) write ∧
    result (.atomicAdUpdate110 a) write ∧ result (.atomicAdUpdate111 a) anyWrite

/-- An update in memory that is not write-back, or with CD = 1, is aborted (R452, R845): no byte of memory changes, the
catastrophic error is pending, the engine is Wedged and its context in error. R452 and R845 speak of the accessed and dirty bits: that an
atomic which would change EA alone is aborted too is the model's choice (log entry 92), and so is that the event of an atomic presented as
an object carries the entry's address (log entry 71). -/
def Obligations.AtomicInNonWbMemoryAborts : Prop :=
  ∀ (s : State) (i w e r : Bool) (a : AtomicArgs),
    physExists s a.pa.toNat 8 = true → atomicAllowed s a = false →
    pageAtomic i w e r (mem64 s a.pa.toNat) ≠ mem64 s a.pa.toNat → (engineOf s a.eng).stuck = false →
    ∃ t, exec (pageUpdateInstr i w e r a) s = .next t ∧ sameMemory s t ∧ (engineOf t a.eng).mode = .wedged ∧
      (engineOf t a.eng).contextBad = true ∧ sameOtherEngines s t a.eng ∧
      ∃ id, .catastrophic .adUpdateNonWb id a.pa ∈ (engineOf t a.eng).events

/-! ### Requests under a descriptor -/

/-- CTX_LEGACY_GGTT, and the host's aperture: an access in the Global GTT (R300, R340). Where entry va[31:12] of the table in GSM is present, PA = its ADDR
with va[11:0]: a read returns the bytes there, a write stores its bytes there and only there, without a permission check (R321).
Where the entry is not present (R802, R820) and HANG_SKIP is off, the engine is Hung, the legacy page fault is pending, the
request never completes, and no byte of memory changes. A byte that the host reads or writes through GMADR (R104) takes the same
table at its offset in the aperture; where one fence covers that offset (R23, R280), at the place of the byte in the tiled region:
the host sees there a linear surface of the fence's pitch. -/
def Obligations.GgttAccess : Prop :=
  ∀ s : State, Memory.wf s.mem = true →
    (∀ (d : QWord) (a : Access), plainRequest s a = true →
    let pa := ggttTarget s a.va
    (ggttPresent s a.va = true → physExists s pa (accessSize a) = true →
      (a.kind = .read →
        ∃ t, exec (.ctxLegacyGgtt d a) s = .next t ∧ t.completion.status = .done ∧ t.completion.pa = pa ∧
          t.completion.data = memReadLe s.mem pa (accessSize a) ∧ t.completion.nullIndicator = false ∧
          sameMemory s t ∧ t = { s with completion := t.completion, draws := t.draws }) ∧
      (a.kind = .write →
        ∃ t, exec (.ctxLegacyGgtt d a) s = .next t ∧ t.completion.status = .done ∧
          (∀ k, k < accessSize a → memRead t.mem (pa + k) = byteAt a.data k) ∧ sameMemoryOutside s t pa (accessSize a) ∧
          t = { s with mem := t.mem, history := t.history, completion := t.completion, draws := t.draws })) ∧
    (s.params.hangSkip = false → 8 * field a.va 12 20 + 8 ≤ s.params.gsmSize → physExists s (ggttSlot s a.va) 8 = true →
      bit (mem64 s (ggttSlot s a.va)) 0 = false →
      ∃ t, exec (.ctxLegacyGgtt d a) s = .next t ∧ (engineOf t a.eng).mode = .hung ∧
        .legacyPageFault a.va (a.kind != .read) 1 ∈ (engineOf t a.eng).events ∧ t.completion.status = .never ∧
        sameMemory s t ∧ sameOtherEngines s t a.eng ∧
        t = { s with engines := t.engines, completion := t.completion, draws := t.draws })) ∧
    (∀ (g : Nat) (data : QWord) (rest : List Input) (f : Fence), g < s.params.gmadrSize →
      (∀ e, nothingRetained s e = true) → nothingStale s = true →
      let width := if f.walkY then 128 else 512
      let height := if f.walkY then 32 else 8
      let y := (g - f.base) / (f.pitch * width)
      let x := (g - f.base) % (f.pitch * width)
      let inTile := if f.walkY then 512 * (x % 128 / 16) + 16 * (y % 32) + x % 16 else 512 * (y % 8) + x % 512
      let fenced := f.base + 4096 * (f.pitch * (y / height) + x / width) + inTile
      ∀ la : Nat,
        (s.regs.fences.filter (fenceCovers g) = [] ∧ la = g) ∨
          (s.regs.fences.filter (fenceCovers g) = [f] ∧ 0 < f.pitch ∧ f.pitch * width ≤ 262144 ∧ la = fenced) →
        la < 2 ^ 32 → ggttPresent s (BitVec.ofNat 64 la) = true → physExists s (ggttTarget s (BitVec.ofNat 64 la)) 1 = true →
        (s.inputs = .op (.hostAccess false (s.params.gmadrBase + g) 1 data) :: rest →
          ∃ t, step s = .next t ∧ t.completion.status = .done ∧
            t.completion.data = (memRead s.mem (ggttTarget s (BitVec.ofNat 64 la))).setWidth 64 ∧ sameMemory s t ∧
            t = { s with inputs := rest, completion := t.completion, draws := t.draws }) ∧
        (s.inputs = .op (.hostAccess true (s.params.gmadrBase + g) 1 data) :: rest →
          ∃ t, step s = .next t ∧ memRead t.mem (ggttTarget s (BitVec.ofNat 64 la)) = byteAt data 0 ∧
            sameMemoryOutside s t (ggttTarget s (BitVec.ofNat 64 la)) 1 ∧
            t = { s with inputs := rest, mem := t.mem, history := t.history, completion := t.completion, draws := t.draws }))

/-- CTX_LEGACY_PPGTT32: an access in a legacy 32-bit context (R341): the PDP register of va[31:30], the page directory entry of
va[29:21], the page table entry of va[20:12], or of va[20:16] for a 64 KB page (R313). A read returns the bytes of the page; a write
with R/W = 1 in the leaf (R321) stores its bytes there and only there; one with R/W = 0 there is a fault with code 11, and with
HANG_SKIP off it hangs the engine (R820). That the leaf's R/W bit alone is enforced in a legacy context is decision D14. -/
def Obligations.Ppgtt32Access : Prop :=
  ∀ (s : State) (d : QWord) (a : Access), Memory.wf s.mem = true → plainRequest s a = true → a.useGgtt = false → ∀ k ∈ [12, 16],
    let leaf := leafSlot32 s a.eng a.va k
    let pa := addrField s.params.haw k (mem64 s leaf) + a.va.toNat % 2 ^ k
    maps32 s a.eng a.va k = true →
    (a.kind = .write → bit (mem64 s leaf) 1 = false → s.params.hangSkip = false →
      ∃ t, exec (.ctxLegacyPpgtt32 d a) s = .next t ∧ (engineOf t a.eng).mode = .hung ∧
        .legacyPageFault a.va true 3 ∈ (engineOf t a.eng).events ∧ t.completion.status = .never ∧ sameMemory s t ∧
        sameOtherEngines s t a.eng ∧ t = { s with engines := t.engines, completion := t.completion, draws := t.draws }) ∧
    (physExists s pa (accessSize a) = true → a.kind = .read →
      ∃ t, exec (.ctxLegacyPpgtt32 d a) s = .next t ∧ t.completion.status = .done ∧ t.completion.pa = pa ∧
        t.completion.data = memReadLe s.mem pa (accessSize a) ∧ sameMemory s t ∧
        t = { s with completion := t.completion, draws := t.draws }) ∧
    (physExists s pa (accessSize a) = true → a.kind = .write → bit (mem64 s leaf) 1 = true →
      ∃ t, exec (.ctxLegacyPpgtt32 d a) s = .next t ∧ t.completion.status = .done ∧
        (∀ k, k < accessSize a → memRead t.mem (pa + k) = byteAt a.data k) ∧ sameMemoryOutside s t pa (accessSize a) ∧
        t = { s with mem := t.mem, history := t.history, completion := t.completion, draws := t.draws })

/-- CTX_LEGACY_PPGTT48: an access in a legacy 48-bit context (R342): four levels from the PML4 register, to a page of 4 KB, 64 KB, 2 MB
or 1 GB (R311-R313). A read returns the bytes of the page; a write checks R/W in the leaf alone (R321): with R/W = 1 there it stores
its bytes at the page and only there; with R/W = 0 there it is a fault with code 11, and with HANG_SKIP off it hangs the engine
(R820). The leaf's R/W bit alone is decision D14, the Page Size bit of the large pages D11, and that their reserved cells are not checked
D15. -/
def Obligations.Ppgtt48Access : Prop :=
  ∀ (s : State) (d : QWord) (a : Access), Memory.wf s.mem = true → plainRequest s a = true → a.useGgtt = false →
    ∀ k ∈ [12, 16, 21, 30],
    let root := addrField s.params.haw 12 (pointersOf (engineOf s a.eng)).pdp0
    let leaf := leafSlot s root a.va k
    let pa := addrField s.params.haw k (mem64 s leaf) + a.va.toNat % 2 ^ k
    maps48 s root a.va k = true →
    (a.kind = .write → bit (mem64 s leaf) 1 = false → s.params.hangSkip = false →
      ∃ t, exec (.ctxLegacyPpgtt48 d a) s = .next t ∧ (engineOf t a.eng).mode = .hung ∧
        .legacyPageFault a.va true 3 ∈ (engineOf t a.eng).events ∧ t.completion.status = .never ∧ sameMemory s t ∧
        sameOtherEngines s t a.eng ∧ t = { s with engines := t.engines, completion := t.completion, draws := t.draws }) ∧
    (physExists s pa (accessSize a) = true → a.kind = .read →
      ∃ t, exec (.ctxLegacyPpgtt48 d a) s = .next t ∧ t.completion.status = .done ∧ t.completion.pa = pa ∧
        t.completion.data = memReadLe s.mem pa (accessSize a) ∧ sameMemory s t ∧
        t = { s with completion := t.completion, draws := t.draws }) ∧
    (physExists s pa (accessSize a) = true → a.kind = .write → bit (mem64 s leaf) 1 = true →
      ∃ t, exec (.ctxLegacyPpgtt48 d a) s = .next t ∧ t.completion.status = .done ∧
        (∀ k, k < accessSize a → memRead t.mem (pa + k) = byteAt a.data k) ∧ sameMemoryOutside s t pa (accessSize a) ∧
        t = { s with mem := t.mem, history := t.history, completion := t.completion, draws := t.draws })

/-- CTX_ADVANCED (R343, R311, R312, R320, R330, R331): four levels from the PML4 that the IOMMU supplies for the function and PASID,
to a page of 4 KB, 64 KB, 2 MB or 1 GB, in user or supervisor mode. Where every entry is present, has its reserved bits 0 and lets
the request pass, and A/D management is off or has no flag to set, a read returns the bytes of the page and a write stores its bytes
there and only there. Where A/D management must set flags in the leaf alone (R330, R452), a read sets A, and EA if it is
enabled, in that entry and changes no other byte. Where it must set them in any entries of the walk, an access to a page that
holds none of these sets A, and EA if it is enabled, in each of them, and a write D in the leaf too; a write stores its bytes, and no
other byte changes. What a read sees is stated where the processor has written nothing since the last flush of both sides: whether LLC caches
the page, without which no access is coherent (R154), is the page table's to say (R464). -/
def Obligations.AdvancedRead : Prop :=
  ∀ (s : State) (d : QWord) (a : Access) (x : IommuCtx), Memory.wf s.mem = true →
    plainRequest s a = true → a.useGgtt = false → (a.kind = .write ∨ cpuSettled s = true) →
    onlyContext s a.eng (d.extractLsb' 9 3) (pasidOf (engineOf s a.eng)) x →
    ∀ k ∈ [12, 16, 21, 30],
    (let root := addrField s.params.haw 12 x.pml4
     let leaf := leafSlot s root a.va k
     let pa := addrField s.params.haw k (mem64 s leaf) + a.va.toNat % 2 ^ k
     let write := a.kind != .read
     let slots := leaf :: pointerSlots s root a.va k
     let outside (b : Nat) : Prop := ∀ slot ∈ slots, b < slot ∨ slot + 8 ≤ b
     mapsAdvanced s d x write root a.va k = true → physExists s pa (accessSize a) = true →
     ((pointerSlots s root a.va k).all (flagsSettled s d x false) = true →
       (flagsSettled s d x write leaf = true →
         (a.kind = .read →
           ∃ t, exec (.ctxAdvanced d a) s = .next t ∧ t.completion.status = .done ∧ t.completion.pa = pa ∧
             t.completion.data = memReadLe s.mem pa (accessSize a) ∧ sameMemory s t ∧
             t = { s with completion := t.completion, draws := t.draws }) ∧
         (a.kind = .write →
           ∃ t, exec (.ctxAdvanced d a) s = .next t ∧ t.completion.status = .done ∧
             (∀ j, j < accessSize a → memRead t.mem (pa + j) = byteAt a.data j) ∧ sameMemoryOutside s t pa (accessSize a) ∧
             t = { s with mem := t.mem, history := t.history, completion := t.completion, draws := t.draws })) ∧
       (flagsSettled s d x write leaf = false → a.kind = .read → adUpdateAllowed s leaf x.cd = true →
         ∃ t, exec (.ctxAdvanced d a) s = .next t ∧ t.completion.status = .done ∧ t.completion.pa = pa ∧
           t.completion.data = memReadLe t.mem pa (accessSize a) ∧ sameMemoryOutside s t leaf 8 ∧
           (∀ j, j < 64 → bit (mem64 t leaf) j = (bit (mem64 s leaf) j || decide (j = 5) || (x.eafe && decide (j = 10)))) ∧
           t = { s with mem := t.mem, history := t.history, completion := t.completion, draws := t.draws })) ∧
     (bit d 4 = true → a.kind ≠ .atomic → slots.Nodup →
       (∀ slot ∈ slots, adUpdateAllowed s slot x.cd = true ∨ flagsSettled s d x (write && slot == leaf) slot = true) →
       (∀ slot ∈ slots, pa + accessSize a ≤ slot ∨ slot + 8 ≤ pa) →
       ∃ t, exec (.ctxAdvanced d a) s = .next t ∧ t.completion.status = .done ∧ t.completion.pa = pa ∧
         (∀ slot ∈ slots, ∀ j, j < 64 → bit (mem64 t slot) j =
           (bit (mem64 s slot) j || decide (j = 5) || (x.eafe && decide (j = 10)) || (write && slot == leaf && decide (j = 6)))) ∧
         (a.kind = .read → t.completion.data = memReadLe s.mem pa (accessSize a) ∧
           ∀ b, outside b → memRead t.mem b = memRead s.mem b) ∧
         (a.kind = .write → (∀ j, j < accessSize a → memRead t.mem (pa + j) = byteAt a.data j) ∧
           ∀ b, outside b → (b < pa ∨ pa + accessSize a ≤ b) → memRead t.mem b = memRead s.mem b) ∧
         t = { s with mem := t.mem, history := t.history, completion := t.completion, draws := t.draws }))

/-- CTX_LEGACY_PPGTT48 at a Null page of 4 KB, 64 KB, 2 MB or 1 GB (R322, R807): a read gives zeros with the null indicator, a write is
dropped, whatever R/W is; no fault, no byte of memory changes, and nothing but the completion does. -/
def Obligations.NullPageReadsZeroAndDropsWrites : Prop :=
  ∀ (s : State) (d : QWord) (a : Access),
    plainRequest s a = true → a.kind ≠ .atomic → a.useGgtt = false → ∀ k ∈ [12, 16, 21, 30],
    (let root := addrField s.params.haw 12 (pointersOf (engineOf s a.eng)).pdp0
     reaches48 s root a.va k = true → bit (mem64 s (leafSlot s root a.va k)) 9 = true →
     ∃ t, exec (.ctxLegacyPpgtt48 d a) s = .next t ∧ t.completion.status = .nullPage ∧ t.completion.data = 0 ∧
       t.completion.nullIndicator = true ∧ t.completion.code = 0 ∧ sameMemory s t ∧
       t = { s with completion := t.completion, draws := t.draws })

/-- A request of a Hung engine never completes and changes no byte of memory (R820), whatever its descriptor; the engine keeps
it waiting. -/
def Obligations.HungEngineServesNothing : Prop :=
  ∀ (s : State) (d : QWord) (a : Access),
    (engineOf s a.eng).mode = .hung → (engineOf s a.eng).phase = .quiet →
    ∀ i ∈ [Instr.ctxLegacyGgtt d a, .ctxLegacyPpgtt32 d a, .ctxLegacyPpgtt48 d a, .ctxAdvanced d a],
      ∃ t, exec i s = .next t ∧ t.completion.status = .never ∧ sameMemory s t ∧ (engineOf t a.eng).mode = .hung ∧
        sameOtherEngines s t a.eng ∧ t = { s with engines := t.engines, completion := t.completion }

/-- ELEMENT_DESCRIPTOR (R30-R33, R850): between Context Receive Ready and Context Launched the engine's five descriptor registers
take the values written; at any other time the write has no effect. Nothing else changes. -/
def Obligations.DescriptorWrite : Prop :=
  ∀ (s : State) (d : QWord) (a : DescArgs),
    ∃ t, exec (.elementDescriptor d a) s = .next t ∧ sameOtherEngines s t a.eng ∧ t = { s with engines := t.engines } ∧
      engineOf t a.eng =
        (if (engineOf s a.eng).phase = .ready then
          { engineOf s a.eng with regs := ⟨d, a.pdp0, a.pdp1, a.pdp2, a.pdp3⟩ }
        else engineOf s a.eng)

/-! ### Faults -/

/-- FAULT_MODEL_* and FAULT_CODE_* in a legacy context (R820, R821): whatever the Fault Model, a fault with a code other than 00
hangs the engine when HANG_SKIP is off: it is Hung, the event is pending, the request never completes, no byte of memory
changes. -/
def Obligations.LegacyFaultHangs : Prop :=
  ∀ (s : State) (d : QWord) (a : FaultArgs) (i : Instr) (code : BitVec 2),
    s.params.hangSkip = false → (engineOf s a.acc.eng).stuck = false → code ≠ 0 →
    ((bit d 3 = true ∧ code = a.code ∧
        i ∈ [Instr.faultModelHang d a, .faultModelHalt d a, .faultModelStreamSwitch d a, .faultModelReserved d a]) ∨
      (bit (pointersOf (engineOf s a.acc.eng)).desc 3 = true ∧
        (i, code) ∈ [(Instr.faultCodeNotPresentOrReserved a, 1), (.faultCodePrivilege a, 2),
          (.faultCodeWritePermission a, 3)])) →
    ∃ t, exec i s = .next t ∧ (engineOf t a.acc.eng).mode = .hung ∧
      .legacyPageFault a.acc.va (a.acc.kind != .read) code ∈ (engineOf t a.acc.eng).events ∧
      t.completion.status = .never ∧ sameMemory s t ∧ sameOtherEngines s t a.acc.eng ∧
      t = { s with engines := t.engines, completion := t.completion }

/-- FAULT_MODEL_* and FAULT_CODE_* in an advanced context where the fault mode is Fault-and-Halt (R821, R822, R825): under the GAM
override 0x404C[0] = 1 whatever the Fault Model; else with Fault Model 01, and with 10 for a client that is not stream capable.
The page request {code, engine, PASID, Context ID, page, write, ER, PR, level} joins the queue with a new group index, the request
waits at the top of the miss queue, the engine is Halted; no byte of memory changes and no state is saved. While a reset of the engine
waits no page request is sent (R871); that the request joins the stalled ones meanwhile, its completion waiting, and that nothing else
changes, is the model's inference (log entry 37). That each page request has a group index of its own is log entry 61, and that an engine
with no context halts too is log entry 96. -/
def Obligations.AdvancedFaultHalts : Prop :=
  ∀ (s : State) (d : QWord) (a : FaultArgs) (i : Instr) (code : BitVec 2),
    (bit s.regs.r404c 0 = true ∨ field d 6 2 = 1 ∨
      (field d 6 2 = 2 ∧ ¬(a.acc.client = .hdc ∧ a.acc.coherent = true) ∧ a.acc.client ≠ .instructionState)) →
    bit d 3 = false → a.acc.useGgtt = false → a.acc.client ≠ .displayOverlay →
    code ≠ 0 →
    ((code = a.code ∧
        i ∈ [Instr.faultModelHang d a, .faultModelHalt d a, .faultModelStreamSwitch d a, .faultModelReserved d a]) ∨
      (d = (pointersOf (engineOf s a.acc.eng)).desc ∧
        (i, code) ∈ [(Instr.faultCodeNotPresentOrReserved a, 1), (.faultCodePrivilege a, 2),
          (.faultCodeWritePermission a, 3)])) →
    ((engineOf s a.acc.eng).resetting = true →
      ∃ t r, exec i s = .next t ∧ r.acc = a.acc ∧ t.completion.status = .waiting ∧
        engineOf t a.acc.eng = { engineOf s a.acc.eng with stalled := (engineOf s a.acc.eng).stalled ++ [r] } ∧
        sameOtherEngines s t a.acc.eng ∧ t = { s with engines := t.engines, completion := t.completion }) ∧
    ((engineOf s a.acc.eng).miss = none → (engineOf s a.acc.eng).stuck = false → pageNotFaulted s a.acc.eng a.acc.va →
    (engineOf s a.acc.eng).resetting = false →
    ∃ t q, exec i s = .next t ∧ t.pageRequests = s.pageRequests ++ [q] ∧
      q = { prg := s.nextPrg, last := false,
            fault := { code := code, eng := a.acc.eng, pasid := pasidOf (engineOf s a.acc.eng),
                       contextId := d.extractLsb' 32 32, vaPage := a.acc.va.extractLsb' 12 36,
                       isWrite := a.acc.kind != .read, er := a.acc.ifetch, pr := bit d 8, level := a.level.toNat } } ∧
      t.nextPrg = s.nextPrg + 1 ∧ (engineOf t a.acc.eng).mode = .halted ∧
      (∃ w, (engineOf t a.acc.eng).miss = some w ∧ w.prg = s.nextPrg ∧ w.req.acc = a.acc ∧ w.fault = q.fault) ∧
      t.completion.status = .waiting ∧ sameMemory s t ∧ sameOtherEngines s t a.acc.eng ∧
      t = { s with engines := t.engines, pageRequests := t.pageRequests, nextPrg := t.nextPrg,
                   completion := t.completion })

/-- FAULT_MODEL_STREAM_SWITCH without the override, for a coherent access of the HDC and for one of the instruction cache (R826, R829):
the page request goes to software, the request is outstanding, the fault counter rises, the first fault is signalled, and the engine
goes on. That each page request has a group index of its own is the model's choice (log entry 61), and so is that one fault counter serves
all engines (log entry 45), and that every access of the Instruction/State client is one of the instruction cache, a state read too (log
entry 20). -/
def Obligations.StreamModelStreams : Prop :=
  ∀ (s : State) (d : QWord) (a : FaultArgs),
    field d 6 2 = 2 → bit s.regs.r404c 0 = false → bit d 3 = false → a.acc.useGgtt = false →
    (a.acc.client = .hdc ∧ a.acc.coherent = true) ∨ a.acc.client = .instructionState → a.code ≠ 0 → pageNotFaulted s a.acc.eng a.acc.va →
    (engineOf s a.acc.eng).resetting = false →
    ∃ t w, exec (.faultModelStreamSwitch d a) s = .next t ∧
      (engineOf t a.acc.eng).outstanding = (engineOf s a.acc.eng).outstanding ++ [w] ∧ w.prg = s.nextPrg ∧
      t.pageRequests = s.pageRequests ++ [⟨s.nextPrg, false, w.fault⟩] ∧ w.fault.code = a.code ∧
      t.regs.faultCount = s.regs.faultCount + 1 ∧ (engineOf t a.acc.eng).mode = (engineOf s a.acc.eng).mode ∧
      ((engineOf s a.acc.eng).outstanding = [] → .streamFirstFault ∈ (engineOf t a.acc.eng).events) ∧
      t.completion.status = .faulted ∧ t.completion.code = a.code ∧ sameMemory s t ∧ sameOtherEngines s t a.acc.eng

/-- Fault code 00 is no fault (R198, R801): FAULT_CODE_NONE, and a FAULT_MODEL object with code 00, change nothing but the
completion. -/
def Obligations.FaultCodeZeroIsNoFault : Prop :=
  ∀ (s : State) (d : QWord) (a : FaultArgs),
    exec (.faultCodeNone a) s = .next { s with completion := ⟨.done, 0, false, 0, 0, .wb, 0⟩ } ∧
    (a.code = 0 →
      ∀ i ∈ [Instr.faultModelHang d a, .faultModelHalt d a, .faultModelStreamSwitch d a, .faultModelReserved d a],
        exec i s = .next { s with completion := ⟨.done, 0, false, 0, 0, .wb, 0⟩ })

/-- A successful page response (R825, R833): the wait ends, the engine runs again, its page request leaves the queue, retained
translations of the page are dropped, on every engine, and the request that waited is walked again from the top. That it is the next input is the
model's choice (log entries 19 and 60): R825 says that it is walked again; so is the drop on the other engines (log entry 78), and that an
engine without a context runs (log entry 96). -/
def Obligations.PageResponseResumes : Prop :=
  ∀ (s : State) (e : Engine) (w : Waiting) (rest : List Input),
    s.inputs = .op (.pageResponse w.prg .success) :: rest →
    (engineOf s e).miss = some w → (engineOf s e).mode = .halted →
    (∀ e' w', (engineOf s e').miss = some w' → w'.prg = w.prg → e' = e) →
    (∀ e', ∀ w' ∈ (engineOf s e').outstanding, w'.prg ≠ w.prg) →
    ∃ t tail, step s = .next t ∧ (engineOf t e).miss = none ∧ (engineOf t e).mode = .running ∧
      t.inputs = .op (.rewalk w.req) :: tail ∧ w.prg ∉ t.detached ∧ (∀ q ∈ t.pageRequests, q.prg ≠ w.prg) ∧
      (∀ e', ∃ m ∈ (engineOf t e').scopeMarks, m.pasid = some w.fault.pasid ∧ m.page = some w.fault.vaPage ∧ m.stage = .all ∧
        m.mark = s.history.length) ∧
      (∀ e', e' ≠ e → engineOf t e' =
        { engineOf s e' with scopeMarks := (engineOf t e').scopeMarks, faulted := (engineOf t e').faulted }) ∧
      sameMemory s t ∧ t.pci = s.pci

/-- A page response that matches no outstanding request (R74, R841) sets UPRGI and is ignored: no engine, no page request and no
byte of memory changes. One to a page request whose context is out, or whose engine was reset (R837, R871), is ignored but for the faulted
entries of its page and PASID, which leave every engine whatever its status (R370), and for the RF bit that a Response Failure sets (R74,
R841): its index is answered then, so that a repeat matches nothing. That the faulted entries leave every engine whatever the status is the
model's inference (log entry 78): R358 speaks of a response stating that the page is fixed. -/
def Obligations.UnexpectedResponseIsIgnored : Prop :=
  ∀ (s : State) (prg : Nat) (code : ResponseCode) (rest : List Input),
    s.inputs = .op (.pageResponse prg code) :: rest →
    (∀ e, (∀ w, (engineOf s e).miss = some w → w.prg ≠ prg) ∧ ∀ w ∈ (engineOf s e).outstanding, w.prg ≠ prg) →
    (prg ∉ s.detached → (∀ q ∈ s.pageRequests, q.last = true → q.prg ≠ prg) →
      step s = .next { s with inputs := rest, pci := { s.pci with priStatus := s.pci.priStatus ||| 2 } }) ∧
    (∀ q ∈ s.pageRequests, prg ∈ s.detached → q.prg = prg →
      ∃ t, step s = .next t ∧ sameMemory s t ∧ prg ∉ t.detached ∧ (∀ q' ∈ t.pageRequests, q'.prg ≠ prg) ∧
        (∀ e, ∀ p ∈ (engineOf t e).faulted, p.pasid = q.fault.pasid → p.vaPage ≠ q.fault.vaPage) ∧
        (code = .responseFailure → bit t.pci.priStatus 0 = true) ∧
        (code ≠ .responseFailure → t.pci = s.pci ∧ ∀ e, engineOf t e = { engineOf s e with faulted := (engineOf t e).faulted }))

/-! ### Paging entries read by a walk -/

/-- The IA-32e pointer rows PML4E, PDPE_PD and PDE_PT (R171, R172, R174, R311, R320): where bits 51:HAW are 0, and the request
is a read in supervisor mode or U/S has been 1 so far, and for an instruction fetch NXE is 0 or XD has been 0 so far, the walk goes to the
table at ADDR with the rights accumulated: AND of R/W, AND of U/S, OR of XD. SMEP is not looked at before the leaf. Nothing but the walk
changes. The controls of a fetch are those of the context `x` that the IOMMU supplies. -/
def Obligations.Ia32ePointerEntries : Prop :=
  ∀ (s : State) (e : QWord) (a : Access) (x : IommuCtx) (i : Instr) (level : Nat),
    (i, level) ∈ [(Instr.ia32ePml4e e a, 4), (.ia32ePdpePd e a, 3), (.ia32ePdePt e a, 2)] → i.wf = true →
    a.kind = .read → field e s.params.haw (52 - s.params.haw) = 0 →
    let desc := (pointersOf (engineOf s a.eng)).desc
    (a.ifetch = true → onlyContext s a.eng (desc.extractLsb' 9 3) (pasidOf (engineOf s a.eng)) x) →
    (let acc := if level = 4 then Rights.all else s.walk.rights
     let made : Rights := ⟨acc.rw && bit e 1, acc.us && bit e 2, acc.xd || bit e 63⟩
     bit desc 8 = true ∨ made.us = true → (a.ifetch = true → x.nxe = true → made.xd = false) →
     exec i s = .next { s with walk :=
       { rights := made
         ips := decide (level = 2) && bit e 11 && (entryCtl s .ia32e a).en64k
         result := .next (level - 1) (addrField s.params.haw 12 e)
           (decide (level = 2) && bit e 11 && (entryCtl s .ia32e a).en64k) } })

/-- The IA-32e leaf rows PDPE_1GB, PDE_2MB, PTE_64KB and PTE_4KB (R173, R175-R177, R311, R312, R320, R331): where the reserved bits are
0 and a read is allowed, the walk ends in the page at ADDR with the offset of va below it. A data read needs supervisor mode or U/S = 1 in
every entry; an instruction fetch also XD = 0 in every entry with NXE, and in supervisor mode with SMEP an entry with U/S = 0. Nothing
but the walk changes. -/
def Obligations.Ia32eLeafEntries : Prop :=
  ∀ (s : State) (e : QWord) (a : Access) (x : IommuCtx) (i : Instr) (k : Nat),
    (i, k) ∈ [(Instr.ia32ePdpe1gb e a, 30), (.ia32ePde2mb e a, 21), (.ia32ePte64kb e a, 16), (.ia32ePte4kb e a, 12)] →
    i.wf = true → a.kind = .read → field e s.params.haw (52 - s.params.haw) = 0 →
    (k = 30 → field e 13 17 = 0) → (k = 21 → field e 13 8 = 0) → (k = 16 → field e 12 4 = 0) →
    let desc := (pointersOf (engineOf s a.eng)).desc
    (a.ifetch = true → onlyContext s a.eng (desc.extractLsb' 9 3) (pasidOf (engineOf s a.eng)) x) →
    (let acc := s.walk.rights
     let made : Rights := ⟨acc.rw && bit e 1, acc.us && bit e 2, acc.xd || bit e 63⟩
     bit desc 8 = true ∨ made.us = true → (a.ifetch = true → x.nxe = true → made.xd = false) →
     (a.ifetch = true → x.smep = true → bit desc 8 = true → made.us = false) →
     exec i s = .next { s with walk :=
       { rights := Rights.all, ips := false
         result := .translated
           { pa := addrField s.params.haw k e + a.va.toNat % 2 ^ k
             pageBits := k
             rights := made
             dirty := bit e 6
             typeBits := BitVec.ofBool (bit e (if k = 12 ∨ k = 16 then 7 else 12)) ++ BitVec.ofBool (bit e 4)
               ++ BitVec.ofBool (bit e 3) } } })

/-- The legacy pointer rows LEGACY32_PDE, LEGACY64_PML4E, LEGACY64_PDPE_PD and LEGACY64_PDE_PT (R178, R181, R182, R184, R311,
R321): P is the only bit examined; the walk goes to the table at ADDR, and a PD entry selects 64 KB pages by bit 11 where they are
enabled (R187, R313). The bits that IA-32e reads as rights are ignored here (R189): the rights of the walk stay as they were, all of them
at the top. Nothing but the walk changes. -/
def Obligations.LegacyPointerEntries : Prop :=
  ∀ (s : State) (e : QWord) (a : Access) (i : Instr) (level : Nat) (top : Bool),
    (i, level, top) ∈ [(Instr.legacy32Pde e a, 2, true), (.legacy64Pml4e e a, 4, true), (.legacy64PdpePd e a, 3, false),
      (.legacy64PdePt e a, 2, false)] →
    i.wf = true →
    ∃ t, exec i s = .next t ∧ t = { s with walk := t.walk } ∧ t.walk.rights = (if top then Rights.all else s.walk.rights) ∧
      t.walk.ips = (decide (level = 2) && bit e 11 && s.params.page64k) ∧
      t.walk.result = .next (level - 1) (addrField s.params.haw 12 e)
        (decide (level = 2) && bit e 11 && s.params.page64k)

/-- The legacy leaf rows LEGACY_PTE_64KB, LEGACY_PTE_4KB, LEGACY64_PDPE_1GB and LEGACY64_PDE_2MB (R179, R180, R183, R185, R312,
R321, R322): N = 1 is a Null page, whatever R/W; else a read, or a write with R/W = 1, ends in the page at ADDR. GGTT_PTE (R186,
R321, R340): a present entry maps the page at ADDR for reads and writes. Nothing but the walk changes. That of the rights only the
leaf's R/W bit counts is decision D14, that bit 7 tells a large page D11, and that its reserved cells are not checked D15. -/
def Obligations.LegacyLeafEntries : Prop :=
  ∀ (s : State) (e : QWord) (a : Access),
    (∀ (i : Instr) (k : Nat),
      (i, k) ∈ [(Instr.legacyPte64kb e a, 16), (.legacyPte4kb e a, 12), (.legacy64Pdpe1gb e a, 30),
        (.legacy64Pde2mb e a, 21)] →
      i.wf = true → (bit e 9 = true ∨ a.kind = .read ∨ bit e 1 = true) →
      ∃ t, exec i s = .next t ∧ t = { s with walk := t.walk } ∧
        (bit e 9 = true → t.walk.result = .nullPage) ∧
        (bit e 9 = false → ∃ x, t.walk.result = .translated x ∧ x.pageBits = k ∧
          x.pa = addrField s.params.haw k e + a.va.toNat % 2 ^ k)) ∧
    ((Instr.ggttPte e a).wf = true →
      ∃ t x, exec (.ggttPte e a) s = .next t ∧ t = { s with walk := t.walk } ∧ t.walk.result = .translated x ∧
        x.pageBits = 12 ∧ x.pa = addrField s.params.haw 12 e + a.va.toNat % 4096)

/-- A 4 KB IA-32e entry that refuses an access in an advanced context under the GAM override (R320, R331, R801, R804). A data access in
user mode: a set bit among 51:HAW is code 01; else U/S = 0 is code 10; else a write with R/W = 0 is code 11. An instruction fetch: a set
bit among 51:HAW is code 01; else code 10 (decision D13) for U/S = 0 in user mode, for XD = 1 with NXE, and for U/S = 1 in every entry in
supervisor mode with SMEP, by the controls of the context `x` that the IOMMU supplies. The page request carries the code, level 1 and
whether it is a fetch, and no byte of memory changes. That an entry presented alone takes the rights accumulated before it from the walk
latched last, and that its fault is taken as in an advanced context, is the model's choice (log entry 58). -/
def Obligations.Ia32eRefusalCodes : Prop :=
  ∀ (s : State) (e : QWord) (a : Access) (x : IommuCtx),
    (Instr.ia32ePte4kb e a).wf = true → bit s.regs.r404c 0 = true → a.useGgtt = false → a.client ≠ .displayOverlay →
    (engineOf s a.eng).miss = none → pageNotFaulted s a.eng a.va → (engineOf s a.eng).resetting = false →
    (let desc := (pointersOf (engineOf s a.eng)).desc
     let user := !bit desc 8
     let us := s.walk.rights.us && bit e 2
     let xd := s.walk.rights.xd || bit e 63
     let reserved := decide (field e s.params.haw (52 - s.params.haw) ≠ 0)
     let write := a.kind != .read && !(s.walk.rights.rw && bit e 1)
     let refused (code : BitVec 2) : Prop :=
       ∃ t q, exec (.ia32ePte4kb e a) s = .next t ∧ t.pageRequests = s.pageRequests ++ [q] ∧ q.fault.code = code ∧
         q.fault.level = 1 ∧ q.fault.er = a.ifetch ∧ q.fault.isWrite = (a.kind != .read) ∧ sameMemory s t
     (a.ifetch = false → user = true → reserved || !us || write → refused (if reserved then 1 else if !us then 2 else 3)) ∧
     (a.ifetch = true → onlyContext s a.eng (desc.extractLsb' 9 3) (pasidOf (engineOf s a.eng)) x →
       reserved || (user && !us) || (x.nxe && xd) || (!user && x.smep && us) → refused (if reserved then 1 else 2)))

/-! ### Tiled resources -/

/-- TRTT_L3E and TRTT_L2E (R190, R191, R400-R404): bit 0 is Invalid, whatever bit 1; else bit 1 is Null; else the entry points to
the next table at bits 47:12. TRTT_L1E (R192): an entry equal to the Invalid value is an Invalid tile, whatever the Null value; else one
equal to the Null value is a Null tile; else it replaces va[47:16], and va[15:0] stays. A Null tile is counted, an Invalid tile raises its
interrupt; either completes the access with zeros and the null indicator, and with the fault mode of the engine's context (R466). No byte
of memory changes. Invalid before Null is decision D17; that the two bits of the fault mode are encoded as in the descriptor is the model's
choice (log entry 69). -/
def Obligations.TrttEntries : Prop :=
  ∀ (s : State) (a : Access), a.tileX = false →
    let mode := faultModeBits (pointersOf (engineOf s a.eng)).desc
    let ends (i : Instr) (invalid null : Prop) (next : TrEnd) : Prop :=
      ∃ t, exec i s = .next t ∧ sameMemory s t ∧
        (invalid → t.trWalk = .invalidTile ∧ t.completion = ⟨.invalidTile, 0, true, 0, 0, .wb, mode⟩ ∧
          .trttInvalidTile ∈ (engineOf t a.eng).events ∧ t.regs = s.regs) ∧
        (¬invalid → null → t.trWalk = .nullTile ∧ t.completion = ⟨.nullTile, 0, true, 0, 0, .wb, mode⟩ ∧
          t.regs = { s.regs with nullTileCount := s.regs.nullTileCount + 1 } ∧ t.engines = s.engines) ∧
        (¬invalid → ¬null → t = { s with trWalk := next })
    (∀ (e : QWord) (i : Instr), i ∈ [Instr.trttL3e e a, .trttL2e e a] →
      ends i (bit e 0 = true) (bit e 1 = true) (.next (field e 12 36 * 4096))) ∧
    (∀ e : Word, ends (.trttL1e e a) (e = s.regs.invalidTile) (e = s.regs.nullTile)
      (.newVa (0#16 ++ e ++ a.va.extractLsb' 0 16)))

/-- A read or write of the render engine that goes through TR-TT under CTX_LEGACY_PPGTT48 (R390, R391, R400-R404): the three tables are
read at their virtual addresses, each by a page walk of its own; the walk ends at the first entry that is Invalid or Null: zeros and the
null indicator, the write dropped, a Null tile counted, an Invalid tile's interrupt pending (no TileX access: R405); else the new address, va[47:16] replaced, is
walked, and the access reads or writes the bytes of its page (R321, R342), and only those. Every level may lie in a page of 4 KB, 64 KB,
2 MB or 1 GB. Invalid before Null is decision D17; that the tables are in virtual space whatever TRTTE bit 1 holds is log entry 52. -/
def Obligations.TrttAccess : Prop :=
  ∀ (s : State) (d : QWord) (a : Access), Memory.wf s.mem = true → quietRequest s a = true → a.useGgtt = false →
    a.kind ≠ .atomic → a.eng = .rcs → trttTranslates s a.va = true → ∀ k3 ∈ [12, 16, 21, 30],
    let root := addrField s.params.haw 12 (pointersOf (engineOf s .rcs)).pdp0
    let tile (invalid : Prop) (null : Prop) : Prop :=
      (a.tileX = false → invalid → ∃ t, exec (.ctxLegacyPpgtt48 d a) s = .next t ∧ t.completion.status = .invalidTile ∧ t.completion.data = 0 ∧
        t.completion.nullIndicator = true ∧ .trttInvalidTile ∈ (engineOf t .rcs).events ∧ sameMemory s t ∧
        engineOf t .rcs = { engineOf s .rcs with events := (engineOf t .rcs).events } ∧ sameOtherEngines s t .rcs ∧
        t = { s with engines := t.engines, completion := t.completion, draws := t.draws, cache := t.cache }) ∧
      (a.tileX = false → ¬invalid → null → ∃ t, exec (.ctxLegacyPpgtt48 d a) s = .next t ∧ t.completion.status = .nullTile ∧ t.completion.data = 0 ∧
        t.completion.nullIndicator = true ∧ sameMemory s t ∧
        t = { s with regs := { s.regs with nullTileCount := s.regs.nullTileCount + 1 }
                     completion := t.completion, draws := t.draws, cache := t.cache })
    let addr3 := trttL3Addr s a.va
    let e3 := trttEntry s root addr3 k3 8
    trttReadable s root addr3 k3 8 = true →
    tile (bit e3 0 = true) (bit e3 1 = true) ∧
    (bit e3 0 = false → bit e3 1 = false → ∀ k2 ∈ [12, 16, 21, 30],
      let addr2 := trttL2Addr e3 a.va
      let e2 := trttEntry s root addr2 k2 8
      trttReadable s root addr2 k2 8 = true →
      tile (bit e2 0 = true) (bit e2 1 = true) ∧
      (bit e2 0 = false → bit e2 1 = false → ∀ k1 ∈ [12, 16, 21, 30],
        let addr1 := trttL1Addr e2 a.va
        let e1 : Word := (trttEntry s root addr1 k1 4).setWidth 32
        trttReadable s root addr1 k1 4 = true →
        tile (e1 = s.regs.invalidTile) (e1 = s.regs.nullTile) ∧
        (e1 ≠ s.regs.invalidTile → e1 ≠ s.regs.nullTile → ∀ k ∈ [12, 16, 21, 30],
          let va' : QWord := 0#16 ++ e1 ++ a.va.extractLsb' 0 16
          let pa := pageTarget s root va' k
          maps48 s root va' k = true → physExists s pa (accessSize a) = true →
          (a.kind = .read →
            ∃ t, exec (.ctxLegacyPpgtt48 d a) s = .next t ∧ t.completion.status = .done ∧ t.completion.pa = pa ∧
              t.completion.data = memReadLe s.mem pa (accessSize a) ∧ sameMemory s t ∧
              t = { s with completion := t.completion, draws := t.draws, cache := t.cache }) ∧
          (a.kind = .write → bit (mem64 s (leafSlot s root va' k)) 1 = true →
            ∃ t, exec (.ctxLegacyPpgtt48 d a) s = .next t ∧ t.completion.status = .done ∧
              (∀ j, j < accessSize a → memRead t.mem (pa + j) = byteAt a.data j) ∧ sameMemoryOutside s t pa (accessSize a) ∧
              t = { s with mem := t.mem, history := t.history, completion := t.completion, draws := t.draws
                           cache := t.cache }))))

/-! ### Index splits and MI_UPDATE_GTT -/

/-- VA_INDEX_4LEVEL, VA_INDEX_PPGTT32, VA_INDEX_GGTT and VA_INDEX_TRTT (R205): the index fields are the named bits of the address,
so that each split puts together gives back its address. Nothing else changes. -/
def Obligations.IndexSplits : Prop :=
  ∀ (s : State) (v : BitVec 48) (w : Word),
    (∃ x, exec (.vaIndex4level v) s = .next { s with indices := x } ∧ x.pml4 < 512 ∧ x.pdp < 512 ∧ x.pd < 512 ∧ x.pt < 512 ∧
      x.offset < 4096 ∧ v.toNat = (((x.pml4 * 512 + x.pdp) * 512 + x.pd) * 512 + x.pt) * 4096 + x.offset ∧
      x.pt64 = x.pt / 16 * 16) ∧
    (∃ x, exec (.vaIndexPpgtt32 w) s = .next { s with indices := x } ∧ x.pdp < 4 ∧ x.pd < 512 ∧ x.pt < 512 ∧
      x.offset < 4096 ∧ w.toNat = ((x.pdp * 512 + x.pd) * 512 + x.pt) * 4096 + x.offset ∧ x.pt64 = x.pt / 16 * 16) ∧
    (∃ x, exec (.vaIndexGgtt w) s = .next { s with indices := x } ∧ x.pt < 2 ^ 20 ∧ x.offset < 4096 ∧
      w.toNat = x.pt * 4096 + x.offset) ∧
    (∃ x, exec (.vaIndexTrtt v) s = .next { s with indices := x } ∧ x.pdp < 512 ∧ x.pd < 512 ∧ x.pt < 1024 ∧
      x.offset < 65536 ∧ v.toNat % 2 ^ 44 = ((x.pdp * 512 + x.pd) * 1024 + x.pt) * 65536 + x.offset)

/-- MI_UPDATE_GTT_ADDR (R206): the entry goes to the QWord of GSM at byte offset page_address[31:12] << 3; no other byte changes.
-/
def Obligations.UpdateGttStoresTheEntry : Prop :=
  ∀ (s : State) (v : Word) (a : GttUpdateArgs), Memory.wf s.mem = true →
    (let off := v.toNat / 4096 * 8
     let pa := s.params.gsmBase + off
     off + 8 ≤ s.params.gsmSize → physExists s pa 8 = true →
     ∃ t, exec (.miUpdateGttAddr v a) s = .next t ∧ t.ggttOffset = off ∧ mem64 t pa = a.entry ∧
       sameMemoryOutside s t pa 8 ∧ t = { s with mem := t.mem, history := t.history, ggttOffset := t.ggttOffset })

/-! ### The HDC port -/

/-- HDC_PAGE_REQUEST (R196, R197, R376): a valid request within the credits, in a render context in the Global GTT mode, is
translated; the broadcast response carries PA[38:12], code 00, and the request's source, write and tracking fields; the request
holds a credit until then. No byte of memory changes. That the response is the next input is the model's choice (log entries 19 and
32), and so is the mark of a translation (log entry 67). R197 gives the 27 bits of the PA field for HAW = 39: that it holds PA[38:12] for
HAW = 46 too, and drops PA[45:39], is the model's choice, and so is D = 0 for a Global GTT translation (log entry 89). -/
def Obligations.HdcRequestIsTranslated : Prop :=
  ∀ (s : State) (h : HdcRequest) (c : DescRegs),
    (Instr.hdcPageRequest h).wf = true → h.valid = true → creditsUsed s.hdc h.src < 2 → s.hdc.serviceOff = false →
    (engineOf s .rcs).ctx = some c → walkMode c.desc = .ggtt → servesNow s .rcs = true → nothingRetained s .rcs = true →
    trttOn s = false → ggttPresent s (h.vaPage <<< 12) = true →
    (let pa := ggttTarget s (h.vaPage <<< 12)
     physExists s pa 1 = true →
     ∃ t g, exec (.hdcPageRequest h) s = .next t ∧ t.inputs = .message (.gamPageResponse g) :: s.inputs ∧
       g.valid = true ∧ g.dst = h.src ∧ g.pa = BitVec.ofNat 32 (pa / 4096 % 2 ^ 27) ∧ g.isWrite = h.isWrite ∧ g.code = 0 ∧
       g.kind = .translation ∧ g.tracking = h.tracking ∧ t.hdc = { s.hdc with pending := s.hdc.pending ++ [h] } ∧ sameMemory s t ∧
       t = { s with hdc := t.hdc, inputs := t.inputs, completion := t.completion, draws := t.draws })

/-- GAM_PAGE_RESPONSE (R197, R376, R322): the HDC it names claims it, the request's credit is released, and a translation without a
fault enters its mini-TLB, which neither a null page nor an invalid access has (log entry 67); a response that answers no request
changes nothing. -/
def Obligations.GamResponseReleasesTheCredit : Prop :=
  ∀ (s : State) (g : GamResponse),
    (∀ h, g.valid = true → s.hdc.pending.find? (answers g) = some h →
      exec (.gamPageResponse g) s = .next { s with hdc := { s.hdc with
        pending := s.hdc.pending.erase h
        miniTlb := s.hdc.miniTlb ++
          (if g.code = 0 ∧ g.kind = .translation then [⟨g.dst, h.vaPage, g.pa, g.isWrite, g.memType⟩] else []) } }) ∧
    (g.valid = false ∨ s.hdc.pending.find? (answers g) = none → exec (.gamPageResponse g) s = .next s)

/-- GAM_TLB_INV_START, HDC_TLB_INV_RESPONSE and GAM_TLB_INV_END (R375): Start wipes the mini-TLBs and stops the service; the
acknowledgement of the last HDC restarts it and sends End, one before the last is collected; End lets the HDCs send again, the
dropped requests first. R196 and R197 list a Valid bit; that a message without it does nothing is the model's choice (log entries 5 and
46), so is that the messages an object causes are the next inputs (log entry 19), and that a Start clears the acknowledgements collected before it
(log entry 101). -/
def Obligations.HdcInvalidationProtocol : Prop :=
  ∀ (s : State) (i : HdcId),
    exec .gamTlbInvStart s = .next { s with hdc := { s.hdc with
      serviceOff := true, quiesced := true, acks := [], miniTlb := [] } } ∧
    (s.hdc.serviceOff = true → (∀ j ∈ s.params.hdcs, j = i ∨ j ∈ s.hdc.acks) →
      exec (.hdcTlbInvResponse ⟨true, i⟩) s = .next { s with
        hdc := { s.hdc with serviceOff := false, acks := [] }, inputs := .message (.gamTlbInvEnd) :: s.inputs }) ∧
    (s.hdc.serviceOff = true → i ∉ s.hdc.acks → (∃ j ∈ s.params.hdcs, j ≠ i ∧ j ∉ s.hdc.acks) →
      exec (.hdcTlbInvResponse ⟨true, i⟩) s = .next { s with hdc := { s.hdc with acks := s.hdc.acks ++ [i] } }) ∧
    exec .gamTlbInvEnd s = .next { s with
      hdc := { s.hdc with quiesced := false, droppedReqs := [] }
      inputs := s.hdc.droppedReqs.map (fun h => .message (.hdcPageRequest h)) ++ s.inputs } ∧
    exec (.hdcTlbInvResponse ⟨false, i⟩) s = .next s ∧
    (∀ (bs : List Byte) (rest : List Input), s.inputs = .object .gamToHdc bs :: rest → decode .gamToHdc bs = .error .notValid →
      step s = .next { s with inputs := rest })

/-- The memory-type codes (R199): MEMTYPE_UC, WC, WT, WP and WB latch their type and the HDC-to-L3 control bits [3:2]: 00, 01, 10,
11 for a read and 01 for a write, 11. Nothing else changes. -/
def Obligations.MemoryTypeCodes : Prop :=
  ∀ (s : State) (a : TypeArgs),
    exec (.memtypeUc a) s = .next { s with memType := ⟨.uc, 0⟩ } ∧
    exec (.memtypeWc a) s = .next { s with memType := ⟨.wc, 1⟩ } ∧
    exec (.memtypeWt a) s = .next { s with memType := ⟨.wt, 2⟩ } ∧
    exec (.memtypeWp a) s = .next { s with memType := ⟨.wp, if a.isWrite then 1 else 3⟩ } ∧
    exec (.memtypeWb a) s = .next { s with memType := ⟨.wb, 3⟩ }

/-- What the spec leaves without a meaning. MEMTYPE_RESERVED_2, _3, _7 and the HDC response opcode 01 (R197, R199, R210; I48, I58)
stop in every state. The Fault Models of an advanced context with 0x404C[0] = 0 that the spec excludes (R821; I8, I9) stop: 11b is
reserved, 00b does not apply. -/
def Obligations.ReservedCodesStop : Prop :=
  ∀ (s : State) (y : TypeArgs),
    exec (.memtypeReserved2 y) s = .refused .reservedMemType ∧ exec (.memtypeReserved3 y) s = .refused .reservedMemType ∧
    exec (.memtypeReserved7 y) s = .refused .reservedMemType ∧
    exec .gamResponseOpcodeReserved s = .refused .reservedHdcResponse ∧
    ∀ (d : QWord) (a : FaultArgs),
      bit s.regs.r404c 0 = false → bit d 3 = false → a.acc.useGgtt = false → a.acc.client ≠ .displayOverlay → a.code ≠ 0 →
      (field d 6 2 = 3 → exec (.faultModelReserved d a) s = .refused .reservedFaultModel) ∧
      (field d 6 2 = 0 → exec (.faultModelHang d a) s = .refused .hangInAdvancedContext)

/-! ### Texture blocks -/

/-- Every block of the ETC, EAC, FXT1, DXT, BC, BC6H, BC7 and ASTC formats decodes (R540, R590, R605, R620, R690): the texels are
latched, 16 of a 4 by 4 block, 32 of an 8 by 4 FXT1 block (R560), one for each texel of the footprint of the ASTC surface format in
force (R651); the counter of draws moves on, and nothing else changes. The texels themselves, for the formats whose rules are one
formula for every texel: ETC1 blocks (R541-R544, with the clamp of decision D19), differential ones while each sum is in range;
EAC_R11 and EAC_SIGNED_R11 (R552-R554); FXT1 CC_CHROMA and CC_HI (R560-R562, R570); BC4_UNORM and BC5_UNORM (R600-R602, decision D23);
BC7 mode 6 (R621-R625); BC6H_UF16 mode 10 (R607-R612, decision D24). That missing channels are 0, 0, 1 (R551, D21, G5), the halves of an
FXT1 block left and right (G6) and the half format of BC6H (G7) are presumed (log entry 51). That the sRGB flag has no effect on EAC, FXT1, BC4, BC5 and BC6H is the
model's inference (log entry 41), and so is that each ASTC index-mode and endpoint-mode row decodes the whole block under the surface
format in force (log entry 44). -/
def Obligations.TextureBlocksDecode : Prop :=
  (∀ (s : State) (i : Instr), isTextureBlock i = true →
    ∃ t, exec i s = .next t ∧ t = { s with texels := t.texels, draws := t.draws } ∧
      t.texels.width = (blockSize s i).1 ∧ t.texels.height = (blockSize s i).2 ∧
      t.texels.texels.length = (blockSize s i).1 * (blockSize s i).2) ∧
  ∀ (s : State) (q : QWord) (b : Block) (f : FormatFlags) (row col : Nat), row < 4 →
    let texel (i : Instr) (ok : Texel → Prop) : Prop := ∃ t, exec i s = .next t ∧ ok (t.texels.at row col)
    let five (x : Nat) : Nat := 8 * x + x / 4
    let clamp (lo hi x : Int) : Int := max lo (min hi x)
    let signed (x n : Nat) : Int := if x < 2 ^ (n - 1) then x else (x : Int) - 2 ^ n
    let weights : List Nat := [0, 4, 9, 13, 17, 21, 26, 30, 34, 38, 43, 47, 51, 55, 60, 64]
    (col < 4 →
      (let p := 4 * col + row
       let msb := if p < 8 then 40 + p else 24 + p
       let index := 2 * field q msb 1 + field q (msb + 16) 1
       let sub := if bit q 24 then row / 2 else col / 2
       let columns : List (List Int) := [[2, 8, -2, -8], [5, 17, -5, -17], [9, 29, -9, -29], [13, 42, -13, -42], [18, 60, -18, -60],
         [24, 80, -24, -80], [33, 106, -33, -106], [47, 183, -47, -183]]
       let lum := (columns.getD (field q (29 - 3 * sub) 3) []).getD index 0
       let lit (base : Nat) : Chan := .unorm (clamp 0 255 (base + lum)).toNat 255
       let sum (c : Nat) : Int := (field q (8 * c + 3) 5 : Int) + (if sub = 0 then 0 else signed (field q (8 * c) 3) 3)
       f.srgb = false →
       texel (.etc1Individual q f) (fun x => x = ⟨lit (17 * field q (4 - 4 * sub) 4), lit (17 * field q (12 - 4 * sub) 4),
         lit (17 * field q (20 - 4 * sub) 4), .unorm 255 255⟩) ∧
       ((∀ c, c < 3 → etcInRange q (8 * c) = true) →
         texel (.etc1Differential q f) fun x => x = ⟨lit (five (sum 0).toNat), lit (five (sum 1).toNat), lit (five (sum 2).toNat),
           .unorm 255 255⟩)) ∧
      (let bytes := ((((field q 16 8 * 256 + field q 24 8) * 256 + field q 32 8) * 256 + field q 40 8) * 256 + field q 48 8) * 256
         + field q 56 8
       let index := bytes / 2 ^ (45 - 3 * (4 * col + row)) % 8
       let columns : List (List Int) := [[-3, -6, -9, -15], [-3, -7, -10, -13], [-2, -5, -8, -13], [-2, -4, -6, -13], [-3, -6, -8, -12],
         [-3, -7, -9, -11], [-4, -7, -8, -11], [-3, -5, -8, -11], [-2, -6, -8, -10], [-2, -5, -8, -10], [-2, -4, -8, -10],
         [-2, -5, -7, -10], [-3, -4, -7, -10], [-1, -2, -3, -10], [-4, -6, -8, -9], [-3, -5, -7, -9]]
       let cell (k : Nat) : Int := (columns.getD (field q 8 4) []).getD k 0
       let modifier := if index < 4 then cell index else -cell (index - 4) - 1
       let scaled : Int := if field q 12 4 = 0 then modifier else modifier * (field q 12 4 : Nat) * 8
       texel (.eacR11 q f) fun x => x = ⟨if f.signed then .snorm (clamp (-1023) 1023 (max (signed (field q 0 8) 8) (-127) * 8 + scaled)) 1023
           else .unorm (clamp 0 2047 ((field q 0 8 : Nat) * 8 + 4 + scaled)).toNat 2047, .unorm 0 255, .unorm 0 255, .unorm 255 255⟩) ∧
      (let t := 4 * row + col
       let channel (v : QWord) : Chan :=
         let a0 := field v 0 8
         let a1 := field v 8 8
         let k := field v (16 + 3 * t) 3
         .unorm (if k = 0 then a0 else if k = 1 then a1 else if a1 < a0 then ((8 - k) * a0 + (k - 1) * a1) / 7
           else if k = 6 then 0 else if k = 7 then 255 else ((6 - k) * a0 + (k - 1) * a1) / 5) 255
       f.signed = false →
       texel (.bc4 q f) (fun x => x = ⟨channel q, .unorm 0 255, .unorm 0 255, .unorm 255 255⟩) ∧
       texel (.bc5 b f) fun x => x = ⟨channel (b.extractLsb' 0 64), channel (b.extractLsb' 64 64), .unorm 0 255, .unorm 255 255⟩) ∧
      (let t := 4 * row + col
       let seven (lo p : Nat) : Nat := 2 * field b lo 7 + field b p 1
       let w := weights.getD (if t = 0 then field b 65 3 else field b (64 + 4 * t) 4) 0
       let channel (lo : Nat) : Chan := .unorm (((64 - w) * seven lo 63 + w * seven (lo + 7) 64 + 32) / 64) 255
       f.srgb = false → texel (.bc7Mode6 b f) fun x => x = ⟨channel 7, channel 21, channel 35, channel 49⟩) ∧
      (let t := 4 * row + col
       let end10 (lo : Nat) : Nat :=
         let e := field b lo 10
         if e = 0 then 0 else if e = 1023 then 0xFFFF else (e * 65536 + 0x8000) / 1024
       let w := weights.getD (if t = 0 then field b 65 3 else field b (64 + 4 * t) 4) 0
       let channel (lo : Nat) : Chan :=
         .half (BitVec.ofNat 16 ((end10 lo * (64 - w) + end10 (lo + 30) * w + 32) / 64 * 31 / 64))
       f.signed = false → texel (.bc6hMode10 b f) fun x => x = ⟨channel 5, channel 15, channel 25, .unorm 255 255⟩)) ∧
    (col < 8 →
      (let n := if col < 4 then 4 * row + col else 16 + 4 * row + (col - 4)
       let solid (c : Nat → Nat) : Texel := ⟨.unorm (c 10) 255, .unorm (c 5) 255, .unorm (c 0) 255, .unorm 255 255⟩
       let select := field b (3 * n) 3
       let mix (c : Nat) : Nat := ((6 - select) * five (field b (96 + c) 5) + select * five (field b (111 + c) 5) + 3) / 6
       texel (.fxt1CcChroma b f) (fun x => x = solid fun c => five (field b (64 + 15 * field b (2 * n) 2 + c) 5)) ∧
       texel (.fxt1CcHi b f) fun x =>
         x = if select = 7 then ⟨.unorm 0 255, .unorm 0 255, .unorm 0 255, .unorm 0 255⟩ else solid mix))

/-- DXT1 (R591-R593): the four-colour block interpolates thirds, the three-colour block a half, and its code 3 is transparent
black; colours expanded to 8 bits, quotients rounded down; red, green, blue and alpha, on every texel. DXT2 to DXT5 (R595-R597) take
the colours of the four-colour block whatever their order; DXT2 and DXT3 store four bits of alpha for each texel, DXT4 and DXT5
interpolate two alphas. The 8-bit arithmetic is decision D22. Every format is meant, also one with the sRGB flag: that the flag has no
effect on a DXT block, its channels not being converted, is the model's inference (log entry 41). -/
def Obligations.Dxt1Palettes : Prop :=
  ∀ (s : State) (b : QWord) (w : Block) (f : FormatFlags) (row col : Nat), row < 4 → col < 4 →
    (let five (x : Nat) : Nat := x * 8 + x / 4
     let six (x : Nat) : Nat := x * 4 + x / 16
     let colours (c : QWord) : Nat × Nat × Nat × Nat × Nat × Nat × Nat :=
       (five (field c 11 5), six (field c 5 6), five (field c 0 5), five (field c 27 5), six (field c 21 6), five (field c 16 5),
         field c (32 + 2 * (4 * row + col)) 2)
     let mix4 (k x y : Nat) : Nat := if k = 0 then x else if k = 1 then y else if k = 2 then (2 * x + y) / 3 else (x + 2 * y) / 3
     let mix3 (k x y : Nat) : Nat := if k = 0 then x else if k = 1 then y else if k = 2 then (x + y) / 2 else 0
     let made (mix : Nat → Nat → Nat → Nat) (c : QWord) (alpha : Nat → Nat) : Texel :=
       let (r0, g0, b0, r1, g1, b1, k) := colours c
       ⟨.unorm (mix k r0 r1) 255, .unorm (mix k g0 g1) 255, .unorm (mix k b0 b1) 255, .unorm (alpha k) 255⟩
     let a0 := field w 0 8
     let a1 := field w 8 8
     let interpolated : Nat :=
       let k := field w (16 + 3 * (4 * row + col)) 3
       if k = 0 then a0 else if k = 1 then a1 else if a1 < a0 then ((8 - k) * a0 + (k - 1) * a1) / 7
       else if k = 6 then 0 else if k = 7 then 255 else ((6 - k) * a0 + (k - 1) * a1) / 5
     (∃ t, exec (.dxt1FourColour b f) s = .next t ∧ t.texels.at row col = made mix4 b fun _ => 255) ∧
     (∃ t, exec (.dxt1ThreeColourTransparent b f) s = .next t ∧
       t.texels.at row col = made mix3 b fun k => if k = 3 then 0 else 255) ∧
     (∃ t, exec (.dxt2Dxt3ExplicitAlpha w f) s = .next t ∧
       t.texels.at row col = made mix4 (w.extractLsb' 64 64) fun _ => 17 * field w (4 * (4 * row + col)) 4) ∧
     (∃ t, exec (.dxt4Dxt5InterpolatedAlpha w f) s = .next t ∧
       t.texels.at row col = made mix4 (w.extractLsb' 64 64) fun _ => interpolated))

/-- DXT1_RGB (R594): Color 0 and Color 1 are not compared; every texel is that of the opaque four-colour block, alpha 1.0. -/
def Obligations.Dxt1RgbIsOpaque : Prop :=
  ∀ (s : State) (b : QWord) (f : FormatFlags),
    exec (.dxt1Rgb b f) s = exec (.dxt1FourColour b f) s ∧
    ∃ t, exec (.dxt1Rgb b f) s = .next t ∧ ∀ x ∈ t.texels.texels, x.a = .unorm 255 255

/-- BC6H undefined modes and the BC7 undefined mode (R606, R620): the red, green and blue channels of every texel are zero. -/
def Obligations.UndefinedBcModesReturnZero : Prop :=
  ∀ (s : State) (b : Block) (f : FormatFlags),
    (∀ i ∈ [Instr.bc6hUndefined10011 b f, .bc6hUndefined10111 b f, .bc6hUndefined11011 b f, .bc6hUndefined11111 b f],
      ∃ t, exec i s = .next t ∧ t.texels.texels.length = 16 ∧
        ∀ x ∈ t.texels.texels, x.r = .half 0 ∧ x.g = .half 0 ∧ x.b = .half 0) ∧
    (f.srgb = false → ∃ t, exec (.bc7Undefined b f) s = .next t ∧ t.texels.texels.length = 16 ∧
      ∀ x ∈ t.texels.texels, x.r = .unorm 0 255 ∧ x.g = .unorm 0 255 ∧ x.b = .unorm 0 255)

/-- ASTC blocks without weights (R657, R665, R688), one texel for each texel of the footprint. A block whose index mode is reserved
gives the error colour in every texel: opaque magenta in the LDR operation mode, as FP16 in an FLT16 format (decision D28), NaN as
FFFFh in the HDR operation mode. An HDR void-extent block with the extent all ones gives its FP16 constant in every texel in the HDR
operation mode, and is an error block in the two LDR profiles; an LDR one with the extent all ones gives its constant: in the U8sRGB
profile each component is the upper eight bits of its field, in the two FLT16 profiles the field divided by 65536 and rounded toward zero to
FP16, 65535 giving 1.0 (R666, R683). That bits 11:10 of a void-extent block are not checked is decision
D29. -/
def Obligations.AstcErrorAndConstantBlocks : Prop :=
  ∀ (s : State) (b : Block),
    let every (i : Instr) (x : Texel) : Prop :=
      ∃ t, exec i s = .next t ∧ t.texels.width = s.astcFormat.width ∧ t.texels.height = s.astcFormat.height ∧
        t.texels.texels.length = s.astcFormat.width * s.astcFormat.height ∧ ∀ y ∈ t.texels.texels, y = x
    let magenta : Texel := ⟨.half 0x3C00, .half 0, .half 0x3C00, .half 0x3C00⟩
    let srgb (n : Nat) : Chan := .srgb n (Config.srgb8ToLinear (BitVec.ofNat 8 n))
    let magentaSrgb : Texel := ⟨srgb 255, srgb 0, srgb 255, .unorm 255 255⟩
    let magnitude (h : Nat) : Nat := if h < 1024 then h else (1024 + h % 1024) * 2 ^ (h / 1024 - 1)
    let rounded (lo : Nat) (h : BitVec 16) : Prop :=
      if field b lo 16 = 65535 then h = 0x3C00
      else magnitude h.toNat ≤ 256 * field b lo 16 ∧ 256 * field b lo 16 < magnitude (h.toNat + 1)
    (∀ i ∈ [Instr.astcReservedModeA b, .astcReservedModeB b], i.wf = true →
      (s.astcFormat.profile = .fullFlt16 → every i ⟨.half 0xFFFF, .half 0xFFFF, .half 0xFFFF, .half 0xFFFF⟩) ∧
      (s.astcFormat.profile = .ldrFlt16 → every i magenta) ∧ (s.astcFormat.profile = .u8srgb → every i magentaSrgb)) ∧
    ((Instr.astcVoidExtent2d b).wf = true →
      (bit b 9 = true →
        (s.astcFormat.profile = .fullFlt16 → field b 12 52 = 2 ^ 52 - 1 → every (.astcVoidExtent2d b)
          ⟨.half (b.extractLsb' 64 16), .half (b.extractLsb' 80 16), .half (b.extractLsb' 96 16),
            .half (b.extractLsb' 112 16)⟩) ∧
        (s.astcFormat.profile = .ldrFlt16 → every (.astcVoidExtent2d b) magenta) ∧
        (s.astcFormat.profile = .u8srgb → every (.astcVoidExtent2d b) magentaSrgb)) ∧
      (bit b 9 = false → s.astcFormat.profile = .u8srgb → field b 12 52 = 2 ^ 52 - 1 → every (.astcVoidExtent2d b)
        ⟨srgb (field b 72 8), srgb (field b 88 8), srgb (field b 104 8), .unorm (field b 120 8) 255⟩) ∧
      (bit b 9 = false → s.astcFormat.profile = .ldrFlt16 ∨ s.astcFormat.profile = .fullFlt16 → field b 12 52 = 2 ^ 52 - 1 →
        ∃ red green blue alpha, rounded 64 red ∧ rounded 80 green ∧ rounded 96 blue ∧ rounded 112 alpha ∧
          every (.astcVoidExtent2d b) ⟨.half red, .half green, .half blue, .half alpha⟩))

/-- The ASTC surface formats (R651): each of the forty-two sets the footprint and the profile that its 9-bit code spells, and
nothing else. -/
def Obligations.AstcFormatsSetFootprintAndProfile : Prop :=
  ∀ (s : State) (i : Instr), i.port = .astcFormat →
    ∃ v : BitVec 16, encode i = leBytes v 2 ∧ exec i s = .next { s with astcFormat := astcFormatOf v.toNat } ∧
      (astcFormatOf v.toNat).width ∈ [4, 5, 6, 8, 10, 12] ∧ (astcFormatOf v.toNat).height ∈ [4, 5, 6, 8, 10, 12]

/-! ### Tiling -/

/-- TILE_X, TILE_Y and TILE_W (R250-R253, R283): the element at byte X of row Y lies at the tile's base plus the offset the rule's
formula gives; the pitch is a whole number of tiles, at most 256 KB, the base tile aligned (R244, R285), and the element within
2^38 bytes of the base (R8). Nothing but the latch of the result changes. -/
def Obligations.LegacyTileOffsets : Prop :=
  ∀ (s : State) (a : TileArgs), a.base.toNat % 4096 = 0 → a.pitch.toNat ≤ 262144 →
    (let x := a.u.toNat
     let y := a.v.toNat
     let tiled (i : Instr) (w h inTile : Nat) : Prop :=
       a.pitch.toNat % w = 0 →
       (let o := 4096 * (a.pitch.toNat / w * (y / h) + x / w) + inTile
        o + elemBitsOf a.elem / 8 ≤ 2 ^ 38 →
        exec i s = .next { s with tile := ⟨o, a.base + BitVec.ofNat 64 o, 0, 0⟩ })
     tiled (.tileX a) 512 8 (512 * (y % 8) + x % 512) ∧
     tiled (.tileY a) 128 32 (512 * (x % 128 / 16) + 16 * (y % 32) + x % 16) ∧
     tiled (.tileW a) 64 64 (512 * (x % 64 / 8) + 64 * (y % 64 / 8) + 32 * (y % 64 / 4 % 2) + 16 * (x % 64 / 4 % 2)
       + 8 * (y % 64 / 2 % 2) + 4 * (x % 64 / 2 % 2) + 2 * (y % 64 % 2) + x % 64 % 2))

/-- TILE_LINEAR, TILE_YF and TILE_YS complete (R243, R260-R264), the element within 2^38 bytes of the base (R8): a linear element lies
at v * pitch + u; an element of a TileYF or TileYS surface whose size has a swizzle row lies in the tile that TileID names, at the
place in it that the row's address bits name. TileYS gives up u bits and v bits of its tile in turn, one for each doubling of the
samples, for the sample's index (R263). The base is tile aligned (R244) and the pitch a whole number of tiles, at most 256 KB (R285). A
multisampled TileYF surface, for which no row is printed, completes too: its offset is open, inside the size limit (the model's
choice: log entry 72). -/
def Obligations.StandardTileOffsets : Prop :=
  ∀ (s : State) (a : TileArgs),
    let u := a.u.toNat
    let v := a.v.toNat
    let pitch := a.pitch.toNat
    let ss := a.ss.toNat
    let completes (i : Instr) (o : Nat) : Prop :=
      o + elemBitsOf a.elem / 8 ≤ 2 ^ 38 → exec i s = .next { s with tile := ⟨o, a.base + BitVec.ofNat 64 o, 0, 0⟩ }
    let b (n i : Nat) : Nat := n / 2 ^ i % 2
    completes (.tileLinear a) (v * pitch + u) ∧
    ∀ cv cu inner : Nat,
      (a.elem, cv, cu, inner) ∈
        [(ElemBits.e8, 6, 6, u % 16 + 16 * (v % 32) + 512 * b u 4 + 1024 * b v 5 + 2048 * b u 5),
         (.e16, 5, 7, u % 16 + 16 * (v % 8) + 128 * b u 4 + 256 * b v 3 + 512 * b u 5 + 1024 * b v 4 + 2048 * b u 6),
         (.e32, 5, 7, u % 16 + 16 * (v % 8) + 128 * b u 4 + 256 * b v 3 + 512 * b u 5 + 1024 * b v 4 + 2048 * b u 6),
         (.e64, 4, 8, u % 16 + 16 * (v % 4) + 64 * (u / 16 % 4) + 256 * b v 2 + 512 * b u 6 + 1024 * b v 3 + 2048 * b u 7),
         (.e128, 4, 8, u % 16 + 16 * (v % 4) + 64 * (u / 16 % 4) + 256 * b v 2 + 512 * b u 6 + 1024 * b v 3 + 2048 * b u 7)] →
      pitch ≤ 262144 →
      (a.samples = .s1 → a.base.toNat % 4096 = 0 → pitch % 2 ^ cu = 0 →
        completes (.tileYf a) (4096 * (v / 2 ^ cv * (pitch / 2 ^ cu) + u / 2 ^ cu) + inner)) ∧
      (a.samples ≠ .s1 → a.base.toNat % 4096 = 0 → pitch % 2 ^ cu = 0 → ∃ o, o < 2 ^ 38 ∧ exec (.tileYf a) s =
        .next { s with tile := ⟨o, a.base + BitVec.ofNat 64 o, 0, 0⟩, draws := s.draws + 1 }) ∧
      (let lg := samplesLog a.samples
       let cv' := cv + 2 - lg / 2
       let cu' := cu + 2 - (lg + 1) / 2
       let upper := match a.samples with
         | .s1 => b v cv + 2 * b u cu + 4 * b v (cv + 1) + 8 * b u (cu + 1)
         | .s2 => b v cv + 2 * b u cu + 4 * b v (cv + 1) + 8 * ss
         | .s4 => b v cv + 2 * b u cu + 4 * ss
         | .s8 => b v cv + 2 * ss
         | .s16 => ss
       ss < 2 ^ lg → a.base.toNat % 65536 = 0 → pitch % 2 ^ cu' = 0 →
        completes (.tileYs a) (65536 * (v / 2 ^ cv' * (pitch / 2 ^ cu') + u / 2 ^ cu') + 4096 * upper + inner))

/-- In each legacy mode two different elements of a row pitch never collide (R254). -/
def Obligations.LegacyTilesAreInjective : Prop :=
  ∀ (w : Swizzle), w ∈ [swizzleX, swizzleY, swizzleW] → ∀ x y x' y' pitch : Nat,
    pitch % 2 ^ w.cu = 0 → x < pitch → x' < pitch →
    swizzledOffset w x y 0 pitch = swizzledOffset w x' y' 0 pitch → x = x' ∧ y = y'

/-- What the spec forbids of tiled surfaces (R244, R285, R405; I23, I26, I53) stops: a base that is not tile aligned, in each tiled
mode (of the standard modes for the element sizes without the mip-tail exception of R244); a pitch that is no whole number of
tiles or above 256 KB, in each tiled mode with the tile widths of R260 and R263; and a TileX access that reaches a Null or Invalid tile, at each level of the TR-TT tables. -/
def Obligations.TilingPreconditionsStop : Prop :=
  ∀ (s : State) (a : TileArgs) (e : QWord) (w : Word) (x : Access),
    (a.base.toNat % 4096 ≠ 0 → exec (.tileX a) s = .refused .misalignedTileBase ∧
      exec (.tileY a) s = .refused .misalignedTileBase ∧ exec (.tileW a) s = .refused .misalignedTileBase) ∧
    (a.elem ∈ [ElemBits.e8, .e16, .e32] →
      (a.base.toNat % 4096 ≠ 0 → exec (.tileYf a) s = .refused .misalignedTileBase) ∧
      (a.base.toNat % 65536 ≠ 0 → exec (.tileYs a) s = .refused .misalignedTileBase)) ∧
    (a.base.toNat % 4096 = 0 →
      (a.pitch.toNat % 512 ≠ 0 ∨ 262144 < a.pitch.toNat → exec (.tileX a) s = .refused .badPitch) ∧
      (a.pitch.toNat % 128 ≠ 0 ∨ 262144 < a.pitch.toNat → exec (.tileY a) s = .refused .badPitch) ∧
      (a.pitch.toNat % 64 ≠ 0 ∨ 262144 < a.pitch.toNat → exec (.tileW a) s = .refused .badPitch)) ∧
    (∀ k ∈ [(ElemBits.e8, 64), (.e16, 128), (.e32, 128), (.e64, 256), (.e128, 256)], a.elem = k.1 →
      let narrowed : Nat := match a.samples with
        | .s1 => 1
        | .s2 => 2
        | .s4 => 2
        | _ => 4
      (a.base.toNat % 4096 = 0 → a.pitch.toNat % k.2 ≠ 0 ∨ 262144 < a.pitch.toNat → exec (.tileYf a) s = .refused .badPitch) ∧
      (a.base.toNat % 65536 = 0 → a.pitch.toNat % (4 * k.2 / narrowed) ≠ 0 ∨ 262144 < a.pitch.toNat →
        exec (.tileYs a) s = .refused .badPitch)) ∧
    (x.tileX = true →
      ((bit e 0 = true ∨ bit e 1 = true) →
        exec (.trttL3e e x) s = .refused .nullTileOnTileX ∧ exec (.trttL2e e x) s = .refused .nullTileOnTileX) ∧
      (w = s.regs.invalidTile ∨ w = s.regs.nullTile → exec (.trttL1e w x) s = .refused .nullTileOnTileX))

/-! ### The context handshake and the control tables -/

/-- Context Available, step 1 of the handshake, for every engine (R850, R377, R35): with no fault of the engine waiting, the old
context is out, the retained translations are dropped, GAM answers Context Receive Ready, and requests are no longer translated. A
PASID counter of an advanced context is decremented. The context's part of the registers, the render engine's TR-TT registers and the
engine's block of GAM_MOCS, is in the image that its LRCA addresses, where the Global GTT maps it (R31, R40, R52, R80; log entry 73); no other
byte of memory and no other engine changes. Where requests of the loaded context
wait, they are presented again first and the message after them: earlier requests complete under the old context (the fence of step
1). Those that only keep behind one in Stream mode leave with the context, as that one does (R829, log entry 60). While a fault of the engine waits the context cannot be switched out (R825), and the fence cannot complete while a reset of the
engine waits with requests in its way (R871; log entry 37). That the answer and what is presented again are inputs is the model's choice
(log entries 19 and 60), and so is the message kept until the wait ends (log entry 60). That a bit is written where its mask bit is 1 is
presumed (R34, G2, log entry 51); so in the three steps below. -/
def Obligations.ContextAvailableStep : Prop :=
  ∀ (s : State) (e : Engine) (w : Word), messageBit w 0 = true → messageBit w 1 = false →
    let waits := (engineOf s e).ctx ≠ none ∧ (engineOf s e).phase = .quiet ∧ (engineOf s e).stalled ≠ []
    ((engineOf s e).miss = none → (engineOf s e).mode ≠ .hung → waits → (engineOf s e).resetting = false →
      ∃ tail, exec (availableOf e w) s = .next { s with
        engines := s.engines.set e { engineOf s e with
          msgToGam := (engineOf s e).msgToGam ||| 1, stalled := [], behind := [], availPending := false }
        inputs := ((engineOf s e).behind ++ (engineOf s e).stalled).map (fun r => .op (.resume r)) ++ tail } ∧
        .message (availableOf e 0x00010001) ∈ tail) ∧
    ((engineOf s e).miss = none → (engineOf s e).mode ≠ .hung → ¬waits →
      ∃ t, exec (availableOf e w) s = .next t ∧ (engineOf t e).phase = .available ∧ (engineOf t e).ctx = none ∧
        (engineOf t e).outstanding = [] ∧ (engineOf t e).behind = [] ∧ nothingRetained t e = true ∧ bit (engineOf t e).msgToGam 0 = false ∧
        bit (engineOf t e).msgToCs 0 = true ∧ .message (receiveReadyOf e 0x00010001) ∈ t.inputs ∧
        (∀ b, (∀ c, (engineOf s e).ctx = some c → ∀ w ∈ imageWords s e, imageMapped s (c.desc.extractLsb' 12 20) w.2 = true →
            b < imageTarget s (c.desc.extractLsb' 12 20) w.2 ∨ imageTarget s (c.desc.extractLsb' 12 20) w.2 + 4 ≤ b) →
          memRead t.mem b = memRead s.mem b) ∧
        (Memory.wf s.mem = true → ∀ c, (engineOf s e).ctx = some c → ∀ w ∈ imageWords s e,
          imageMapped s (c.desc.extractLsb' 12 20) w.2 = true →
          (∀ q ∈ imageWords s e, q = w ∨ imageApart s (c.desc.extractLsb' 12 20) w.2 q.2) →
          memReadLe t.mem (imageTarget s (c.desc.extractLsb' 12 20) w.2) 4 = w.1.setWidth 64) ∧
        sameOtherEngines s t e ∧ t.regs = s.regs ∧ t.pci = s.pci ∧
        t.pasidCounts =
          (if runsAdvanced (engineOf s e) then addPasidCount (pasidOf (engineOf s e)) (-1) s.pasidCounts
           else s.pasidCounts)) ∧
    ((engineOf s e).miss.isSome = true ∨ (waits ∧ (engineOf s e).resetting = true) →
      exec (availableOf e w) s =
        .next (setEngine s e { engineOf s e with msgToGam := (engineOf s e).msgToGam ||| 1, availPending := true }))

/-- Context Receive Ready, step 2 (R850): the command streamer may write the descriptor registers. The masked write is presumed (R34, G2,
log entry 51). -/
def Obligations.ContextReceiveReadyStep : Prop :=
  ∀ (s : State) (e : Engine) (w : Word),
    messageBit w 0 = true → messageBit w 1 = false → (engineOf s e).phase = .available →
    exec (receiveReadyOf e w) s =
      .next (setEngine s e { engineOf s e with
        msgToCs := (engineOf s e).msgToCs &&& 0xFFFFFFFE, phase := .ready })

/-- Context Launched, step 3 (R850, R852, R57, R373, R40): the five descriptor registers are latched as the engine's context, Valid =
0 is flagged and the context runs all the same, an advanced context fills the PASID Cache with the entry of its function and PASID,
a legacy one leaves it not valid, and GAM answers Context Confirmed. The registers are restored from the context image in memory that the
descriptor's LRCA addresses (R31, R80): the TR-TT registers for the render engine, the engine's block of GAM_MOCS (R40, R52). No byte of memory
and no other engine changes. That the answer is the next input, that the PASID Cache is filled here, that the image lies in the Global GTT, and
that what is not mapped there stays as it is, is the model's choice (log entries 19, 43, 73). The masked write is presumed (R34, G2, log entry
51). -/
def Obligations.ContextLaunchedStep : Prop :=
  ∀ (s : State) (e : Engine) (w : Word),
    messageBit w 0 = false → messageBit w 1 = true → (engineOf s e).phase = .ready →
    (let d := (engineOf s e).regs
     let lrca := d.desc.extractLsb' 12 20
     let image (k : Nat) : Word := (memReadLe s.mem (imageTarget s lrca k) 4).setWidth 32
     let trtt := s.params.imageTrtt
     let slot (i : Nat) : Nat := 64 * mocsBlock s.params e + i
     ∃ t, exec (launchedOf e w) s = .next t ∧ (engineOf t e).ctx = some d ∧
       (engineOf t e).phase = .launched ∧ t.inputs = .message (confirmedOf e 0x00020002) :: s.inputs ∧
       (bit d.desc 0 = false → .descriptorError ∈ (engineOf t e).events) ∧
       (bit d.desc 0 = true → (engineOf t e).events = (engineOf s e).events) ∧
       (engineOf t e).pasidCache =
         (if bit d.desc 3 then none else iommuLookup s (d.desc.extractLsb' 9 3) (d.pdp0.extractLsb' 0 20)) ∧
       ((∀ w ∈ imageWords s e, imageMapped s lrca w.2 = false) → t.regs = s.regs) ∧
       (e ≠ .rcs → t.regs = { s.regs with gamMocs := t.regs.gamMocs }) ∧
       (cpuSettled s = true →
         (e = .rcs →
           (imageMapped s lrca trtt = true → imageMapped s lrca (trtt + 1) = true →
             t.regs.l3Ptr = (image (trtt + 1) &&& 0x0000FFFF) ++ (image trtt &&& 0xFFFF0000)) ∧
           (imageMapped s lrca (trtt + 2) = true → t.regs.nullTile = image (trtt + 2)) ∧
           (imageMapped s lrca (trtt + 3) = true → t.regs.invalidTile = image (trtt + 3)) ∧
           (imageMapped s lrca (trtt + 4) = true → t.regs.trvadr = image (trtt + 4) &&& 0xFF) ∧
           (imageMapped s lrca (trtt + 5) = true → t.regs.trtte = image (trtt + 5) &&& 3)) ∧
         (∀ i, i < 64 → slot i < s.regs.gamMocs.length → imageMapped s lrca (s.params.imageMocs + i) = true →
           t.regs.gamMocs.getD (slot i) 0 = image (s.params.imageMocs + i))) ∧
       sameMemory s t ∧ sameOtherEngines s t e)

/-- Context Confirmed, step 4 (R850, R833, R377): an Idle engine is Running, its requests are translated again, nothing is
retained, and the requests that waited for a context are presented again. No byte of memory and no other engine changes. That they
are presented again as inputs is the model's choice (log entries 60 and 19). The masked write is presumed (R34, G2, log entry 51). -/
def Obligations.ContextConfirmedStep : Prop :=
  ∀ (s : State) (e : Engine) (w : Word),
    messageBit w 0 = false → messageBit w 1 = true → (engineOf s e).phase = .launched →
    ∃ t, exec (confirmedOf e w) s = .next t ∧ (engineOf t e).phase = .quiet ∧
      ((engineOf s e).mode = .idle → (engineOf t e).mode = .running) ∧ (engineOf t e).ctx = (engineOf s e).ctx ∧
      nothingRetained t e = true ∧ (engineOf t e).stalled = [] ∧ (engineOf t e).behind = [] ∧
      (∀ r ∈ (engineOf s e).behind ++ (engineOf s e).stalled, .op (.resume r) ∈ t.inputs) ∧ sameMemory s t ∧ sameOtherEngines s t e

/-- LNCFCMOCS_ENTRY and GAM_MOCS_ENTRY (R50, R52, R490): while no request in flight uses the entry, the entry named by the index, or
by block and index, takes the value written; every other entry and all other state is unchanged. A change of an entry that a request
in flight uses is refused (R490, I62), in each of the two tables. That the reserved bits of an entry hold what is written is the model's choice (log
entry 94). -/
def Obligations.ControlTableEntries : Prop :=
  ∀ (s : State) (w16 : BitVec 16) (w : Word) (a : MocsIndex) (b : MocsSlot),
    let slot := 64 * b.block.toNat + b.index.toNat
    (lncfInUse s a.index.toNat = false ∨ s.regs.lncf.getD a.index.toNat 0 = w16 →
      exec (.lncfcmocsEntry w16 a) s =
        .next { s with regs := { s.regs with lncf := s.regs.lncf.set a.index.toNat w16 } }) ∧
    (gamMocsInUse s slot = false ∨ s.regs.gamMocs.getD slot 0 = w →
      exec (.gamMocsEntry w b) s = .next { s with regs := { s.regs with gamMocs := s.regs.gamMocs.set slot w } }) ∧
    (lncfInUse s a.index.toNat = true → s.regs.lncf.getD a.index.toNat 0 ≠ w16 →
      exec (.lncfcmocsEntry w16 a) s = .refused .mocsChangedInFlight) ∧
    (gamMocsInUse s slot = true → s.regs.gamMocs.getD slot 0 ≠ w → exec (.gamMocsEntry w b) s = .refused .mocsChangedInFlight)

/-- A write to the Page Request Control register (R73, R74): PRE 1 to 0 sets Stopped and leaves the other status bits; PRE 0 to 1
clears the status, unless it was stopped with page requests outstanding. -/
def Obligations.PageRequestEnable : Prop :=
  ∀ (s : State) (w : Word) (rest : List Input), s.inputs = .op (.pciWrite .priControl w) :: rest →
    ∃ t, step s = .next t ∧ sameMemory s t ∧ t.engines = s.engines ∧ t.regs = s.regs ∧
      (bit s.pci.priControl 0 = true → bit w 0 = false →
        t.pci = { s.pci with priControl := 0, priStatus := s.pci.priStatus ||| 0x0100 }) ∧
      (bit s.pci.priControl 0 = false → bit w 0 = true → (bit s.pci.priStatus 8 = false ∨ s.pageRequests = []) →
        t.pci = { s.pci with priControl := 1, priStatus := 0 })
end

