-- ==== Sys2Proof/Laws/Codec.lean ====
section
/-! SUPPORT. The laws of the encoding: reading an operand from the bytes it was written as gives it back with the bytes that
follow. -/

namespace Sys2Proof

/-! ### Values of several bytes -/

/-- The value of the `k` low bytes of a value, read back: its low `8 k` bits. -/
theorem getLsbD_ofLeBytes (n : Nat) (bs : List Byte) (i : Nat) :
    (ofLeBytes n bs).getLsbD i = (decide (i < n) && (bs.getD (i / 8) 0).getLsbD (i % 8)) := by
  induction bs generalizing i with
  | nil => simp [ofLeBytes]
  | cons b bs ih =>
    simp only [ofLeBytes, BitVec.getLsbD_or, BitVec.getLsbD_shiftLeft, BitVec.getLsbD_setWidth, ih]
    by_cases hn : i < n
    · by_cases h8 : i < 8
      · simp [hn, h8, Nat.div_eq_of_lt h8, Nat.mod_eq_of_lt h8]
      · obtain ⟨j, rfl⟩ : ∃ j, i = j + 8 := ⟨i - 8, by omega⟩
        have h1 : (j + 8) / 8 = j / 8 + 1 := by omega
        have h2 : (j + 8) % 8 = j % 8 := by omega
        simp [hn, h1, h2, show j < n by omega]
    · simp [hn]

/-- A value of `k` bytes read from the bytes it was written as. -/
theorem ofLeBytes_leBytes {n : Nat} (w : BitVec n) (k : Nat) (h : n ≤ 8 * k) : ofLeBytes n (leBytes w k) = w := by
  apply BitVec.eq_of_getLsbD_eq
  intro i hi
  have hk : i / 8 < k := by omega
  rw [getLsbD_ofLeBytes]
  simp only [hi, decide_true, Bool.true_and, leBytes]
  rw [List.getD_eq_getElem?_getD, List.getElem?_map, List.getElem?_range hk]
  simp only [Option.map_some, Option.getD_some, byteAt, BitVec.getLsbD_extractLsb', Nat.mod_lt i (by omega : 8 > 0),
    decide_true, Bool.true_and]
  congr 1
  omega

@[simp] theorem length_leBytes {n : Nat} (w : BitVec n) (k : Nat) : (leBytes w k).length = k := by simp [leBytes]

/-- Reading a value of `k` bytes from its own bytes gives it back with what follows. -/
theorem getLe_leBytes {n : Nat} (w : BitVec n) (k : Nat) (r : List Byte) (h : n ≤ 8 * k) :
    getLe n k (leBytes w k ++ r) = some (w, r) := by
  have ht : (leBytes w k ++ r).take k = leBytes w k := by
    rw [List.take_append_of_le_length (by simp)]; exact List.take_of_length_le (by simp)
  have hd : (leBytes w k ++ r).drop k = r := by
    rw [List.drop_append_of_le_length (by simp), List.drop_of_length_le (by simp), List.nil_append]
  rw [getLe, if_pos (by simp), ht, hd, ofLeBytes_leBytes w k h]

@[simp] theorem getBits16_put (w : BitVec 16) (r : List Byte) : getBits16 (leBytes w 2 ++ r) = some (w, r) :=
  getLe_leBytes w 2 r (by omega)
@[simp] theorem getWord_put (w : Word) (r : List Byte) : getWord (leBytes w 4 ++ r) = some (w, r) :=
  getLe_leBytes w 4 r (by omega)
@[simp] theorem getBits48_put (w : BitVec 48) (r : List Byte) : getBits48 (leBytes w 6 ++ r) = some (w, r) :=
  getLe_leBytes w 6 r (by omega)
@[simp] theorem getQWord_put (w : QWord) (r : List Byte) : getQWord (leBytes w 8 ++ r) = some (w, r) :=
  getLe_leBytes w 8 r (by omega)
@[simp] theorem getBlock_put (w : Block) (r : List Byte) : getBlock (leBytes w 16 ++ r) = some (w, r) :=
  getLe_leBytes w 16 r (by omega)
@[simp] theorem getByte_cons (b : Byte) (r : List Byte) : getByte (b :: r) = some (b, r) := rfl
@[simp] theorem getBool_put (x : Bool) (r : List Byte) : getBool (putBool x ++ r) = some (x, r) := by
  cases x <;> rfl

/-- A small field read back. -/
@[simp] theorem getSmall_put {n : Nat} (x : BitVec n) (r : List Byte) (h : n ≤ 8) :
    getSmall n (putSmall x ++ r) = some (x, r) := by
  have h1 : (x.setWidth 8).toNat = x.toNat := by
    rw [BitVec.toNat_setWidth]
    exact Nat.mod_eq_of_lt (lt_of_lt_of_le x.isLt (Nat.pow_le_pow_right (by omega) h))
  have h2 : (x.setWidth 8).toNat < 2 ^ n := by rw [h1]; exact x.isLt
  simp only [putSmall, List.cons_append, List.nil_append, getSmall, h2, if_true]
  congr 2
  apply BitVec.eq_of_toNat_eq
  rw [BitVec.toNat_setWidth, h1]
  exact Nat.mod_eq_of_lt x.isLt

/-! ### Operands -/

@[simp] theorem Engine.get_put (x : Engine) (r : List Byte) : Engine.get (x.put ++ r) = some (x, r) := by
  cases x <;> rfl
@[simp] theorem Client.get_put (x : Client) (r : List Byte) : Client.get (x.put ++ r) = some (x, r) := by
  cases x <;> rfl
@[simp] theorem AccessKind.get_put (x : AccessKind) (r : List Byte) : AccessKind.get (x.put ++ r) = some (x, r) := by
  cases x <;> rfl
@[simp] theorem ElemBits.get_put (x : ElemBits) (r : List Byte) : ElemBits.get (x.put ++ r) = some (x, r) := by
  cases x <;> rfl
@[simp] theorem Samples.get_put (x : Samples) (r : List Byte) : Samples.get (x.put ++ r) = some (x, r) := by
  cases x <;> rfl

@[simp] theorem AtomicArgs.get_put (x : AtomicArgs) (r : List Byte) : AtomicArgs.get (x.put ++ r) = some (x, r) := by
  simp [AtomicArgs.get, AtomicArgs.put]
@[simp] theorem Access.get_put (x : Access) (r : List Byte) : Access.get (x.put ++ r) = some (x, r) := by
  obtain ⟨eng, client, kind, ifetch, useGgtt, coherent, faultable, tileX, gttControl, mocs, size, va, data⟩ := x
  simp only [Access.put, List.append_assoc]
  unfold Access.get
  rw [Engine.get_put]; dsimp only [bind, Option.bind]
  rw [Client.get_put]; dsimp only
  rw [AccessKind.get_put]; dsimp only
  rw [getBool_put]; dsimp only
  rw [getBool_put]; dsimp only
  rw [getBool_put]; dsimp only
  rw [getBool_put]; dsimp only
  rw [getBool_put]; dsimp only
  rw [getBool_put]; dsimp only
  rw [getSmall_put _ _ (by omega)]; dsimp only
  rw [getSmall_put _ _ (by omega)]; dsimp only
  rw [getQWord_put]; dsimp only
  rw [getQWord_put]; rfl
@[simp] theorem DescArgs.get_put (x : DescArgs) (r : List Byte) : DescArgs.get (x.put ++ r) = some (x, r) := by
  simp [DescArgs.get, DescArgs.put]
@[simp] theorem FaultArgs.get_put (x : FaultArgs) (r : List Byte) : FaultArgs.get (x.put ++ r) = some (x, r) := by
  simp [FaultArgs.get, FaultArgs.put]
@[simp] theorem GttUpdateArgs.get_put (x : GttUpdateArgs) (r : List Byte) :
    GttUpdateArgs.get (x.put ++ r) = some (x, r) := by
  simp [GttUpdateArgs.get, GttUpdateArgs.put]
@[simp] theorem HdcId.get_put (x : HdcId) (r : List Byte) : HdcId.get (x.put ++ r) = some (x, r) := by
  simp [HdcId.get, HdcId.put]
@[simp] theorem HdcRequest.get_put (x : HdcRequest) (r : List Byte) : HdcRequest.get (x.put ++ r) = some (x, r) := by
  simp [HdcRequest.get, HdcRequest.put]
@[simp] theorem HdcAck.get_put (x : HdcAck) (r : List Byte) : HdcAck.get (x.put ++ r) = some (x, r) := by
  simp [HdcAck.get, HdcAck.put]
@[simp] theorem ResponseKind.get_put (x : ResponseKind) (r : List Byte) : ResponseKind.get (x.put ++ r) = some (x, r) := by
  cases x <;> rfl
@[simp] theorem GamResponse.get_put (x : GamResponse) (r : List Byte) : GamResponse.get (x.put ++ r) = some (x, r) := by
  simp [GamResponse.get, GamResponse.put]
@[simp] theorem TypeArgs.get_put (x : TypeArgs) (r : List Byte) : TypeArgs.get (x.put ++ r) = some (x, r) := by
  simp [TypeArgs.get, TypeArgs.put]
@[simp] theorem FormatFlags.get_put (x : FormatFlags) (r : List Byte) : FormatFlags.get (x.put ++ r) = some (x, r) := by
  simp [FormatFlags.get, FormatFlags.put]
@[simp] theorem TileArgs.get_put (x : TileArgs) (r : List Byte) : TileArgs.get (x.put ++ r) = some (x, r) := by
  simp [TileArgs.get, TileArgs.put]
@[simp] theorem MocsIndex.get_put (x : MocsIndex) (r : List Byte) : MocsIndex.get (x.put ++ r) = some (x, r) := by
  simp [MocsIndex.get, MocsIndex.put]
@[simp] theorem MocsSlot.get_put (x : MocsSlot) (r : List Byte) : MocsSlot.get (x.put ++ r) = some (x, r) := by
  simp [MocsSlot.get, MocsSlot.put]

/-- An operand whose bytes were written reads back. -/
theorem operand_some {α : Type} {g : List Byte → Option (α × List Byte)} {bs : List Byte} {x : α × List Byte}
    (h : g bs = some x) : operand g bs = .ok x := by simp [operand, h]

/-- The decoder answers the object its bytes are, where that is well formed. -/
theorem decode_of_object {p : Port} {bs r : List Byte} {i : Instr} (h : decodeObject p bs = .ok (i, r))
    (hw : i.wf = true) : decode p bs = .ok (i, r) := by
  simp [decode, h, hw, bind, Except.bind, pure, Except.pure]

/-- Whatever the decoder answers is well formed. -/
theorem wf_of_decode {p : Port} {bs r : List Byte} {i : Instr} (h : decode p bs = .ok (i, r)) : i.wf = true := by
  simp only [decode, bind, Except.bind] at h
  split at h
  · cases h
  · split at h
    · rename_i hw
      cases h
      exact hw
    · cases h

end Sys2Proof
end

