-- ==== Sys2Proof/Laws/State.lean ====
section
/-! SUPPORT. What each named update of the state leaves as it was, field by field; and the engine read after an update. -/

namespace Sys2Proof.Machine

open Sys2Proof

/-! ### advanceDraws -/

@[simp] theorem advanceDraws_params (s : State) (n : Nat) : (advanceDraws s n).params = s.params := rfl
@[simp] theorem advanceDraws_mem (s : State) (n : Nat) : (advanceDraws s n).mem = s.mem := rfl
@[simp] theorem advanceDraws_history (s : State) (n : Nat) : (advanceDraws s n).history = s.history := rfl
@[simp] theorem advanceDraws_texMark (s : State) (n : Nat) : (advanceDraws s n).texMark = s.texMark := rfl
@[simp] theorem advanceDraws_icMark (s : State) (n : Nat) : (advanceDraws s n).icMark = s.icMark := rfl
@[simp] theorem advanceDraws_gpuMark (s : State) (n : Nat) : (advanceDraws s n).gpuMark = s.gpuMark := rfl
@[simp] theorem advanceDraws_waitMark (s : State) (n : Nat) : (advanceDraws s n).waitMark = s.waitMark := rfl
@[simp] theorem advanceDraws_cpuMark (s : State) (n : Nat) : (advanceDraws s n).cpuMark = s.cpuMark := rfl
@[simp] theorem advanceDraws_llcMark (s : State) (n : Nat) : (advanceDraws s n).llcMark = s.llcMark := rfl
@[simp] theorem advanceDraws_engines (s : State) (n : Nat) : (advanceDraws s n).engines = s.engines := rfl
@[simp] theorem advanceDraws_regs (s : State) (n : Nat) : (advanceDraws s n).regs = s.regs := rfl
@[simp] theorem advanceDraws_priorRegs (s : State) (n : Nat) : (advanceDraws s n).priorRegs = s.priorRegs := rfl
@[simp] theorem advanceDraws_pci (s : State) (n : Nat) : (advanceDraws s n).pci = s.pci := rfl
@[simp] theorem advanceDraws_iommu (s : State) (n : Nat) : (advanceDraws s n).iommu = s.iommu := rfl
@[simp] theorem advanceDraws_contextCache (s : State) (n : Nat) : (advanceDraws s n).contextCache = s.contextCache := rfl
@[simp] theorem advanceDraws_pasidCounts (s : State) (n : Nat) : (advanceDraws s n).pasidCounts = s.pasidCounts := rfl
@[simp] theorem advanceDraws_memRanges (s : State) (n : Nat) : (advanceDraws s n).memRanges = s.memRanges := rfl
@[simp] theorem advanceDraws_pageRequests (s : State) (n : Nat) : (advanceDraws s n).pageRequests = s.pageRequests := rfl
@[simp] theorem advanceDraws_nextPrg (s : State) (n : Nat) : (advanceDraws s n).nextPrg = s.nextPrg := rfl
@[simp] theorem advanceDraws_detached (s : State) (n : Nat) : (advanceDraws s n).detached = s.detached := rfl
@[simp] theorem advanceDraws_lastQueued (s : State) (n : Nat) : (advanceDraws s n).lastQueued = s.lastQueued := rfl
@[simp] theorem advanceDraws_flrPending (s : State) (n : Nat) : (advanceDraws s n).flrPending = s.flrPending := rfl
@[simp] theorem advanceDraws_notifications (s : State) (n : Nat) : (advanceDraws s n).notifications = s.notifications := rfl
@[simp] theorem advanceDraws_hdc (s : State) (n : Nat) : (advanceDraws s n).hdc = s.hdc := rfl
@[simp] theorem advanceDraws_palette (s : State) (n : Nat) : (advanceDraws s n).palette = s.palette := rfl
@[simp] theorem advanceDraws_walk (s : State) (n : Nat) : (advanceDraws s n).walk = s.walk := rfl
@[simp] theorem advanceDraws_trWalk (s : State) (n : Nat) : (advanceDraws s n).trWalk = s.trWalk := rfl
@[simp] theorem advanceDraws_indices (s : State) (n : Nat) : (advanceDraws s n).indices = s.indices := rfl
@[simp] theorem advanceDraws_ggttOffset (s : State) (n : Nat) : (advanceDraws s n).ggttOffset = s.ggttOffset := rfl
@[simp] theorem advanceDraws_atomicReturn (s : State) (n : Nat) : (advanceDraws s n).atomicReturn = s.atomicReturn := rfl
@[simp] theorem advanceDraws_completion (s : State) (n : Nat) : (advanceDraws s n).completion = s.completion := rfl
@[simp] theorem advanceDraws_memType (s : State) (n : Nat) : (advanceDraws s n).memType = s.memType := rfl
@[simp] theorem advanceDraws_cache (s : State) (n : Nat) : (advanceDraws s n).cache = s.cache := rfl
@[simp] theorem advanceDraws_tile (s : State) (n : Nat) : (advanceDraws s n).tile = s.tile := rfl
@[simp] theorem advanceDraws_lodOrigin (s : State) (n : Nat) : (advanceDraws s n).lodOrigin = s.lodOrigin := rfl
@[simp] theorem advanceDraws_planar (s : State) (n : Nat) : (advanceDraws s n).planar = s.planar := rfl
@[simp] theorem advanceDraws_pixel (s : State) (n : Nat) : (advanceDraws s n).pixel = s.pixel := rfl
@[simp] theorem advanceDraws_texels (s : State) (n : Nat) : (advanceDraws s n).texels = s.texels := rfl
@[simp] theorem advanceDraws_texel (s : State) (n : Nat) : (advanceDraws s n).texel = s.texel := rfl
@[simp] theorem advanceDraws_astcFormat (s : State) (n : Nat) : (advanceDraws s n).astcFormat = s.astcFormat := rfl
@[simp] theorem advanceDraws_inputs (s : State) (n : Nat) : (advanceDraws s n).inputs = s.inputs := rfl

/-! ### complete -/

@[simp] theorem complete_params (s : State) (c : Completion) : (complete s c).params = s.params := rfl
@[simp] theorem complete_mem (s : State) (c : Completion) : (complete s c).mem = s.mem := rfl
@[simp] theorem complete_history (s : State) (c : Completion) : (complete s c).history = s.history := rfl
@[simp] theorem complete_texMark (s : State) (c : Completion) : (complete s c).texMark = s.texMark := rfl
@[simp] theorem complete_icMark (s : State) (c : Completion) : (complete s c).icMark = s.icMark := rfl
@[simp] theorem complete_gpuMark (s : State) (c : Completion) : (complete s c).gpuMark = s.gpuMark := rfl
@[simp] theorem complete_waitMark (s : State) (c : Completion) : (complete s c).waitMark = s.waitMark := rfl
@[simp] theorem complete_cpuMark (s : State) (c : Completion) : (complete s c).cpuMark = s.cpuMark := rfl
@[simp] theorem complete_llcMark (s : State) (c : Completion) : (complete s c).llcMark = s.llcMark := rfl
@[simp] theorem complete_engines (s : State) (c : Completion) : (complete s c).engines = s.engines := rfl
@[simp] theorem complete_regs (s : State) (c : Completion) : (complete s c).regs = s.regs := rfl
@[simp] theorem complete_priorRegs (s : State) (c : Completion) : (complete s c).priorRegs = s.priorRegs := rfl
@[simp] theorem complete_pci (s : State) (c : Completion) : (complete s c).pci = s.pci := rfl
@[simp] theorem complete_iommu (s : State) (c : Completion) : (complete s c).iommu = s.iommu := rfl
@[simp] theorem complete_contextCache (s : State) (c : Completion) : (complete s c).contextCache = s.contextCache := rfl
@[simp] theorem complete_pasidCounts (s : State) (c : Completion) : (complete s c).pasidCounts = s.pasidCounts := rfl
@[simp] theorem complete_memRanges (s : State) (c : Completion) : (complete s c).memRanges = s.memRanges := rfl
@[simp] theorem complete_pageRequests (s : State) (c : Completion) : (complete s c).pageRequests = s.pageRequests := rfl
@[simp] theorem complete_nextPrg (s : State) (c : Completion) : (complete s c).nextPrg = s.nextPrg := rfl
@[simp] theorem complete_detached (s : State) (c : Completion) : (complete s c).detached = s.detached := rfl
@[simp] theorem complete_lastQueued (s : State) (c : Completion) : (complete s c).lastQueued = s.lastQueued := rfl
@[simp] theorem complete_flrPending (s : State) (c : Completion) : (complete s c).flrPending = s.flrPending := rfl
@[simp] theorem complete_notifications (s : State) (c : Completion) : (complete s c).notifications = s.notifications := rfl
@[simp] theorem complete_hdc (s : State) (c : Completion) : (complete s c).hdc = s.hdc := rfl
@[simp] theorem complete_palette (s : State) (c : Completion) : (complete s c).palette = s.palette := rfl
@[simp] theorem complete_walk (s : State) (c : Completion) : (complete s c).walk = s.walk := rfl
@[simp] theorem complete_trWalk (s : State) (c : Completion) : (complete s c).trWalk = s.trWalk := rfl
@[simp] theorem complete_indices (s : State) (c : Completion) : (complete s c).indices = s.indices := rfl
@[simp] theorem complete_ggttOffset (s : State) (c : Completion) : (complete s c).ggttOffset = s.ggttOffset := rfl
@[simp] theorem complete_atomicReturn (s : State) (c : Completion) : (complete s c).atomicReturn = s.atomicReturn := rfl
@[simp] theorem complete_memType (s : State) (c : Completion) : (complete s c).memType = s.memType := rfl
@[simp] theorem complete_cache (s : State) (c : Completion) : (complete s c).cache = s.cache := rfl
@[simp] theorem complete_tile (s : State) (c : Completion) : (complete s c).tile = s.tile := rfl
@[simp] theorem complete_lodOrigin (s : State) (c : Completion) : (complete s c).lodOrigin = s.lodOrigin := rfl
@[simp] theorem complete_planar (s : State) (c : Completion) : (complete s c).planar = s.planar := rfl
@[simp] theorem complete_pixel (s : State) (c : Completion) : (complete s c).pixel = s.pixel := rfl
@[simp] theorem complete_texels (s : State) (c : Completion) : (complete s c).texels = s.texels := rfl
@[simp] theorem complete_texel (s : State) (c : Completion) : (complete s c).texel = s.texel := rfl
@[simp] theorem complete_astcFormat (s : State) (c : Completion) : (complete s c).astcFormat = s.astcFormat := rfl
@[simp] theorem complete_draws (s : State) (c : Completion) : (complete s c).draws = s.draws := rfl
@[simp] theorem complete_inputs (s : State) (c : Completion) : (complete s c).inputs = s.inputs := rfl

/-! ### setEngine -/

@[simp] theorem setEngine_params (s : State) (e : Engine) (x : EngineSt) : (setEngine s e x).params = s.params := rfl
@[simp] theorem setEngine_mem (s : State) (e : Engine) (x : EngineSt) : (setEngine s e x).mem = s.mem := rfl
@[simp] theorem setEngine_history (s : State) (e : Engine) (x : EngineSt) : (setEngine s e x).history = s.history := rfl
@[simp] theorem setEngine_texMark (s : State) (e : Engine) (x : EngineSt) : (setEngine s e x).texMark = s.texMark := rfl
@[simp] theorem setEngine_icMark (s : State) (e : Engine) (x : EngineSt) : (setEngine s e x).icMark = s.icMark := rfl
@[simp] theorem setEngine_gpuMark (s : State) (e : Engine) (x : EngineSt) : (setEngine s e x).gpuMark = s.gpuMark := rfl
@[simp] theorem setEngine_waitMark (s : State) (e : Engine) (x : EngineSt) : (setEngine s e x).waitMark = s.waitMark := rfl
@[simp] theorem setEngine_cpuMark (s : State) (e : Engine) (x : EngineSt) : (setEngine s e x).cpuMark = s.cpuMark := rfl
@[simp] theorem setEngine_llcMark (s : State) (e : Engine) (x : EngineSt) : (setEngine s e x).llcMark = s.llcMark := rfl
@[simp] theorem setEngine_regs (s : State) (e : Engine) (x : EngineSt) : (setEngine s e x).regs = s.regs := rfl
@[simp] theorem setEngine_priorRegs (s : State) (e : Engine) (x : EngineSt) : (setEngine s e x).priorRegs = s.priorRegs := rfl
@[simp] theorem setEngine_pci (s : State) (e : Engine) (x : EngineSt) : (setEngine s e x).pci = s.pci := rfl
@[simp] theorem setEngine_iommu (s : State) (e : Engine) (x : EngineSt) : (setEngine s e x).iommu = s.iommu := rfl
@[simp] theorem setEngine_contextCache (s : State) (e : Engine) (x : EngineSt) : (setEngine s e x).contextCache = s.contextCache := rfl
@[simp] theorem setEngine_pasidCounts (s : State) (e : Engine) (x : EngineSt) : (setEngine s e x).pasidCounts = s.pasidCounts := rfl
@[simp] theorem setEngine_memRanges (s : State) (e : Engine) (x : EngineSt) : (setEngine s e x).memRanges = s.memRanges := rfl
@[simp] theorem setEngine_pageRequests (s : State) (e : Engine) (x : EngineSt) : (setEngine s e x).pageRequests = s.pageRequests := rfl
@[simp] theorem setEngine_nextPrg (s : State) (e : Engine) (x : EngineSt) : (setEngine s e x).nextPrg = s.nextPrg := rfl
@[simp] theorem setEngine_detached (s : State) (e : Engine) (x : EngineSt) : (setEngine s e x).detached = s.detached := rfl
@[simp] theorem setEngine_lastQueued (s : State) (e : Engine) (x : EngineSt) : (setEngine s e x).lastQueued = s.lastQueued := rfl
@[simp] theorem setEngine_flrPending (s : State) (e : Engine) (x : EngineSt) : (setEngine s e x).flrPending = s.flrPending := rfl
@[simp] theorem setEngine_notifications (s : State) (e : Engine) (x : EngineSt) : (setEngine s e x).notifications = s.notifications := rfl
@[simp] theorem setEngine_hdc (s : State) (e : Engine) (x : EngineSt) : (setEngine s e x).hdc = s.hdc := rfl
@[simp] theorem setEngine_palette (s : State) (e : Engine) (x : EngineSt) : (setEngine s e x).palette = s.palette := rfl
@[simp] theorem setEngine_walk (s : State) (e : Engine) (x : EngineSt) : (setEngine s e x).walk = s.walk := rfl
@[simp] theorem setEngine_trWalk (s : State) (e : Engine) (x : EngineSt) : (setEngine s e x).trWalk = s.trWalk := rfl
@[simp] theorem setEngine_indices (s : State) (e : Engine) (x : EngineSt) : (setEngine s e x).indices = s.indices := rfl
@[simp] theorem setEngine_ggttOffset (s : State) (e : Engine) (x : EngineSt) : (setEngine s e x).ggttOffset = s.ggttOffset := rfl
@[simp] theorem setEngine_atomicReturn (s : State) (e : Engine) (x : EngineSt) : (setEngine s e x).atomicReturn = s.atomicReturn := rfl
@[simp] theorem setEngine_completion (s : State) (e : Engine) (x : EngineSt) : (setEngine s e x).completion = s.completion := rfl
@[simp] theorem setEngine_memType (s : State) (e : Engine) (x : EngineSt) : (setEngine s e x).memType = s.memType := rfl
@[simp] theorem setEngine_cache (s : State) (e : Engine) (x : EngineSt) : (setEngine s e x).cache = s.cache := rfl
@[simp] theorem setEngine_tile (s : State) (e : Engine) (x : EngineSt) : (setEngine s e x).tile = s.tile := rfl
@[simp] theorem setEngine_lodOrigin (s : State) (e : Engine) (x : EngineSt) : (setEngine s e x).lodOrigin = s.lodOrigin := rfl
@[simp] theorem setEngine_planar (s : State) (e : Engine) (x : EngineSt) : (setEngine s e x).planar = s.planar := rfl
@[simp] theorem setEngine_pixel (s : State) (e : Engine) (x : EngineSt) : (setEngine s e x).pixel = s.pixel := rfl
@[simp] theorem setEngine_texels (s : State) (e : Engine) (x : EngineSt) : (setEngine s e x).texels = s.texels := rfl
@[simp] theorem setEngine_texel (s : State) (e : Engine) (x : EngineSt) : (setEngine s e x).texel = s.texel := rfl
@[simp] theorem setEngine_astcFormat (s : State) (e : Engine) (x : EngineSt) : (setEngine s e x).astcFormat = s.astcFormat := rfl
@[simp] theorem setEngine_draws (s : State) (e : Engine) (x : EngineSt) : (setEngine s e x).draws = s.draws := rfl
@[simp] theorem setEngine_inputs (s : State) (e : Engine) (x : EngineSt) : (setEngine s e x).inputs = s.inputs := rfl

/-! ### updEngine -/

@[simp] theorem updEngine_params (s : State) (e : Engine) (f : EngineSt → EngineSt) : (updEngine s e f).params = s.params := rfl
@[simp] theorem updEngine_mem (s : State) (e : Engine) (f : EngineSt → EngineSt) : (updEngine s e f).mem = s.mem := rfl
@[simp] theorem updEngine_history (s : State) (e : Engine) (f : EngineSt → EngineSt) : (updEngine s e f).history = s.history := rfl
@[simp] theorem updEngine_texMark (s : State) (e : Engine) (f : EngineSt → EngineSt) : (updEngine s e f).texMark = s.texMark := rfl
@[simp] theorem updEngine_icMark (s : State) (e : Engine) (f : EngineSt → EngineSt) : (updEngine s e f).icMark = s.icMark := rfl
@[simp] theorem updEngine_gpuMark (s : State) (e : Engine) (f : EngineSt → EngineSt) : (updEngine s e f).gpuMark = s.gpuMark := rfl
@[simp] theorem updEngine_waitMark (s : State) (e : Engine) (f : EngineSt → EngineSt) : (updEngine s e f).waitMark = s.waitMark := rfl
@[simp] theorem updEngine_cpuMark (s : State) (e : Engine) (f : EngineSt → EngineSt) : (updEngine s e f).cpuMark = s.cpuMark := rfl
@[simp] theorem updEngine_llcMark (s : State) (e : Engine) (f : EngineSt → EngineSt) : (updEngine s e f).llcMark = s.llcMark := rfl
@[simp] theorem updEngine_regs (s : State) (e : Engine) (f : EngineSt → EngineSt) : (updEngine s e f).regs = s.regs := rfl
@[simp] theorem updEngine_priorRegs (s : State) (e : Engine) (f : EngineSt → EngineSt) : (updEngine s e f).priorRegs = s.priorRegs := rfl
@[simp] theorem updEngine_pci (s : State) (e : Engine) (f : EngineSt → EngineSt) : (updEngine s e f).pci = s.pci := rfl
@[simp] theorem updEngine_iommu (s : State) (e : Engine) (f : EngineSt → EngineSt) : (updEngine s e f).iommu = s.iommu := rfl
@[simp] theorem updEngine_contextCache (s : State) (e : Engine) (f : EngineSt → EngineSt) : (updEngine s e f).contextCache = s.contextCache := rfl
@[simp] theorem updEngine_pasidCounts (s : State) (e : Engine) (f : EngineSt → EngineSt) : (updEngine s e f).pasidCounts = s.pasidCounts := rfl
@[simp] theorem updEngine_memRanges (s : State) (e : Engine) (f : EngineSt → EngineSt) : (updEngine s e f).memRanges = s.memRanges := rfl
@[simp] theorem updEngine_pageRequests (s : State) (e : Engine) (f : EngineSt → EngineSt) : (updEngine s e f).pageRequests = s.pageRequests := rfl
@[simp] theorem updEngine_nextPrg (s : State) (e : Engine) (f : EngineSt → EngineSt) : (updEngine s e f).nextPrg = s.nextPrg := rfl
@[simp] theorem updEngine_detached (s : State) (e : Engine) (f : EngineSt → EngineSt) : (updEngine s e f).detached = s.detached := rfl
@[simp] theorem updEngine_lastQueued (s : State) (e : Engine) (f : EngineSt → EngineSt) : (updEngine s e f).lastQueued = s.lastQueued := rfl
@[simp] theorem updEngine_flrPending (s : State) (e : Engine) (f : EngineSt → EngineSt) : (updEngine s e f).flrPending = s.flrPending := rfl
@[simp] theorem updEngine_notifications (s : State) (e : Engine) (f : EngineSt → EngineSt) : (updEngine s e f).notifications = s.notifications := rfl
@[simp] theorem updEngine_hdc (s : State) (e : Engine) (f : EngineSt → EngineSt) : (updEngine s e f).hdc = s.hdc := rfl
@[simp] theorem updEngine_palette (s : State) (e : Engine) (f : EngineSt → EngineSt) : (updEngine s e f).palette = s.palette := rfl
@[simp] theorem updEngine_walk (s : State) (e : Engine) (f : EngineSt → EngineSt) : (updEngine s e f).walk = s.walk := rfl
@[simp] theorem updEngine_trWalk (s : State) (e : Engine) (f : EngineSt → EngineSt) : (updEngine s e f).trWalk = s.trWalk := rfl
@[simp] theorem updEngine_indices (s : State) (e : Engine) (f : EngineSt → EngineSt) : (updEngine s e f).indices = s.indices := rfl
@[simp] theorem updEngine_ggttOffset (s : State) (e : Engine) (f : EngineSt → EngineSt) : (updEngine s e f).ggttOffset = s.ggttOffset := rfl
@[simp] theorem updEngine_atomicReturn (s : State) (e : Engine) (f : EngineSt → EngineSt) : (updEngine s e f).atomicReturn = s.atomicReturn := rfl
@[simp] theorem updEngine_completion (s : State) (e : Engine) (f : EngineSt → EngineSt) : (updEngine s e f).completion = s.completion := rfl
@[simp] theorem updEngine_memType (s : State) (e : Engine) (f : EngineSt → EngineSt) : (updEngine s e f).memType = s.memType := rfl
@[simp] theorem updEngine_cache (s : State) (e : Engine) (f : EngineSt → EngineSt) : (updEngine s e f).cache = s.cache := rfl
@[simp] theorem updEngine_tile (s : State) (e : Engine) (f : EngineSt → EngineSt) : (updEngine s e f).tile = s.tile := rfl
@[simp] theorem updEngine_lodOrigin (s : State) (e : Engine) (f : EngineSt → EngineSt) : (updEngine s e f).lodOrigin = s.lodOrigin := rfl
@[simp] theorem updEngine_planar (s : State) (e : Engine) (f : EngineSt → EngineSt) : (updEngine s e f).planar = s.planar := rfl
@[simp] theorem updEngine_pixel (s : State) (e : Engine) (f : EngineSt → EngineSt) : (updEngine s e f).pixel = s.pixel := rfl
@[simp] theorem updEngine_texels (s : State) (e : Engine) (f : EngineSt → EngineSt) : (updEngine s e f).texels = s.texels := rfl
@[simp] theorem updEngine_texel (s : State) (e : Engine) (f : EngineSt → EngineSt) : (updEngine s e f).texel = s.texel := rfl
@[simp] theorem updEngine_astcFormat (s : State) (e : Engine) (f : EngineSt → EngineSt) : (updEngine s e f).astcFormat = s.astcFormat := rfl
@[simp] theorem updEngine_draws (s : State) (e : Engine) (f : EngineSt → EngineSt) : (updEngine s e f).draws = s.draws := rfl
@[simp] theorem updEngine_inputs (s : State) (e : Engine) (f : EngineSt → EngineSt) : (updEngine s e f).inputs = s.inputs := rfl

/-! ### store -/

@[simp] theorem store_params (s : State) (pa n : Nat) (v : QWord) (b : Writer) : (store s pa n v b).params = s.params := rfl
@[simp] theorem store_texMark (s : State) (pa n : Nat) (v : QWord) (b : Writer) : (store s pa n v b).texMark = s.texMark := rfl
@[simp] theorem store_icMark (s : State) (pa n : Nat) (v : QWord) (b : Writer) : (store s pa n v b).icMark = s.icMark := rfl
@[simp] theorem store_gpuMark (s : State) (pa n : Nat) (v : QWord) (b : Writer) : (store s pa n v b).gpuMark = s.gpuMark := rfl
@[simp] theorem store_waitMark (s : State) (pa n : Nat) (v : QWord) (b : Writer) : (store s pa n v b).waitMark = s.waitMark := rfl
@[simp] theorem store_cpuMark (s : State) (pa n : Nat) (v : QWord) (b : Writer) : (store s pa n v b).cpuMark = s.cpuMark := rfl
@[simp] theorem store_llcMark (s : State) (pa n : Nat) (v : QWord) (b : Writer) : (store s pa n v b).llcMark = s.llcMark := rfl
@[simp] theorem store_engines (s : State) (pa n : Nat) (v : QWord) (b : Writer) : (store s pa n v b).engines = s.engines := rfl
@[simp] theorem store_regs (s : State) (pa n : Nat) (v : QWord) (b : Writer) : (store s pa n v b).regs = s.regs := rfl
@[simp] theorem store_priorRegs (s : State) (pa n : Nat) (v : QWord) (b : Writer) : (store s pa n v b).priorRegs = s.priorRegs := rfl
@[simp] theorem store_pci (s : State) (pa n : Nat) (v : QWord) (b : Writer) : (store s pa n v b).pci = s.pci := rfl
@[simp] theorem store_iommu (s : State) (pa n : Nat) (v : QWord) (b : Writer) : (store s pa n v b).iommu = s.iommu := rfl
@[simp] theorem store_contextCache (s : State) (pa n : Nat) (v : QWord) (b : Writer) : (store s pa n v b).contextCache = s.contextCache := rfl
@[simp] theorem store_pasidCounts (s : State) (pa n : Nat) (v : QWord) (b : Writer) : (store s pa n v b).pasidCounts = s.pasidCounts := rfl
@[simp] theorem store_memRanges (s : State) (pa n : Nat) (v : QWord) (b : Writer) : (store s pa n v b).memRanges = s.memRanges := rfl
@[simp] theorem store_pageRequests (s : State) (pa n : Nat) (v : QWord) (b : Writer) : (store s pa n v b).pageRequests = s.pageRequests := rfl
@[simp] theorem store_nextPrg (s : State) (pa n : Nat) (v : QWord) (b : Writer) : (store s pa n v b).nextPrg = s.nextPrg := rfl
@[simp] theorem store_detached (s : State) (pa n : Nat) (v : QWord) (b : Writer) : (store s pa n v b).detached = s.detached := rfl
@[simp] theorem store_lastQueued (s : State) (pa n : Nat) (v : QWord) (b : Writer) : (store s pa n v b).lastQueued = s.lastQueued := rfl
@[simp] theorem store_flrPending (s : State) (pa n : Nat) (v : QWord) (b : Writer) : (store s pa n v b).flrPending = s.flrPending := rfl
@[simp] theorem store_notifications (s : State) (pa n : Nat) (v : QWord) (b : Writer) : (store s pa n v b).notifications = s.notifications := rfl
@[simp] theorem store_hdc (s : State) (pa n : Nat) (v : QWord) (b : Writer) : (store s pa n v b).hdc = s.hdc := rfl
@[simp] theorem store_palette (s : State) (pa n : Nat) (v : QWord) (b : Writer) : (store s pa n v b).palette = s.palette := rfl
@[simp] theorem store_walk (s : State) (pa n : Nat) (v : QWord) (b : Writer) : (store s pa n v b).walk = s.walk := rfl
@[simp] theorem store_trWalk (s : State) (pa n : Nat) (v : QWord) (b : Writer) : (store s pa n v b).trWalk = s.trWalk := rfl
@[simp] theorem store_indices (s : State) (pa n : Nat) (v : QWord) (b : Writer) : (store s pa n v b).indices = s.indices := rfl
@[simp] theorem store_ggttOffset (s : State) (pa n : Nat) (v : QWord) (b : Writer) : (store s pa n v b).ggttOffset = s.ggttOffset := rfl
@[simp] theorem store_atomicReturn (s : State) (pa n : Nat) (v : QWord) (b : Writer) : (store s pa n v b).atomicReturn = s.atomicReturn := rfl
@[simp] theorem store_completion (s : State) (pa n : Nat) (v : QWord) (b : Writer) : (store s pa n v b).completion = s.completion := rfl
@[simp] theorem store_memType (s : State) (pa n : Nat) (v : QWord) (b : Writer) : (store s pa n v b).memType = s.memType := rfl
@[simp] theorem store_cache (s : State) (pa n : Nat) (v : QWord) (b : Writer) : (store s pa n v b).cache = s.cache := rfl
@[simp] theorem store_tile (s : State) (pa n : Nat) (v : QWord) (b : Writer) : (store s pa n v b).tile = s.tile := rfl
@[simp] theorem store_lodOrigin (s : State) (pa n : Nat) (v : QWord) (b : Writer) : (store s pa n v b).lodOrigin = s.lodOrigin := rfl
@[simp] theorem store_planar (s : State) (pa n : Nat) (v : QWord) (b : Writer) : (store s pa n v b).planar = s.planar := rfl
@[simp] theorem store_pixel (s : State) (pa n : Nat) (v : QWord) (b : Writer) : (store s pa n v b).pixel = s.pixel := rfl
@[simp] theorem store_texels (s : State) (pa n : Nat) (v : QWord) (b : Writer) : (store s pa n v b).texels = s.texels := rfl
@[simp] theorem store_texel (s : State) (pa n : Nat) (v : QWord) (b : Writer) : (store s pa n v b).texel = s.texel := rfl
@[simp] theorem store_astcFormat (s : State) (pa n : Nat) (v : QWord) (b : Writer) : (store s pa n v b).astcFormat = s.astcFormat := rfl
@[simp] theorem store_draws (s : State) (pa n : Nat) (v : QWord) (b : Writer) : (store s pa n v b).draws = s.draws := rfl
@[simp] theorem store_inputs (s : State) (pa n : Nat) (v : QWord) (b : Writer) : (store s pa n v b).inputs = s.inputs := rfl

/-! ### raiseEvent -/

@[simp] theorem raiseEvent_params (s : State) (e : Engine) (v : Event) : (raiseEvent s e v).params = s.params := rfl
@[simp] theorem raiseEvent_mem (s : State) (e : Engine) (v : Event) : (raiseEvent s e v).mem = s.mem := rfl
@[simp] theorem raiseEvent_history (s : State) (e : Engine) (v : Event) : (raiseEvent s e v).history = s.history := rfl
@[simp] theorem raiseEvent_texMark (s : State) (e : Engine) (v : Event) : (raiseEvent s e v).texMark = s.texMark := rfl
@[simp] theorem raiseEvent_icMark (s : State) (e : Engine) (v : Event) : (raiseEvent s e v).icMark = s.icMark := rfl
@[simp] theorem raiseEvent_gpuMark (s : State) (e : Engine) (v : Event) : (raiseEvent s e v).gpuMark = s.gpuMark := rfl
@[simp] theorem raiseEvent_waitMark (s : State) (e : Engine) (v : Event) : (raiseEvent s e v).waitMark = s.waitMark := rfl
@[simp] theorem raiseEvent_cpuMark (s : State) (e : Engine) (v : Event) : (raiseEvent s e v).cpuMark = s.cpuMark := rfl
@[simp] theorem raiseEvent_llcMark (s : State) (e : Engine) (v : Event) : (raiseEvent s e v).llcMark = s.llcMark := rfl
@[simp] theorem raiseEvent_regs (s : State) (e : Engine) (v : Event) : (raiseEvent s e v).regs = s.regs := rfl
@[simp] theorem raiseEvent_priorRegs (s : State) (e : Engine) (v : Event) : (raiseEvent s e v).priorRegs = s.priorRegs := rfl
@[simp] theorem raiseEvent_pci (s : State) (e : Engine) (v : Event) : (raiseEvent s e v).pci = s.pci := rfl
@[simp] theorem raiseEvent_iommu (s : State) (e : Engine) (v : Event) : (raiseEvent s e v).iommu = s.iommu := rfl
@[simp] theorem raiseEvent_contextCache (s : State) (e : Engine) (v : Event) : (raiseEvent s e v).contextCache = s.contextCache := rfl
@[simp] theorem raiseEvent_pasidCounts (s : State) (e : Engine) (v : Event) : (raiseEvent s e v).pasidCounts = s.pasidCounts := rfl
@[simp] theorem raiseEvent_memRanges (s : State) (e : Engine) (v : Event) : (raiseEvent s e v).memRanges = s.memRanges := rfl
@[simp] theorem raiseEvent_pageRequests (s : State) (e : Engine) (v : Event) : (raiseEvent s e v).pageRequests = s.pageRequests := rfl
@[simp] theorem raiseEvent_nextPrg (s : State) (e : Engine) (v : Event) : (raiseEvent s e v).nextPrg = s.nextPrg := rfl
@[simp] theorem raiseEvent_detached (s : State) (e : Engine) (v : Event) : (raiseEvent s e v).detached = s.detached := rfl
@[simp] theorem raiseEvent_lastQueued (s : State) (e : Engine) (v : Event) : (raiseEvent s e v).lastQueued = s.lastQueued := rfl
@[simp] theorem raiseEvent_flrPending (s : State) (e : Engine) (v : Event) : (raiseEvent s e v).flrPending = s.flrPending := rfl
@[simp] theorem raiseEvent_notifications (s : State) (e : Engine) (v : Event) : (raiseEvent s e v).notifications = s.notifications := rfl
@[simp] theorem raiseEvent_hdc (s : State) (e : Engine) (v : Event) : (raiseEvent s e v).hdc = s.hdc := rfl
@[simp] theorem raiseEvent_palette (s : State) (e : Engine) (v : Event) : (raiseEvent s e v).palette = s.palette := rfl
@[simp] theorem raiseEvent_walk (s : State) (e : Engine) (v : Event) : (raiseEvent s e v).walk = s.walk := rfl
@[simp] theorem raiseEvent_trWalk (s : State) (e : Engine) (v : Event) : (raiseEvent s e v).trWalk = s.trWalk := rfl
@[simp] theorem raiseEvent_indices (s : State) (e : Engine) (v : Event) : (raiseEvent s e v).indices = s.indices := rfl
@[simp] theorem raiseEvent_ggttOffset (s : State) (e : Engine) (v : Event) : (raiseEvent s e v).ggttOffset = s.ggttOffset := rfl
@[simp] theorem raiseEvent_atomicReturn (s : State) (e : Engine) (v : Event) : (raiseEvent s e v).atomicReturn = s.atomicReturn := rfl
@[simp] theorem raiseEvent_completion (s : State) (e : Engine) (v : Event) : (raiseEvent s e v).completion = s.completion := rfl
@[simp] theorem raiseEvent_memType (s : State) (e : Engine) (v : Event) : (raiseEvent s e v).memType = s.memType := rfl
@[simp] theorem raiseEvent_cache (s : State) (e : Engine) (v : Event) : (raiseEvent s e v).cache = s.cache := rfl
@[simp] theorem raiseEvent_tile (s : State) (e : Engine) (v : Event) : (raiseEvent s e v).tile = s.tile := rfl
@[simp] theorem raiseEvent_lodOrigin (s : State) (e : Engine) (v : Event) : (raiseEvent s e v).lodOrigin = s.lodOrigin := rfl
@[simp] theorem raiseEvent_planar (s : State) (e : Engine) (v : Event) : (raiseEvent s e v).planar = s.planar := rfl
@[simp] theorem raiseEvent_pixel (s : State) (e : Engine) (v : Event) : (raiseEvent s e v).pixel = s.pixel := rfl
@[simp] theorem raiseEvent_texels (s : State) (e : Engine) (v : Event) : (raiseEvent s e v).texels = s.texels := rfl
@[simp] theorem raiseEvent_texel (s : State) (e : Engine) (v : Event) : (raiseEvent s e v).texel = s.texel := rfl
@[simp] theorem raiseEvent_astcFormat (s : State) (e : Engine) (v : Event) : (raiseEvent s e v).astcFormat = s.astcFormat := rfl
@[simp] theorem raiseEvent_draws (s : State) (e : Engine) (v : Event) : (raiseEvent s e v).draws = s.draws := rfl
@[simp] theorem raiseEvent_inputs (s : State) (e : Engine) (v : Event) : (raiseEvent s e v).inputs = s.inputs := rfl

/-! ### dropRetained -/

@[simp] theorem dropRetained_params (s : State) (e : Engine) : (dropRetained s e).params = s.params := rfl
@[simp] theorem dropRetained_mem (s : State) (e : Engine) : (dropRetained s e).mem = s.mem := rfl
@[simp] theorem dropRetained_history (s : State) (e : Engine) : (dropRetained s e).history = s.history := rfl
@[simp] theorem dropRetained_texMark (s : State) (e : Engine) : (dropRetained s e).texMark = s.texMark := rfl
@[simp] theorem dropRetained_icMark (s : State) (e : Engine) : (dropRetained s e).icMark = s.icMark := rfl
@[simp] theorem dropRetained_gpuMark (s : State) (e : Engine) : (dropRetained s e).gpuMark = s.gpuMark := rfl
@[simp] theorem dropRetained_waitMark (s : State) (e : Engine) : (dropRetained s e).waitMark = s.waitMark := rfl
@[simp] theorem dropRetained_cpuMark (s : State) (e : Engine) : (dropRetained s e).cpuMark = s.cpuMark := rfl
@[simp] theorem dropRetained_llcMark (s : State) (e : Engine) : (dropRetained s e).llcMark = s.llcMark := rfl
@[simp] theorem dropRetained_regs (s : State) (e : Engine) : (dropRetained s e).regs = s.regs := rfl
@[simp] theorem dropRetained_priorRegs (s : State) (e : Engine) : (dropRetained s e).priorRegs = s.priorRegs := rfl
@[simp] theorem dropRetained_pci (s : State) (e : Engine) : (dropRetained s e).pci = s.pci := rfl
@[simp] theorem dropRetained_iommu (s : State) (e : Engine) : (dropRetained s e).iommu = s.iommu := rfl
@[simp] theorem dropRetained_contextCache (s : State) (e : Engine) : (dropRetained s e).contextCache = s.contextCache := rfl
@[simp] theorem dropRetained_pasidCounts (s : State) (e : Engine) : (dropRetained s e).pasidCounts = s.pasidCounts := rfl
@[simp] theorem dropRetained_memRanges (s : State) (e : Engine) : (dropRetained s e).memRanges = s.memRanges := rfl
@[simp] theorem dropRetained_pageRequests (s : State) (e : Engine) : (dropRetained s e).pageRequests = s.pageRequests := rfl
@[simp] theorem dropRetained_nextPrg (s : State) (e : Engine) : (dropRetained s e).nextPrg = s.nextPrg := rfl
@[simp] theorem dropRetained_detached (s : State) (e : Engine) : (dropRetained s e).detached = s.detached := rfl
@[simp] theorem dropRetained_lastQueued (s : State) (e : Engine) : (dropRetained s e).lastQueued = s.lastQueued := rfl
@[simp] theorem dropRetained_flrPending (s : State) (e : Engine) : (dropRetained s e).flrPending = s.flrPending := rfl
@[simp] theorem dropRetained_notifications (s : State) (e : Engine) : (dropRetained s e).notifications = s.notifications := rfl
@[simp] theorem dropRetained_hdc (s : State) (e : Engine) : (dropRetained s e).hdc = s.hdc := rfl
@[simp] theorem dropRetained_palette (s : State) (e : Engine) : (dropRetained s e).palette = s.palette := rfl
@[simp] theorem dropRetained_walk (s : State) (e : Engine) : (dropRetained s e).walk = s.walk := rfl
@[simp] theorem dropRetained_trWalk (s : State) (e : Engine) : (dropRetained s e).trWalk = s.trWalk := rfl
@[simp] theorem dropRetained_indices (s : State) (e : Engine) : (dropRetained s e).indices = s.indices := rfl
@[simp] theorem dropRetained_ggttOffset (s : State) (e : Engine) : (dropRetained s e).ggttOffset = s.ggttOffset := rfl
@[simp] theorem dropRetained_atomicReturn (s : State) (e : Engine) : (dropRetained s e).atomicReturn = s.atomicReturn := rfl
@[simp] theorem dropRetained_completion (s : State) (e : Engine) : (dropRetained s e).completion = s.completion := rfl
@[simp] theorem dropRetained_memType (s : State) (e : Engine) : (dropRetained s e).memType = s.memType := rfl
@[simp] theorem dropRetained_cache (s : State) (e : Engine) : (dropRetained s e).cache = s.cache := rfl
@[simp] theorem dropRetained_tile (s : State) (e : Engine) : (dropRetained s e).tile = s.tile := rfl
@[simp] theorem dropRetained_lodOrigin (s : State) (e : Engine) : (dropRetained s e).lodOrigin = s.lodOrigin := rfl
@[simp] theorem dropRetained_planar (s : State) (e : Engine) : (dropRetained s e).planar = s.planar := rfl
@[simp] theorem dropRetained_pixel (s : State) (e : Engine) : (dropRetained s e).pixel = s.pixel := rfl
@[simp] theorem dropRetained_texels (s : State) (e : Engine) : (dropRetained s e).texels = s.texels := rfl
@[simp] theorem dropRetained_texel (s : State) (e : Engine) : (dropRetained s e).texel = s.texel := rfl
@[simp] theorem dropRetained_astcFormat (s : State) (e : Engine) : (dropRetained s e).astcFormat = s.astcFormat := rfl
@[simp] theorem dropRetained_draws (s : State) (e : Engine) : (dropRetained s e).draws = s.draws := rfl
@[simp] theorem dropRetained_inputs (s : State) (e : Engine) : (dropRetained s e).inputs = s.inputs := rfl

/-! ### dropScope -/

@[simp] theorem dropScope_params (s : State) (m : ScopeMark) (e : Engine) : (dropScope s m e).params = s.params := rfl
@[simp] theorem dropScope_mem (s : State) (m : ScopeMark) (e : Engine) : (dropScope s m e).mem = s.mem := rfl
@[simp] theorem dropScope_history (s : State) (m : ScopeMark) (e : Engine) : (dropScope s m e).history = s.history := rfl
@[simp] theorem dropScope_texMark (s : State) (m : ScopeMark) (e : Engine) : (dropScope s m e).texMark = s.texMark := rfl
@[simp] theorem dropScope_icMark (s : State) (m : ScopeMark) (e : Engine) : (dropScope s m e).icMark = s.icMark := rfl
@[simp] theorem dropScope_gpuMark (s : State) (m : ScopeMark) (e : Engine) : (dropScope s m e).gpuMark = s.gpuMark := rfl
@[simp] theorem dropScope_waitMark (s : State) (m : ScopeMark) (e : Engine) : (dropScope s m e).waitMark = s.waitMark := rfl
@[simp] theorem dropScope_cpuMark (s : State) (m : ScopeMark) (e : Engine) : (dropScope s m e).cpuMark = s.cpuMark := rfl
@[simp] theorem dropScope_llcMark (s : State) (m : ScopeMark) (e : Engine) : (dropScope s m e).llcMark = s.llcMark := rfl
@[simp] theorem dropScope_regs (s : State) (m : ScopeMark) (e : Engine) : (dropScope s m e).regs = s.regs := rfl
@[simp] theorem dropScope_priorRegs (s : State) (m : ScopeMark) (e : Engine) : (dropScope s m e).priorRegs = s.priorRegs := rfl
@[simp] theorem dropScope_pci (s : State) (m : ScopeMark) (e : Engine) : (dropScope s m e).pci = s.pci := rfl
@[simp] theorem dropScope_iommu (s : State) (m : ScopeMark) (e : Engine) : (dropScope s m e).iommu = s.iommu := rfl
@[simp] theorem dropScope_contextCache (s : State) (m : ScopeMark) (e : Engine) : (dropScope s m e).contextCache = s.contextCache := rfl
@[simp] theorem dropScope_pasidCounts (s : State) (m : ScopeMark) (e : Engine) : (dropScope s m e).pasidCounts = s.pasidCounts := rfl
@[simp] theorem dropScope_memRanges (s : State) (m : ScopeMark) (e : Engine) : (dropScope s m e).memRanges = s.memRanges := rfl
@[simp] theorem dropScope_pageRequests (s : State) (m : ScopeMark) (e : Engine) : (dropScope s m e).pageRequests = s.pageRequests := rfl
@[simp] theorem dropScope_nextPrg (s : State) (m : ScopeMark) (e : Engine) : (dropScope s m e).nextPrg = s.nextPrg := rfl
@[simp] theorem dropScope_detached (s : State) (m : ScopeMark) (e : Engine) : (dropScope s m e).detached = s.detached := rfl
@[simp] theorem dropScope_lastQueued (s : State) (m : ScopeMark) (e : Engine) : (dropScope s m e).lastQueued = s.lastQueued := rfl
@[simp] theorem dropScope_flrPending (s : State) (m : ScopeMark) (e : Engine) : (dropScope s m e).flrPending = s.flrPending := rfl
@[simp] theorem dropScope_notifications (s : State) (m : ScopeMark) (e : Engine) : (dropScope s m e).notifications = s.notifications := rfl
@[simp] theorem dropScope_hdc (s : State) (m : ScopeMark) (e : Engine) : (dropScope s m e).hdc = s.hdc := rfl
@[simp] theorem dropScope_palette (s : State) (m : ScopeMark) (e : Engine) : (dropScope s m e).palette = s.palette := rfl
@[simp] theorem dropScope_walk (s : State) (m : ScopeMark) (e : Engine) : (dropScope s m e).walk = s.walk := rfl
@[simp] theorem dropScope_trWalk (s : State) (m : ScopeMark) (e : Engine) : (dropScope s m e).trWalk = s.trWalk := rfl
@[simp] theorem dropScope_indices (s : State) (m : ScopeMark) (e : Engine) : (dropScope s m e).indices = s.indices := rfl
@[simp] theorem dropScope_ggttOffset (s : State) (m : ScopeMark) (e : Engine) : (dropScope s m e).ggttOffset = s.ggttOffset := rfl
@[simp] theorem dropScope_atomicReturn (s : State) (m : ScopeMark) (e : Engine) : (dropScope s m e).atomicReturn = s.atomicReturn := rfl
@[simp] theorem dropScope_completion (s : State) (m : ScopeMark) (e : Engine) : (dropScope s m e).completion = s.completion := rfl
@[simp] theorem dropScope_memType (s : State) (m : ScopeMark) (e : Engine) : (dropScope s m e).memType = s.memType := rfl
@[simp] theorem dropScope_cache (s : State) (m : ScopeMark) (e : Engine) : (dropScope s m e).cache = s.cache := rfl
@[simp] theorem dropScope_tile (s : State) (m : ScopeMark) (e : Engine) : (dropScope s m e).tile = s.tile := rfl
@[simp] theorem dropScope_lodOrigin (s : State) (m : ScopeMark) (e : Engine) : (dropScope s m e).lodOrigin = s.lodOrigin := rfl
@[simp] theorem dropScope_planar (s : State) (m : ScopeMark) (e : Engine) : (dropScope s m e).planar = s.planar := rfl
@[simp] theorem dropScope_pixel (s : State) (m : ScopeMark) (e : Engine) : (dropScope s m e).pixel = s.pixel := rfl
@[simp] theorem dropScope_texels (s : State) (m : ScopeMark) (e : Engine) : (dropScope s m e).texels = s.texels := rfl
@[simp] theorem dropScope_texel (s : State) (m : ScopeMark) (e : Engine) : (dropScope s m e).texel = s.texel := rfl
@[simp] theorem dropScope_astcFormat (s : State) (m : ScopeMark) (e : Engine) : (dropScope s m e).astcFormat = s.astcFormat := rfl
@[simp] theorem dropScope_draws (s : State) (m : ScopeMark) (e : Engine) : (dropScope s m e).draws = s.draws := rfl
@[simp] theorem dropScope_inputs (s : State) (m : ScopeMark) (e : Engine) : (dropScope s m e).inputs = s.inputs := rfl

/-! ### wedge -/

@[simp] theorem wedge_params (s : State) (e : Engine) (c : ResponseCode) : (wedge s e c).params = s.params := rfl
@[simp] theorem wedge_mem (s : State) (e : Engine) (c : ResponseCode) : (wedge s e c).mem = s.mem := rfl
@[simp] theorem wedge_history (s : State) (e : Engine) (c : ResponseCode) : (wedge s e c).history = s.history := rfl
@[simp] theorem wedge_texMark (s : State) (e : Engine) (c : ResponseCode) : (wedge s e c).texMark = s.texMark := rfl
@[simp] theorem wedge_icMark (s : State) (e : Engine) (c : ResponseCode) : (wedge s e c).icMark = s.icMark := rfl
@[simp] theorem wedge_gpuMark (s : State) (e : Engine) (c : ResponseCode) : (wedge s e c).gpuMark = s.gpuMark := rfl
@[simp] theorem wedge_waitMark (s : State) (e : Engine) (c : ResponseCode) : (wedge s e c).waitMark = s.waitMark := rfl
@[simp] theorem wedge_cpuMark (s : State) (e : Engine) (c : ResponseCode) : (wedge s e c).cpuMark = s.cpuMark := rfl
@[simp] theorem wedge_llcMark (s : State) (e : Engine) (c : ResponseCode) : (wedge s e c).llcMark = s.llcMark := rfl
@[simp] theorem wedge_regs (s : State) (e : Engine) (c : ResponseCode) : (wedge s e c).regs = s.regs := rfl
@[simp] theorem wedge_priorRegs (s : State) (e : Engine) (c : ResponseCode) : (wedge s e c).priorRegs = s.priorRegs := rfl
@[simp] theorem wedge_pci (s : State) (e : Engine) (c : ResponseCode) : (wedge s e c).pci = s.pci := rfl
@[simp] theorem wedge_iommu (s : State) (e : Engine) (c : ResponseCode) : (wedge s e c).iommu = s.iommu := rfl
@[simp] theorem wedge_contextCache (s : State) (e : Engine) (c : ResponseCode) : (wedge s e c).contextCache = s.contextCache := rfl
@[simp] theorem wedge_pasidCounts (s : State) (e : Engine) (c : ResponseCode) : (wedge s e c).pasidCounts = s.pasidCounts := rfl
@[simp] theorem wedge_memRanges (s : State) (e : Engine) (c : ResponseCode) : (wedge s e c).memRanges = s.memRanges := rfl
@[simp] theorem wedge_pageRequests (s : State) (e : Engine) (c : ResponseCode) : (wedge s e c).pageRequests = s.pageRequests := rfl
@[simp] theorem wedge_nextPrg (s : State) (e : Engine) (c : ResponseCode) : (wedge s e c).nextPrg = s.nextPrg := rfl
@[simp] theorem wedge_detached (s : State) (e : Engine) (c : ResponseCode) : (wedge s e c).detached = s.detached := rfl
@[simp] theorem wedge_lastQueued (s : State) (e : Engine) (c : ResponseCode) : (wedge s e c).lastQueued = s.lastQueued := rfl
@[simp] theorem wedge_flrPending (s : State) (e : Engine) (c : ResponseCode) : (wedge s e c).flrPending = s.flrPending := rfl
@[simp] theorem wedge_notifications (s : State) (e : Engine) (c : ResponseCode) : (wedge s e c).notifications = s.notifications := rfl
@[simp] theorem wedge_hdc (s : State) (e : Engine) (c : ResponseCode) : (wedge s e c).hdc = s.hdc := rfl
@[simp] theorem wedge_palette (s : State) (e : Engine) (c : ResponseCode) : (wedge s e c).palette = s.palette := rfl
@[simp] theorem wedge_walk (s : State) (e : Engine) (c : ResponseCode) : (wedge s e c).walk = s.walk := rfl
@[simp] theorem wedge_trWalk (s : State) (e : Engine) (c : ResponseCode) : (wedge s e c).trWalk = s.trWalk := rfl
@[simp] theorem wedge_indices (s : State) (e : Engine) (c : ResponseCode) : (wedge s e c).indices = s.indices := rfl
@[simp] theorem wedge_ggttOffset (s : State) (e : Engine) (c : ResponseCode) : (wedge s e c).ggttOffset = s.ggttOffset := rfl
@[simp] theorem wedge_atomicReturn (s : State) (e : Engine) (c : ResponseCode) : (wedge s e c).atomicReturn = s.atomicReturn := rfl
@[simp] theorem wedge_completion (s : State) (e : Engine) (c : ResponseCode) : (wedge s e c).completion = s.completion := rfl
@[simp] theorem wedge_memType (s : State) (e : Engine) (c : ResponseCode) : (wedge s e c).memType = s.memType := rfl
@[simp] theorem wedge_cache (s : State) (e : Engine) (c : ResponseCode) : (wedge s e c).cache = s.cache := rfl
@[simp] theorem wedge_tile (s : State) (e : Engine) (c : ResponseCode) : (wedge s e c).tile = s.tile := rfl
@[simp] theorem wedge_lodOrigin (s : State) (e : Engine) (c : ResponseCode) : (wedge s e c).lodOrigin = s.lodOrigin := rfl
@[simp] theorem wedge_planar (s : State) (e : Engine) (c : ResponseCode) : (wedge s e c).planar = s.planar := rfl
@[simp] theorem wedge_pixel (s : State) (e : Engine) (c : ResponseCode) : (wedge s e c).pixel = s.pixel := rfl
@[simp] theorem wedge_texels (s : State) (e : Engine) (c : ResponseCode) : (wedge s e c).texels = s.texels := rfl
@[simp] theorem wedge_texel (s : State) (e : Engine) (c : ResponseCode) : (wedge s e c).texel = s.texel := rfl
@[simp] theorem wedge_astcFormat (s : State) (e : Engine) (c : ResponseCode) : (wedge s e c).astcFormat = s.astcFormat := rfl
@[simp] theorem wedge_draws (s : State) (e : Engine) (c : ResponseCode) : (wedge s e c).draws = s.draws := rfl
@[simp] theorem wedge_inputs (s : State) (e : Engine) (c : ResponseCode) : (wedge s e c).inputs = s.inputs := rfl

/-! ### notifyScheduler -/

@[simp] theorem notifyScheduler_params (s : State) (c : Word) : (notifyScheduler s c).params = s.params := rfl
@[simp] theorem notifyScheduler_mem (s : State) (c : Word) : (notifyScheduler s c).mem = s.mem := rfl
@[simp] theorem notifyScheduler_history (s : State) (c : Word) : (notifyScheduler s c).history = s.history := rfl
@[simp] theorem notifyScheduler_texMark (s : State) (c : Word) : (notifyScheduler s c).texMark = s.texMark := rfl
@[simp] theorem notifyScheduler_icMark (s : State) (c : Word) : (notifyScheduler s c).icMark = s.icMark := rfl
@[simp] theorem notifyScheduler_gpuMark (s : State) (c : Word) : (notifyScheduler s c).gpuMark = s.gpuMark := rfl
@[simp] theorem notifyScheduler_waitMark (s : State) (c : Word) : (notifyScheduler s c).waitMark = s.waitMark := rfl
@[simp] theorem notifyScheduler_cpuMark (s : State) (c : Word) : (notifyScheduler s c).cpuMark = s.cpuMark := rfl
@[simp] theorem notifyScheduler_llcMark (s : State) (c : Word) : (notifyScheduler s c).llcMark = s.llcMark := rfl
@[simp] theorem notifyScheduler_engines (s : State) (c : Word) : (notifyScheduler s c).engines = s.engines := rfl
@[simp] theorem notifyScheduler_regs (s : State) (c : Word) : (notifyScheduler s c).regs = s.regs := rfl
@[simp] theorem notifyScheduler_priorRegs (s : State) (c : Word) : (notifyScheduler s c).priorRegs = s.priorRegs := rfl
@[simp] theorem notifyScheduler_pci (s : State) (c : Word) : (notifyScheduler s c).pci = s.pci := rfl
@[simp] theorem notifyScheduler_iommu (s : State) (c : Word) : (notifyScheduler s c).iommu = s.iommu := rfl
@[simp] theorem notifyScheduler_contextCache (s : State) (c : Word) : (notifyScheduler s c).contextCache = s.contextCache := rfl
@[simp] theorem notifyScheduler_pasidCounts (s : State) (c : Word) : (notifyScheduler s c).pasidCounts = s.pasidCounts := rfl
@[simp] theorem notifyScheduler_memRanges (s : State) (c : Word) : (notifyScheduler s c).memRanges = s.memRanges := rfl
@[simp] theorem notifyScheduler_pageRequests (s : State) (c : Word) : (notifyScheduler s c).pageRequests = s.pageRequests := rfl
@[simp] theorem notifyScheduler_nextPrg (s : State) (c : Word) : (notifyScheduler s c).nextPrg = s.nextPrg := rfl
@[simp] theorem notifyScheduler_detached (s : State) (c : Word) : (notifyScheduler s c).detached = s.detached := rfl
@[simp] theorem notifyScheduler_lastQueued (s : State) (c : Word) : (notifyScheduler s c).lastQueued = s.lastQueued := rfl
@[simp] theorem notifyScheduler_flrPending (s : State) (c : Word) : (notifyScheduler s c).flrPending = s.flrPending := rfl
@[simp] theorem notifyScheduler_hdc (s : State) (c : Word) : (notifyScheduler s c).hdc = s.hdc := rfl
@[simp] theorem notifyScheduler_palette (s : State) (c : Word) : (notifyScheduler s c).palette = s.palette := rfl
@[simp] theorem notifyScheduler_walk (s : State) (c : Word) : (notifyScheduler s c).walk = s.walk := rfl
@[simp] theorem notifyScheduler_trWalk (s : State) (c : Word) : (notifyScheduler s c).trWalk = s.trWalk := rfl
@[simp] theorem notifyScheduler_indices (s : State) (c : Word) : (notifyScheduler s c).indices = s.indices := rfl
@[simp] theorem notifyScheduler_ggttOffset (s : State) (c : Word) : (notifyScheduler s c).ggttOffset = s.ggttOffset := rfl
@[simp] theorem notifyScheduler_atomicReturn (s : State) (c : Word) : (notifyScheduler s c).atomicReturn = s.atomicReturn := rfl
@[simp] theorem notifyScheduler_completion (s : State) (c : Word) : (notifyScheduler s c).completion = s.completion := rfl
@[simp] theorem notifyScheduler_memType (s : State) (c : Word) : (notifyScheduler s c).memType = s.memType := rfl
@[simp] theorem notifyScheduler_cache (s : State) (c : Word) : (notifyScheduler s c).cache = s.cache := rfl
@[simp] theorem notifyScheduler_tile (s : State) (c : Word) : (notifyScheduler s c).tile = s.tile := rfl
@[simp] theorem notifyScheduler_lodOrigin (s : State) (c : Word) : (notifyScheduler s c).lodOrigin = s.lodOrigin := rfl
@[simp] theorem notifyScheduler_planar (s : State) (c : Word) : (notifyScheduler s c).planar = s.planar := rfl
@[simp] theorem notifyScheduler_pixel (s : State) (c : Word) : (notifyScheduler s c).pixel = s.pixel := rfl
@[simp] theorem notifyScheduler_texels (s : State) (c : Word) : (notifyScheduler s c).texels = s.texels := rfl
@[simp] theorem notifyScheduler_texel (s : State) (c : Word) : (notifyScheduler s c).texel = s.texel := rfl
@[simp] theorem notifyScheduler_astcFormat (s : State) (c : Word) : (notifyScheduler s c).astcFormat = s.astcFormat := rfl
@[simp] theorem notifyScheduler_draws (s : State) (c : Word) : (notifyScheduler s c).draws = s.draws := rfl
@[simp] theorem notifyScheduler_inputs (s : State) (c : Word) : (notifyScheduler s c).inputs = s.inputs := rfl

/-! ### latchOffset -/

@[simp] theorem latchOffset_params (s : State) (base : QWord) (bx y o : Nat) : (latchOffset s base bx y o).params = s.params := rfl
@[simp] theorem latchOffset_mem (s : State) (base : QWord) (bx y o : Nat) : (latchOffset s base bx y o).mem = s.mem := rfl
@[simp] theorem latchOffset_history (s : State) (base : QWord) (bx y o : Nat) : (latchOffset s base bx y o).history = s.history := rfl
@[simp] theorem latchOffset_texMark (s : State) (base : QWord) (bx y o : Nat) : (latchOffset s base bx y o).texMark = s.texMark := rfl
@[simp] theorem latchOffset_icMark (s : State) (base : QWord) (bx y o : Nat) : (latchOffset s base bx y o).icMark = s.icMark := rfl
@[simp] theorem latchOffset_gpuMark (s : State) (base : QWord) (bx y o : Nat) : (latchOffset s base bx y o).gpuMark = s.gpuMark := rfl
@[simp] theorem latchOffset_waitMark (s : State) (base : QWord) (bx y o : Nat) : (latchOffset s base bx y o).waitMark = s.waitMark := rfl
@[simp] theorem latchOffset_cpuMark (s : State) (base : QWord) (bx y o : Nat) : (latchOffset s base bx y o).cpuMark = s.cpuMark := rfl
@[simp] theorem latchOffset_llcMark (s : State) (base : QWord) (bx y o : Nat) : (latchOffset s base bx y o).llcMark = s.llcMark := rfl
@[simp] theorem latchOffset_engines (s : State) (base : QWord) (bx y o : Nat) : (latchOffset s base bx y o).engines = s.engines := rfl
@[simp] theorem latchOffset_regs (s : State) (base : QWord) (bx y o : Nat) : (latchOffset s base bx y o).regs = s.regs := rfl
@[simp] theorem latchOffset_priorRegs (s : State) (base : QWord) (bx y o : Nat) : (latchOffset s base bx y o).priorRegs = s.priorRegs := rfl
@[simp] theorem latchOffset_pci (s : State) (base : QWord) (bx y o : Nat) : (latchOffset s base bx y o).pci = s.pci := rfl
@[simp] theorem latchOffset_iommu (s : State) (base : QWord) (bx y o : Nat) : (latchOffset s base bx y o).iommu = s.iommu := rfl
@[simp] theorem latchOffset_contextCache (s : State) (base : QWord) (bx y o : Nat) : (latchOffset s base bx y o).contextCache = s.contextCache := rfl
@[simp] theorem latchOffset_pasidCounts (s : State) (base : QWord) (bx y o : Nat) : (latchOffset s base bx y o).pasidCounts = s.pasidCounts := rfl
@[simp] theorem latchOffset_memRanges (s : State) (base : QWord) (bx y o : Nat) : (latchOffset s base bx y o).memRanges = s.memRanges := rfl
@[simp] theorem latchOffset_pageRequests (s : State) (base : QWord) (bx y o : Nat) : (latchOffset s base bx y o).pageRequests = s.pageRequests := rfl
@[simp] theorem latchOffset_nextPrg (s : State) (base : QWord) (bx y o : Nat) : (latchOffset s base bx y o).nextPrg = s.nextPrg := rfl
@[simp] theorem latchOffset_detached (s : State) (base : QWord) (bx y o : Nat) : (latchOffset s base bx y o).detached = s.detached := rfl
@[simp] theorem latchOffset_lastQueued (s : State) (base : QWord) (bx y o : Nat) : (latchOffset s base bx y o).lastQueued = s.lastQueued := rfl
@[simp] theorem latchOffset_flrPending (s : State) (base : QWord) (bx y o : Nat) : (latchOffset s base bx y o).flrPending = s.flrPending := rfl
@[simp] theorem latchOffset_notifications (s : State) (base : QWord) (bx y o : Nat) : (latchOffset s base bx y o).notifications = s.notifications := rfl
@[simp] theorem latchOffset_hdc (s : State) (base : QWord) (bx y o : Nat) : (latchOffset s base bx y o).hdc = s.hdc := rfl
@[simp] theorem latchOffset_palette (s : State) (base : QWord) (bx y o : Nat) : (latchOffset s base bx y o).palette = s.palette := rfl
@[simp] theorem latchOffset_walk (s : State) (base : QWord) (bx y o : Nat) : (latchOffset s base bx y o).walk = s.walk := rfl
@[simp] theorem latchOffset_trWalk (s : State) (base : QWord) (bx y o : Nat) : (latchOffset s base bx y o).trWalk = s.trWalk := rfl
@[simp] theorem latchOffset_indices (s : State) (base : QWord) (bx y o : Nat) : (latchOffset s base bx y o).indices = s.indices := rfl
@[simp] theorem latchOffset_ggttOffset (s : State) (base : QWord) (bx y o : Nat) : (latchOffset s base bx y o).ggttOffset = s.ggttOffset := rfl
@[simp] theorem latchOffset_atomicReturn (s : State) (base : QWord) (bx y o : Nat) : (latchOffset s base bx y o).atomicReturn = s.atomicReturn := rfl
@[simp] theorem latchOffset_completion (s : State) (base : QWord) (bx y o : Nat) : (latchOffset s base bx y o).completion = s.completion := rfl
@[simp] theorem latchOffset_memType (s : State) (base : QWord) (bx y o : Nat) : (latchOffset s base bx y o).memType = s.memType := rfl
@[simp] theorem latchOffset_cache (s : State) (base : QWord) (bx y o : Nat) : (latchOffset s base bx y o).cache = s.cache := rfl
@[simp] theorem latchOffset_lodOrigin (s : State) (base : QWord) (bx y o : Nat) : (latchOffset s base bx y o).lodOrigin = s.lodOrigin := rfl
@[simp] theorem latchOffset_planar (s : State) (base : QWord) (bx y o : Nat) : (latchOffset s base bx y o).planar = s.planar := rfl
@[simp] theorem latchOffset_pixel (s : State) (base : QWord) (bx y o : Nat) : (latchOffset s base bx y o).pixel = s.pixel := rfl
@[simp] theorem latchOffset_texels (s : State) (base : QWord) (bx y o : Nat) : (latchOffset s base bx y o).texels = s.texels := rfl
@[simp] theorem latchOffset_texel (s : State) (base : QWord) (bx y o : Nat) : (latchOffset s base bx y o).texel = s.texel := rfl
@[simp] theorem latchOffset_astcFormat (s : State) (base : QWord) (bx y o : Nat) : (latchOffset s base bx y o).astcFormat = s.astcFormat := rfl
@[simp] theorem latchOffset_draws (s : State) (base : QWord) (bx y o : Nat) : (latchOffset s base bx y o).draws = s.draws := rfl
@[simp] theorem latchOffset_inputs (s : State) (base : QWord) (bx y o : Nat) : (latchOffset s base bx y o).inputs = s.inputs := rfl

/-! ### stall -/

@[simp] theorem stall_params (s : State) (r : Request) (st : Status) : (stall s r st).params = s.params := rfl
@[simp] theorem stall_mem (s : State) (r : Request) (st : Status) : (stall s r st).mem = s.mem := rfl
@[simp] theorem stall_history (s : State) (r : Request) (st : Status) : (stall s r st).history = s.history := rfl
@[simp] theorem stall_texMark (s : State) (r : Request) (st : Status) : (stall s r st).texMark = s.texMark := rfl
@[simp] theorem stall_icMark (s : State) (r : Request) (st : Status) : (stall s r st).icMark = s.icMark := rfl
@[simp] theorem stall_gpuMark (s : State) (r : Request) (st : Status) : (stall s r st).gpuMark = s.gpuMark := rfl
@[simp] theorem stall_waitMark (s : State) (r : Request) (st : Status) : (stall s r st).waitMark = s.waitMark := rfl
@[simp] theorem stall_cpuMark (s : State) (r : Request) (st : Status) : (stall s r st).cpuMark = s.cpuMark := rfl
@[simp] theorem stall_llcMark (s : State) (r : Request) (st : Status) : (stall s r st).llcMark = s.llcMark := rfl
@[simp] theorem stall_regs (s : State) (r : Request) (st : Status) : (stall s r st).regs = s.regs := rfl
@[simp] theorem stall_priorRegs (s : State) (r : Request) (st : Status) : (stall s r st).priorRegs = s.priorRegs := rfl
@[simp] theorem stall_pci (s : State) (r : Request) (st : Status) : (stall s r st).pci = s.pci := rfl
@[simp] theorem stall_iommu (s : State) (r : Request) (st : Status) : (stall s r st).iommu = s.iommu := rfl
@[simp] theorem stall_contextCache (s : State) (r : Request) (st : Status) : (stall s r st).contextCache = s.contextCache := rfl
@[simp] theorem stall_pasidCounts (s : State) (r : Request) (st : Status) : (stall s r st).pasidCounts = s.pasidCounts := rfl
@[simp] theorem stall_memRanges (s : State) (r : Request) (st : Status) : (stall s r st).memRanges = s.memRanges := rfl
@[simp] theorem stall_pageRequests (s : State) (r : Request) (st : Status) : (stall s r st).pageRequests = s.pageRequests := rfl
@[simp] theorem stall_nextPrg (s : State) (r : Request) (st : Status) : (stall s r st).nextPrg = s.nextPrg := rfl
@[simp] theorem stall_detached (s : State) (r : Request) (st : Status) : (stall s r st).detached = s.detached := rfl
@[simp] theorem stall_lastQueued (s : State) (r : Request) (st : Status) : (stall s r st).lastQueued = s.lastQueued := rfl
@[simp] theorem stall_flrPending (s : State) (r : Request) (st : Status) : (stall s r st).flrPending = s.flrPending := rfl
@[simp] theorem stall_notifications (s : State) (r : Request) (st : Status) : (stall s r st).notifications = s.notifications := rfl
@[simp] theorem stall_hdc (s : State) (r : Request) (st : Status) : (stall s r st).hdc = s.hdc := rfl
@[simp] theorem stall_palette (s : State) (r : Request) (st : Status) : (stall s r st).palette = s.palette := rfl
@[simp] theorem stall_walk (s : State) (r : Request) (st : Status) : (stall s r st).walk = s.walk := rfl
@[simp] theorem stall_trWalk (s : State) (r : Request) (st : Status) : (stall s r st).trWalk = s.trWalk := rfl
@[simp] theorem stall_indices (s : State) (r : Request) (st : Status) : (stall s r st).indices = s.indices := rfl
@[simp] theorem stall_ggttOffset (s : State) (r : Request) (st : Status) : (stall s r st).ggttOffset = s.ggttOffset := rfl
@[simp] theorem stall_atomicReturn (s : State) (r : Request) (st : Status) : (stall s r st).atomicReturn = s.atomicReturn := rfl
@[simp] theorem stall_memType (s : State) (r : Request) (st : Status) : (stall s r st).memType = s.memType := rfl
@[simp] theorem stall_cache (s : State) (r : Request) (st : Status) : (stall s r st).cache = s.cache := rfl
@[simp] theorem stall_tile (s : State) (r : Request) (st : Status) : (stall s r st).tile = s.tile := rfl
@[simp] theorem stall_lodOrigin (s : State) (r : Request) (st : Status) : (stall s r st).lodOrigin = s.lodOrigin := rfl
@[simp] theorem stall_planar (s : State) (r : Request) (st : Status) : (stall s r st).planar = s.planar := rfl
@[simp] theorem stall_pixel (s : State) (r : Request) (st : Status) : (stall s r st).pixel = s.pixel := rfl
@[simp] theorem stall_texels (s : State) (r : Request) (st : Status) : (stall s r st).texels = s.texels := rfl
@[simp] theorem stall_texel (s : State) (r : Request) (st : Status) : (stall s r st).texel = s.texel := rfl
@[simp] theorem stall_astcFormat (s : State) (r : Request) (st : Status) : (stall s r st).astcFormat = s.astcFormat := rfl
@[simp] theorem stall_draws (s : State) (r : Request) (st : Status) : (stall s r st).draws = s.draws := rfl
@[simp] theorem stall_inputs (s : State) (r : Request) (st : Status) : (stall s r st).inputs = s.inputs := rfl

/-! ### keepBehind -/

@[simp] theorem keepBehind_params (s : State) (r : Request) : (keepBehind s r).params = s.params := rfl
@[simp] theorem keepBehind_mem (s : State) (r : Request) : (keepBehind s r).mem = s.mem := rfl
@[simp] theorem keepBehind_history (s : State) (r : Request) : (keepBehind s r).history = s.history := rfl
@[simp] theorem keepBehind_texMark (s : State) (r : Request) : (keepBehind s r).texMark = s.texMark := rfl
@[simp] theorem keepBehind_icMark (s : State) (r : Request) : (keepBehind s r).icMark = s.icMark := rfl
@[simp] theorem keepBehind_gpuMark (s : State) (r : Request) : (keepBehind s r).gpuMark = s.gpuMark := rfl
@[simp] theorem keepBehind_waitMark (s : State) (r : Request) : (keepBehind s r).waitMark = s.waitMark := rfl
@[simp] theorem keepBehind_cpuMark (s : State) (r : Request) : (keepBehind s r).cpuMark = s.cpuMark := rfl
@[simp] theorem keepBehind_llcMark (s : State) (r : Request) : (keepBehind s r).llcMark = s.llcMark := rfl
@[simp] theorem keepBehind_regs (s : State) (r : Request) : (keepBehind s r).regs = s.regs := rfl
@[simp] theorem keepBehind_priorRegs (s : State) (r : Request) : (keepBehind s r).priorRegs = s.priorRegs := rfl
@[simp] theorem keepBehind_pci (s : State) (r : Request) : (keepBehind s r).pci = s.pci := rfl
@[simp] theorem keepBehind_iommu (s : State) (r : Request) : (keepBehind s r).iommu = s.iommu := rfl
@[simp] theorem keepBehind_contextCache (s : State) (r : Request) : (keepBehind s r).contextCache = s.contextCache := rfl
@[simp] theorem keepBehind_pasidCounts (s : State) (r : Request) : (keepBehind s r).pasidCounts = s.pasidCounts := rfl
@[simp] theorem keepBehind_memRanges (s : State) (r : Request) : (keepBehind s r).memRanges = s.memRanges := rfl
@[simp] theorem keepBehind_pageRequests (s : State) (r : Request) : (keepBehind s r).pageRequests = s.pageRequests := rfl
@[simp] theorem keepBehind_nextPrg (s : State) (r : Request) : (keepBehind s r).nextPrg = s.nextPrg := rfl
@[simp] theorem keepBehind_detached (s : State) (r : Request) : (keepBehind s r).detached = s.detached := rfl
@[simp] theorem keepBehind_lastQueued (s : State) (r : Request) : (keepBehind s r).lastQueued = s.lastQueued := rfl
@[simp] theorem keepBehind_flrPending (s : State) (r : Request) : (keepBehind s r).flrPending = s.flrPending := rfl
@[simp] theorem keepBehind_notifications (s : State) (r : Request) : (keepBehind s r).notifications = s.notifications := rfl
@[simp] theorem keepBehind_hdc (s : State) (r : Request) : (keepBehind s r).hdc = s.hdc := rfl
@[simp] theorem keepBehind_palette (s : State) (r : Request) : (keepBehind s r).palette = s.palette := rfl
@[simp] theorem keepBehind_walk (s : State) (r : Request) : (keepBehind s r).walk = s.walk := rfl
@[simp] theorem keepBehind_trWalk (s : State) (r : Request) : (keepBehind s r).trWalk = s.trWalk := rfl
@[simp] theorem keepBehind_indices (s : State) (r : Request) : (keepBehind s r).indices = s.indices := rfl
@[simp] theorem keepBehind_ggttOffset (s : State) (r : Request) : (keepBehind s r).ggttOffset = s.ggttOffset := rfl
@[simp] theorem keepBehind_atomicReturn (s : State) (r : Request) : (keepBehind s r).atomicReturn = s.atomicReturn := rfl
@[simp] theorem keepBehind_memType (s : State) (r : Request) : (keepBehind s r).memType = s.memType := rfl
@[simp] theorem keepBehind_cache (s : State) (r : Request) : (keepBehind s r).cache = s.cache := rfl
@[simp] theorem keepBehind_tile (s : State) (r : Request) : (keepBehind s r).tile = s.tile := rfl
@[simp] theorem keepBehind_lodOrigin (s : State) (r : Request) : (keepBehind s r).lodOrigin = s.lodOrigin := rfl
@[simp] theorem keepBehind_planar (s : State) (r : Request) : (keepBehind s r).planar = s.planar := rfl
@[simp] theorem keepBehind_pixel (s : State) (r : Request) : (keepBehind s r).pixel = s.pixel := rfl
@[simp] theorem keepBehind_texels (s : State) (r : Request) : (keepBehind s r).texels = s.texels := rfl
@[simp] theorem keepBehind_texel (s : State) (r : Request) : (keepBehind s r).texel = s.texel := rfl
@[simp] theorem keepBehind_astcFormat (s : State) (r : Request) : (keepBehind s r).astcFormat = s.astcFormat := rfl
@[simp] theorem keepBehind_draws (s : State) (r : Request) : (keepBehind s r).draws = s.draws := rfl
@[simp] theorem keepBehind_inputs (s : State) (r : Request) : (keepBehind s r).inputs = s.inputs := rfl

/-! ### waitHalted -/

@[simp] theorem waitHalted_params (s : State) (w : Waiting) : (waitHalted s w).params = s.params := rfl
@[simp] theorem waitHalted_mem (s : State) (w : Waiting) : (waitHalted s w).mem = s.mem := rfl
@[simp] theorem waitHalted_history (s : State) (w : Waiting) : (waitHalted s w).history = s.history := rfl
@[simp] theorem waitHalted_texMark (s : State) (w : Waiting) : (waitHalted s w).texMark = s.texMark := rfl
@[simp] theorem waitHalted_icMark (s : State) (w : Waiting) : (waitHalted s w).icMark = s.icMark := rfl
@[simp] theorem waitHalted_gpuMark (s : State) (w : Waiting) : (waitHalted s w).gpuMark = s.gpuMark := rfl
@[simp] theorem waitHalted_waitMark (s : State) (w : Waiting) : (waitHalted s w).waitMark = s.waitMark := rfl
@[simp] theorem waitHalted_cpuMark (s : State) (w : Waiting) : (waitHalted s w).cpuMark = s.cpuMark := rfl
@[simp] theorem waitHalted_llcMark (s : State) (w : Waiting) : (waitHalted s w).llcMark = s.llcMark := rfl
@[simp] theorem waitHalted_regs (s : State) (w : Waiting) : (waitHalted s w).regs = s.regs := rfl
@[simp] theorem waitHalted_priorRegs (s : State) (w : Waiting) : (waitHalted s w).priorRegs = s.priorRegs := rfl
@[simp] theorem waitHalted_pci (s : State) (w : Waiting) : (waitHalted s w).pci = s.pci := rfl
@[simp] theorem waitHalted_iommu (s : State) (w : Waiting) : (waitHalted s w).iommu = s.iommu := rfl
@[simp] theorem waitHalted_contextCache (s : State) (w : Waiting) : (waitHalted s w).contextCache = s.contextCache := rfl
@[simp] theorem waitHalted_pasidCounts (s : State) (w : Waiting) : (waitHalted s w).pasidCounts = s.pasidCounts := rfl
@[simp] theorem waitHalted_memRanges (s : State) (w : Waiting) : (waitHalted s w).memRanges = s.memRanges := rfl
@[simp] theorem waitHalted_pageRequests (s : State) (w : Waiting) : (waitHalted s w).pageRequests = s.pageRequests := rfl
@[simp] theorem waitHalted_nextPrg (s : State) (w : Waiting) : (waitHalted s w).nextPrg = s.nextPrg := rfl
@[simp] theorem waitHalted_detached (s : State) (w : Waiting) : (waitHalted s w).detached = s.detached := rfl
@[simp] theorem waitHalted_lastQueued (s : State) (w : Waiting) : (waitHalted s w).lastQueued = s.lastQueued := rfl
@[simp] theorem waitHalted_flrPending (s : State) (w : Waiting) : (waitHalted s w).flrPending = s.flrPending := rfl
@[simp] theorem waitHalted_notifications (s : State) (w : Waiting) : (waitHalted s w).notifications = s.notifications := rfl
@[simp] theorem waitHalted_hdc (s : State) (w : Waiting) : (waitHalted s w).hdc = s.hdc := rfl
@[simp] theorem waitHalted_palette (s : State) (w : Waiting) : (waitHalted s w).palette = s.palette := rfl
@[simp] theorem waitHalted_walk (s : State) (w : Waiting) : (waitHalted s w).walk = s.walk := rfl
@[simp] theorem waitHalted_trWalk (s : State) (w : Waiting) : (waitHalted s w).trWalk = s.trWalk := rfl
@[simp] theorem waitHalted_indices (s : State) (w : Waiting) : (waitHalted s w).indices = s.indices := rfl
@[simp] theorem waitHalted_ggttOffset (s : State) (w : Waiting) : (waitHalted s w).ggttOffset = s.ggttOffset := rfl
@[simp] theorem waitHalted_atomicReturn (s : State) (w : Waiting) : (waitHalted s w).atomicReturn = s.atomicReturn := rfl
@[simp] theorem waitHalted_memType (s : State) (w : Waiting) : (waitHalted s w).memType = s.memType := rfl
@[simp] theorem waitHalted_cache (s : State) (w : Waiting) : (waitHalted s w).cache = s.cache := rfl
@[simp] theorem waitHalted_tile (s : State) (w : Waiting) : (waitHalted s w).tile = s.tile := rfl
@[simp] theorem waitHalted_lodOrigin (s : State) (w : Waiting) : (waitHalted s w).lodOrigin = s.lodOrigin := rfl
@[simp] theorem waitHalted_planar (s : State) (w : Waiting) : (waitHalted s w).planar = s.planar := rfl
@[simp] theorem waitHalted_pixel (s : State) (w : Waiting) : (waitHalted s w).pixel = s.pixel := rfl
@[simp] theorem waitHalted_texels (s : State) (w : Waiting) : (waitHalted s w).texels = s.texels := rfl
@[simp] theorem waitHalted_texel (s : State) (w : Waiting) : (waitHalted s w).texel = s.texel := rfl
@[simp] theorem waitHalted_astcFormat (s : State) (w : Waiting) : (waitHalted s w).astcFormat = s.astcFormat := rfl
@[simp] theorem waitHalted_draws (s : State) (w : Waiting) : (waitHalted s w).draws = s.draws := rfl
@[simp] theorem waitHalted_inputs (s : State) (w : Waiting) : (waitHalted s w).inputs = s.inputs := rfl

/-! ### queuePageRequest -/

@[simp] theorem queuePageRequest_params (s : State) (f : PageFault) : (queuePageRequest s f).params = s.params := rfl
@[simp] theorem queuePageRequest_mem (s : State) (f : PageFault) : (queuePageRequest s f).mem = s.mem := rfl
@[simp] theorem queuePageRequest_history (s : State) (f : PageFault) : (queuePageRequest s f).history = s.history := rfl
@[simp] theorem queuePageRequest_texMark (s : State) (f : PageFault) : (queuePageRequest s f).texMark = s.texMark := rfl
@[simp] theorem queuePageRequest_icMark (s : State) (f : PageFault) : (queuePageRequest s f).icMark = s.icMark := rfl
@[simp] theorem queuePageRequest_gpuMark (s : State) (f : PageFault) : (queuePageRequest s f).gpuMark = s.gpuMark := rfl
@[simp] theorem queuePageRequest_waitMark (s : State) (f : PageFault) : (queuePageRequest s f).waitMark = s.waitMark := rfl
@[simp] theorem queuePageRequest_cpuMark (s : State) (f : PageFault) : (queuePageRequest s f).cpuMark = s.cpuMark := rfl
@[simp] theorem queuePageRequest_llcMark (s : State) (f : PageFault) : (queuePageRequest s f).llcMark = s.llcMark := rfl
@[simp] theorem queuePageRequest_engines (s : State) (f : PageFault) : (queuePageRequest s f).engines = s.engines := rfl
@[simp] theorem queuePageRequest_regs (s : State) (f : PageFault) : (queuePageRequest s f).regs = s.regs := rfl
@[simp] theorem queuePageRequest_priorRegs (s : State) (f : PageFault) : (queuePageRequest s f).priorRegs = s.priorRegs := rfl
@[simp] theorem queuePageRequest_pci (s : State) (f : PageFault) : (queuePageRequest s f).pci = s.pci := rfl
@[simp] theorem queuePageRequest_iommu (s : State) (f : PageFault) : (queuePageRequest s f).iommu = s.iommu := rfl
@[simp] theorem queuePageRequest_contextCache (s : State) (f : PageFault) : (queuePageRequest s f).contextCache = s.contextCache := rfl
@[simp] theorem queuePageRequest_pasidCounts (s : State) (f : PageFault) : (queuePageRequest s f).pasidCounts = s.pasidCounts := rfl
@[simp] theorem queuePageRequest_memRanges (s : State) (f : PageFault) : (queuePageRequest s f).memRanges = s.memRanges := rfl
@[simp] theorem queuePageRequest_detached (s : State) (f : PageFault) : (queuePageRequest s f).detached = s.detached := rfl
@[simp] theorem queuePageRequest_lastQueued (s : State) (f : PageFault) : (queuePageRequest s f).lastQueued = s.lastQueued := rfl
@[simp] theorem queuePageRequest_flrPending (s : State) (f : PageFault) : (queuePageRequest s f).flrPending = s.flrPending := rfl
@[simp] theorem queuePageRequest_notifications (s : State) (f : PageFault) : (queuePageRequest s f).notifications = s.notifications := rfl
@[simp] theorem queuePageRequest_hdc (s : State) (f : PageFault) : (queuePageRequest s f).hdc = s.hdc := rfl
@[simp] theorem queuePageRequest_palette (s : State) (f : PageFault) : (queuePageRequest s f).palette = s.palette := rfl
@[simp] theorem queuePageRequest_walk (s : State) (f : PageFault) : (queuePageRequest s f).walk = s.walk := rfl
@[simp] theorem queuePageRequest_trWalk (s : State) (f : PageFault) : (queuePageRequest s f).trWalk = s.trWalk := rfl
@[simp] theorem queuePageRequest_indices (s : State) (f : PageFault) : (queuePageRequest s f).indices = s.indices := rfl
@[simp] theorem queuePageRequest_ggttOffset (s : State) (f : PageFault) : (queuePageRequest s f).ggttOffset = s.ggttOffset := rfl
@[simp] theorem queuePageRequest_atomicReturn (s : State) (f : PageFault) : (queuePageRequest s f).atomicReturn = s.atomicReturn := rfl
@[simp] theorem queuePageRequest_completion (s : State) (f : PageFault) : (queuePageRequest s f).completion = s.completion := rfl
@[simp] theorem queuePageRequest_memType (s : State) (f : PageFault) : (queuePageRequest s f).memType = s.memType := rfl
@[simp] theorem queuePageRequest_cache (s : State) (f : PageFault) : (queuePageRequest s f).cache = s.cache := rfl
@[simp] theorem queuePageRequest_tile (s : State) (f : PageFault) : (queuePageRequest s f).tile = s.tile := rfl
@[simp] theorem queuePageRequest_lodOrigin (s : State) (f : PageFault) : (queuePageRequest s f).lodOrigin = s.lodOrigin := rfl
@[simp] theorem queuePageRequest_planar (s : State) (f : PageFault) : (queuePageRequest s f).planar = s.planar := rfl
@[simp] theorem queuePageRequest_pixel (s : State) (f : PageFault) : (queuePageRequest s f).pixel = s.pixel := rfl
@[simp] theorem queuePageRequest_texels (s : State) (f : PageFault) : (queuePageRequest s f).texels = s.texels := rfl
@[simp] theorem queuePageRequest_texel (s : State) (f : PageFault) : (queuePageRequest s f).texel = s.texel := rfl
@[simp] theorem queuePageRequest_astcFormat (s : State) (f : PageFault) : (queuePageRequest s f).astcFormat = s.astcFormat := rfl
@[simp] theorem queuePageRequest_draws (s : State) (f : PageFault) : (queuePageRequest s f).draws = s.draws := rfl
@[simp] theorem queuePageRequest_inputs (s : State) (f : PageFault) : (queuePageRequest s f).inputs = s.inputs := rfl

/-! ### dropPageRequest -/

@[simp] theorem dropPageRequest_params (s : State) (prg : Nat) : (dropPageRequest s prg).params = s.params := rfl
@[simp] theorem dropPageRequest_mem (s : State) (prg : Nat) : (dropPageRequest s prg).mem = s.mem := rfl
@[simp] theorem dropPageRequest_history (s : State) (prg : Nat) : (dropPageRequest s prg).history = s.history := rfl
@[simp] theorem dropPageRequest_texMark (s : State) (prg : Nat) : (dropPageRequest s prg).texMark = s.texMark := rfl
@[simp] theorem dropPageRequest_icMark (s : State) (prg : Nat) : (dropPageRequest s prg).icMark = s.icMark := rfl
@[simp] theorem dropPageRequest_gpuMark (s : State) (prg : Nat) : (dropPageRequest s prg).gpuMark = s.gpuMark := rfl
@[simp] theorem dropPageRequest_waitMark (s : State) (prg : Nat) : (dropPageRequest s prg).waitMark = s.waitMark := rfl
@[simp] theorem dropPageRequest_cpuMark (s : State) (prg : Nat) : (dropPageRequest s prg).cpuMark = s.cpuMark := rfl
@[simp] theorem dropPageRequest_llcMark (s : State) (prg : Nat) : (dropPageRequest s prg).llcMark = s.llcMark := rfl
@[simp] theorem dropPageRequest_engines (s : State) (prg : Nat) : (dropPageRequest s prg).engines = s.engines := rfl
@[simp] theorem dropPageRequest_regs (s : State) (prg : Nat) : (dropPageRequest s prg).regs = s.regs := rfl
@[simp] theorem dropPageRequest_priorRegs (s : State) (prg : Nat) : (dropPageRequest s prg).priorRegs = s.priorRegs := rfl
@[simp] theorem dropPageRequest_pci (s : State) (prg : Nat) : (dropPageRequest s prg).pci = s.pci := rfl
@[simp] theorem dropPageRequest_iommu (s : State) (prg : Nat) : (dropPageRequest s prg).iommu = s.iommu := rfl
@[simp] theorem dropPageRequest_contextCache (s : State) (prg : Nat) : (dropPageRequest s prg).contextCache = s.contextCache := rfl
@[simp] theorem dropPageRequest_pasidCounts (s : State) (prg : Nat) : (dropPageRequest s prg).pasidCounts = s.pasidCounts := rfl
@[simp] theorem dropPageRequest_memRanges (s : State) (prg : Nat) : (dropPageRequest s prg).memRanges = s.memRanges := rfl
@[simp] theorem dropPageRequest_nextPrg (s : State) (prg : Nat) : (dropPageRequest s prg).nextPrg = s.nextPrg := rfl
@[simp] theorem dropPageRequest_detached (s : State) (prg : Nat) : (dropPageRequest s prg).detached = s.detached := rfl
@[simp] theorem dropPageRequest_lastQueued (s : State) (prg : Nat) : (dropPageRequest s prg).lastQueued = s.lastQueued := rfl
@[simp] theorem dropPageRequest_flrPending (s : State) (prg : Nat) : (dropPageRequest s prg).flrPending = s.flrPending := rfl
@[simp] theorem dropPageRequest_notifications (s : State) (prg : Nat) : (dropPageRequest s prg).notifications = s.notifications := rfl
@[simp] theorem dropPageRequest_hdc (s : State) (prg : Nat) : (dropPageRequest s prg).hdc = s.hdc := rfl
@[simp] theorem dropPageRequest_palette (s : State) (prg : Nat) : (dropPageRequest s prg).palette = s.palette := rfl
@[simp] theorem dropPageRequest_walk (s : State) (prg : Nat) : (dropPageRequest s prg).walk = s.walk := rfl
@[simp] theorem dropPageRequest_trWalk (s : State) (prg : Nat) : (dropPageRequest s prg).trWalk = s.trWalk := rfl
@[simp] theorem dropPageRequest_indices (s : State) (prg : Nat) : (dropPageRequest s prg).indices = s.indices := rfl
@[simp] theorem dropPageRequest_ggttOffset (s : State) (prg : Nat) : (dropPageRequest s prg).ggttOffset = s.ggttOffset := rfl
@[simp] theorem dropPageRequest_atomicReturn (s : State) (prg : Nat) : (dropPageRequest s prg).atomicReturn = s.atomicReturn := rfl
@[simp] theorem dropPageRequest_completion (s : State) (prg : Nat) : (dropPageRequest s prg).completion = s.completion := rfl
@[simp] theorem dropPageRequest_memType (s : State) (prg : Nat) : (dropPageRequest s prg).memType = s.memType := rfl
@[simp] theorem dropPageRequest_cache (s : State) (prg : Nat) : (dropPageRequest s prg).cache = s.cache := rfl
@[simp] theorem dropPageRequest_tile (s : State) (prg : Nat) : (dropPageRequest s prg).tile = s.tile := rfl
@[simp] theorem dropPageRequest_lodOrigin (s : State) (prg : Nat) : (dropPageRequest s prg).lodOrigin = s.lodOrigin := rfl
@[simp] theorem dropPageRequest_planar (s : State) (prg : Nat) : (dropPageRequest s prg).planar = s.planar := rfl
@[simp] theorem dropPageRequest_pixel (s : State) (prg : Nat) : (dropPageRequest s prg).pixel = s.pixel := rfl
@[simp] theorem dropPageRequest_texels (s : State) (prg : Nat) : (dropPageRequest s prg).texels = s.texels := rfl
@[simp] theorem dropPageRequest_texel (s : State) (prg : Nat) : (dropPageRequest s prg).texel = s.texel := rfl
@[simp] theorem dropPageRequest_astcFormat (s : State) (prg : Nat) : (dropPageRequest s prg).astcFormat = s.astcFormat := rfl
@[simp] theorem dropPageRequest_draws (s : State) (prg : Nat) : (dropPageRequest s prg).draws = s.draws := rfl
@[simp] theorem dropPageRequest_inputs (s : State) (prg : Nat) : (dropPageRequest s prg).inputs = s.inputs := rfl

/-! ### setRf -/

@[simp] theorem setRf_params (s : State) : (setRf s).params = s.params := rfl
@[simp] theorem setRf_mem (s : State) : (setRf s).mem = s.mem := rfl
@[simp] theorem setRf_history (s : State) : (setRf s).history = s.history := rfl
@[simp] theorem setRf_texMark (s : State) : (setRf s).texMark = s.texMark := rfl
@[simp] theorem setRf_icMark (s : State) : (setRf s).icMark = s.icMark := rfl
@[simp] theorem setRf_gpuMark (s : State) : (setRf s).gpuMark = s.gpuMark := rfl
@[simp] theorem setRf_waitMark (s : State) : (setRf s).waitMark = s.waitMark := rfl
@[simp] theorem setRf_cpuMark (s : State) : (setRf s).cpuMark = s.cpuMark := rfl
@[simp] theorem setRf_llcMark (s : State) : (setRf s).llcMark = s.llcMark := rfl
@[simp] theorem setRf_engines (s : State) : (setRf s).engines = s.engines := rfl
@[simp] theorem setRf_regs (s : State) : (setRf s).regs = s.regs := rfl
@[simp] theorem setRf_priorRegs (s : State) : (setRf s).priorRegs = s.priorRegs := rfl
@[simp] theorem setRf_iommu (s : State) : (setRf s).iommu = s.iommu := rfl
@[simp] theorem setRf_contextCache (s : State) : (setRf s).contextCache = s.contextCache := rfl
@[simp] theorem setRf_pasidCounts (s : State) : (setRf s).pasidCounts = s.pasidCounts := rfl
@[simp] theorem setRf_memRanges (s : State) : (setRf s).memRanges = s.memRanges := rfl
@[simp] theorem setRf_pageRequests (s : State) : (setRf s).pageRequests = s.pageRequests := rfl
@[simp] theorem setRf_nextPrg (s : State) : (setRf s).nextPrg = s.nextPrg := rfl
@[simp] theorem setRf_detached (s : State) : (setRf s).detached = s.detached := rfl
@[simp] theorem setRf_lastQueued (s : State) : (setRf s).lastQueued = s.lastQueued := rfl
@[simp] theorem setRf_flrPending (s : State) : (setRf s).flrPending = s.flrPending := rfl
@[simp] theorem setRf_notifications (s : State) : (setRf s).notifications = s.notifications := rfl
@[simp] theorem setRf_hdc (s : State) : (setRf s).hdc = s.hdc := rfl
@[simp] theorem setRf_palette (s : State) : (setRf s).palette = s.palette := rfl
@[simp] theorem setRf_walk (s : State) : (setRf s).walk = s.walk := rfl
@[simp] theorem setRf_trWalk (s : State) : (setRf s).trWalk = s.trWalk := rfl
@[simp] theorem setRf_indices (s : State) : (setRf s).indices = s.indices := rfl
@[simp] theorem setRf_ggttOffset (s : State) : (setRf s).ggttOffset = s.ggttOffset := rfl
@[simp] theorem setRf_atomicReturn (s : State) : (setRf s).atomicReturn = s.atomicReturn := rfl
@[simp] theorem setRf_completion (s : State) : (setRf s).completion = s.completion := rfl
@[simp] theorem setRf_memType (s : State) : (setRf s).memType = s.memType := rfl
@[simp] theorem setRf_cache (s : State) : (setRf s).cache = s.cache := rfl
@[simp] theorem setRf_tile (s : State) : (setRf s).tile = s.tile := rfl
@[simp] theorem setRf_lodOrigin (s : State) : (setRf s).lodOrigin = s.lodOrigin := rfl
@[simp] theorem setRf_planar (s : State) : (setRf s).planar = s.planar := rfl
@[simp] theorem setRf_pixel (s : State) : (setRf s).pixel = s.pixel := rfl
@[simp] theorem setRf_texels (s : State) : (setRf s).texels = s.texels := rfl
@[simp] theorem setRf_texel (s : State) : (setRf s).texel = s.texel := rfl
@[simp] theorem setRf_astcFormat (s : State) : (setRf s).astcFormat = s.astcFormat := rfl
@[simp] theorem setRf_draws (s : State) : (setRf s).draws = s.draws := rfl
@[simp] theorem setRf_inputs (s : State) : (setRf s).inputs = s.inputs := rfl

/-! ### setUprgi -/

@[simp] theorem setUprgi_params (s : State) : (setUprgi s).params = s.params := rfl
@[simp] theorem setUprgi_mem (s : State) : (setUprgi s).mem = s.mem := rfl
@[simp] theorem setUprgi_history (s : State) : (setUprgi s).history = s.history := rfl
@[simp] theorem setUprgi_texMark (s : State) : (setUprgi s).texMark = s.texMark := rfl
@[simp] theorem setUprgi_icMark (s : State) : (setUprgi s).icMark = s.icMark := rfl
@[simp] theorem setUprgi_gpuMark (s : State) : (setUprgi s).gpuMark = s.gpuMark := rfl
@[simp] theorem setUprgi_waitMark (s : State) : (setUprgi s).waitMark = s.waitMark := rfl
@[simp] theorem setUprgi_cpuMark (s : State) : (setUprgi s).cpuMark = s.cpuMark := rfl
@[simp] theorem setUprgi_llcMark (s : State) : (setUprgi s).llcMark = s.llcMark := rfl
@[simp] theorem setUprgi_engines (s : State) : (setUprgi s).engines = s.engines := rfl
@[simp] theorem setUprgi_regs (s : State) : (setUprgi s).regs = s.regs := rfl
@[simp] theorem setUprgi_priorRegs (s : State) : (setUprgi s).priorRegs = s.priorRegs := rfl
@[simp] theorem setUprgi_iommu (s : State) : (setUprgi s).iommu = s.iommu := rfl
@[simp] theorem setUprgi_contextCache (s : State) : (setUprgi s).contextCache = s.contextCache := rfl
@[simp] theorem setUprgi_pasidCounts (s : State) : (setUprgi s).pasidCounts = s.pasidCounts := rfl
@[simp] theorem setUprgi_memRanges (s : State) : (setUprgi s).memRanges = s.memRanges := rfl
@[simp] theorem setUprgi_pageRequests (s : State) : (setUprgi s).pageRequests = s.pageRequests := rfl
@[simp] theorem setUprgi_nextPrg (s : State) : (setUprgi s).nextPrg = s.nextPrg := rfl
@[simp] theorem setUprgi_detached (s : State) : (setUprgi s).detached = s.detached := rfl
@[simp] theorem setUprgi_lastQueued (s : State) : (setUprgi s).lastQueued = s.lastQueued := rfl
@[simp] theorem setUprgi_flrPending (s : State) : (setUprgi s).flrPending = s.flrPending := rfl
@[simp] theorem setUprgi_notifications (s : State) : (setUprgi s).notifications = s.notifications := rfl
@[simp] theorem setUprgi_hdc (s : State) : (setUprgi s).hdc = s.hdc := rfl
@[simp] theorem setUprgi_palette (s : State) : (setUprgi s).palette = s.palette := rfl
@[simp] theorem setUprgi_walk (s : State) : (setUprgi s).walk = s.walk := rfl
@[simp] theorem setUprgi_trWalk (s : State) : (setUprgi s).trWalk = s.trWalk := rfl
@[simp] theorem setUprgi_indices (s : State) : (setUprgi s).indices = s.indices := rfl
@[simp] theorem setUprgi_ggttOffset (s : State) : (setUprgi s).ggttOffset = s.ggttOffset := rfl
@[simp] theorem setUprgi_atomicReturn (s : State) : (setUprgi s).atomicReturn = s.atomicReturn := rfl
@[simp] theorem setUprgi_completion (s : State) : (setUprgi s).completion = s.completion := rfl
@[simp] theorem setUprgi_memType (s : State) : (setUprgi s).memType = s.memType := rfl
@[simp] theorem setUprgi_cache (s : State) : (setUprgi s).cache = s.cache := rfl
@[simp] theorem setUprgi_tile (s : State) : (setUprgi s).tile = s.tile := rfl
@[simp] theorem setUprgi_lodOrigin (s : State) : (setUprgi s).lodOrigin = s.lodOrigin := rfl
@[simp] theorem setUprgi_planar (s : State) : (setUprgi s).planar = s.planar := rfl
@[simp] theorem setUprgi_pixel (s : State) : (setUprgi s).pixel = s.pixel := rfl
@[simp] theorem setUprgi_texels (s : State) : (setUprgi s).texels = s.texels := rfl
@[simp] theorem setUprgi_texel (s : State) : (setUprgi s).texel = s.texel := rfl
@[simp] theorem setUprgi_astcFormat (s : State) : (setUprgi s).astcFormat = s.astcFormat := rfl
@[simp] theorem setUprgi_draws (s : State) : (setUprgi s).draws = s.draws := rfl
@[simp] theorem setUprgi_inputs (s : State) : (setUprgi s).inputs = s.inputs := rfl

/-! ### countPasid -/

@[simp] theorem countPasid_params (s : State) (p : BitVec 20) (d : Int) : (countPasid s p d).params = s.params := rfl
@[simp] theorem countPasid_mem (s : State) (p : BitVec 20) (d : Int) : (countPasid s p d).mem = s.mem := rfl
@[simp] theorem countPasid_history (s : State) (p : BitVec 20) (d : Int) : (countPasid s p d).history = s.history := rfl
@[simp] theorem countPasid_texMark (s : State) (p : BitVec 20) (d : Int) : (countPasid s p d).texMark = s.texMark := rfl
@[simp] theorem countPasid_icMark (s : State) (p : BitVec 20) (d : Int) : (countPasid s p d).icMark = s.icMark := rfl
@[simp] theorem countPasid_gpuMark (s : State) (p : BitVec 20) (d : Int) : (countPasid s p d).gpuMark = s.gpuMark := rfl
@[simp] theorem countPasid_waitMark (s : State) (p : BitVec 20) (d : Int) : (countPasid s p d).waitMark = s.waitMark := rfl
@[simp] theorem countPasid_cpuMark (s : State) (p : BitVec 20) (d : Int) : (countPasid s p d).cpuMark = s.cpuMark := rfl
@[simp] theorem countPasid_llcMark (s : State) (p : BitVec 20) (d : Int) : (countPasid s p d).llcMark = s.llcMark := rfl
@[simp] theorem countPasid_engines (s : State) (p : BitVec 20) (d : Int) : (countPasid s p d).engines = s.engines := rfl
@[simp] theorem countPasid_regs (s : State) (p : BitVec 20) (d : Int) : (countPasid s p d).regs = s.regs := rfl
@[simp] theorem countPasid_priorRegs (s : State) (p : BitVec 20) (d : Int) : (countPasid s p d).priorRegs = s.priorRegs := rfl
@[simp] theorem countPasid_pci (s : State) (p : BitVec 20) (d : Int) : (countPasid s p d).pci = s.pci := rfl
@[simp] theorem countPasid_iommu (s : State) (p : BitVec 20) (d : Int) : (countPasid s p d).iommu = s.iommu := rfl
@[simp] theorem countPasid_contextCache (s : State) (p : BitVec 20) (d : Int) : (countPasid s p d).contextCache = s.contextCache := rfl
@[simp] theorem countPasid_memRanges (s : State) (p : BitVec 20) (d : Int) : (countPasid s p d).memRanges = s.memRanges := rfl
@[simp] theorem countPasid_pageRequests (s : State) (p : BitVec 20) (d : Int) : (countPasid s p d).pageRequests = s.pageRequests := rfl
@[simp] theorem countPasid_nextPrg (s : State) (p : BitVec 20) (d : Int) : (countPasid s p d).nextPrg = s.nextPrg := rfl
@[simp] theorem countPasid_detached (s : State) (p : BitVec 20) (d : Int) : (countPasid s p d).detached = s.detached := rfl
@[simp] theorem countPasid_lastQueued (s : State) (p : BitVec 20) (d : Int) : (countPasid s p d).lastQueued = s.lastQueued := rfl
@[simp] theorem countPasid_flrPending (s : State) (p : BitVec 20) (d : Int) : (countPasid s p d).flrPending = s.flrPending := rfl
@[simp] theorem countPasid_notifications (s : State) (p : BitVec 20) (d : Int) : (countPasid s p d).notifications = s.notifications := rfl
@[simp] theorem countPasid_hdc (s : State) (p : BitVec 20) (d : Int) : (countPasid s p d).hdc = s.hdc := rfl
@[simp] theorem countPasid_palette (s : State) (p : BitVec 20) (d : Int) : (countPasid s p d).palette = s.palette := rfl
@[simp] theorem countPasid_walk (s : State) (p : BitVec 20) (d : Int) : (countPasid s p d).walk = s.walk := rfl
@[simp] theorem countPasid_trWalk (s : State) (p : BitVec 20) (d : Int) : (countPasid s p d).trWalk = s.trWalk := rfl
@[simp] theorem countPasid_indices (s : State) (p : BitVec 20) (d : Int) : (countPasid s p d).indices = s.indices := rfl
@[simp] theorem countPasid_ggttOffset (s : State) (p : BitVec 20) (d : Int) : (countPasid s p d).ggttOffset = s.ggttOffset := rfl
@[simp] theorem countPasid_atomicReturn (s : State) (p : BitVec 20) (d : Int) : (countPasid s p d).atomicReturn = s.atomicReturn := rfl
@[simp] theorem countPasid_completion (s : State) (p : BitVec 20) (d : Int) : (countPasid s p d).completion = s.completion := rfl
@[simp] theorem countPasid_memType (s : State) (p : BitVec 20) (d : Int) : (countPasid s p d).memType = s.memType := rfl
@[simp] theorem countPasid_cache (s : State) (p : BitVec 20) (d : Int) : (countPasid s p d).cache = s.cache := rfl
@[simp] theorem countPasid_tile (s : State) (p : BitVec 20) (d : Int) : (countPasid s p d).tile = s.tile := rfl
@[simp] theorem countPasid_lodOrigin (s : State) (p : BitVec 20) (d : Int) : (countPasid s p d).lodOrigin = s.lodOrigin := rfl
@[simp] theorem countPasid_planar (s : State) (p : BitVec 20) (d : Int) : (countPasid s p d).planar = s.planar := rfl
@[simp] theorem countPasid_pixel (s : State) (p : BitVec 20) (d : Int) : (countPasid s p d).pixel = s.pixel := rfl
@[simp] theorem countPasid_texels (s : State) (p : BitVec 20) (d : Int) : (countPasid s p d).texels = s.texels := rfl
@[simp] theorem countPasid_texel (s : State) (p : BitVec 20) (d : Int) : (countPasid s p d).texel = s.texel := rfl
@[simp] theorem countPasid_astcFormat (s : State) (p : BitVec 20) (d : Int) : (countPasid s p d).astcFormat = s.astcFormat := rfl
@[simp] theorem countPasid_draws (s : State) (p : BitVec 20) (d : Int) : (countPasid s p d).draws = s.draws := rfl
@[simp] theorem countPasid_inputs (s : State) (p : BitVec 20) (d : Int) : (countPasid s p d).inputs = s.inputs := rfl

/-! ### latchMemType -/

@[simp] theorem latchMemType_params (ty : MemType) (a : TypeArgs) (s : State) : (latchMemType ty a s).params = s.params := rfl
@[simp] theorem latchMemType_mem (ty : MemType) (a : TypeArgs) (s : State) : (latchMemType ty a s).mem = s.mem := rfl
@[simp] theorem latchMemType_history (ty : MemType) (a : TypeArgs) (s : State) : (latchMemType ty a s).history = s.history := rfl
@[simp] theorem latchMemType_texMark (ty : MemType) (a : TypeArgs) (s : State) : (latchMemType ty a s).texMark = s.texMark := rfl
@[simp] theorem latchMemType_icMark (ty : MemType) (a : TypeArgs) (s : State) : (latchMemType ty a s).icMark = s.icMark := rfl
@[simp] theorem latchMemType_gpuMark (ty : MemType) (a : TypeArgs) (s : State) : (latchMemType ty a s).gpuMark = s.gpuMark := rfl
@[simp] theorem latchMemType_waitMark (ty : MemType) (a : TypeArgs) (s : State) : (latchMemType ty a s).waitMark = s.waitMark := rfl
@[simp] theorem latchMemType_cpuMark (ty : MemType) (a : TypeArgs) (s : State) : (latchMemType ty a s).cpuMark = s.cpuMark := rfl
@[simp] theorem latchMemType_llcMark (ty : MemType) (a : TypeArgs) (s : State) : (latchMemType ty a s).llcMark = s.llcMark := rfl
@[simp] theorem latchMemType_engines (ty : MemType) (a : TypeArgs) (s : State) : (latchMemType ty a s).engines = s.engines := rfl
@[simp] theorem latchMemType_regs (ty : MemType) (a : TypeArgs) (s : State) : (latchMemType ty a s).regs = s.regs := rfl
@[simp] theorem latchMemType_priorRegs (ty : MemType) (a : TypeArgs) (s : State) : (latchMemType ty a s).priorRegs = s.priorRegs := rfl
@[simp] theorem latchMemType_pci (ty : MemType) (a : TypeArgs) (s : State) : (latchMemType ty a s).pci = s.pci := rfl
@[simp] theorem latchMemType_iommu (ty : MemType) (a : TypeArgs) (s : State) : (latchMemType ty a s).iommu = s.iommu := rfl
@[simp] theorem latchMemType_contextCache (ty : MemType) (a : TypeArgs) (s : State) : (latchMemType ty a s).contextCache = s.contextCache := rfl
@[simp] theorem latchMemType_pasidCounts (ty : MemType) (a : TypeArgs) (s : State) : (latchMemType ty a s).pasidCounts = s.pasidCounts := rfl
@[simp] theorem latchMemType_memRanges (ty : MemType) (a : TypeArgs) (s : State) : (latchMemType ty a s).memRanges = s.memRanges := rfl
@[simp] theorem latchMemType_pageRequests (ty : MemType) (a : TypeArgs) (s : State) : (latchMemType ty a s).pageRequests = s.pageRequests := rfl
@[simp] theorem latchMemType_nextPrg (ty : MemType) (a : TypeArgs) (s : State) : (latchMemType ty a s).nextPrg = s.nextPrg := rfl
@[simp] theorem latchMemType_detached (ty : MemType) (a : TypeArgs) (s : State) : (latchMemType ty a s).detached = s.detached := rfl
@[simp] theorem latchMemType_lastQueued (ty : MemType) (a : TypeArgs) (s : State) : (latchMemType ty a s).lastQueued = s.lastQueued := rfl
@[simp] theorem latchMemType_flrPending (ty : MemType) (a : TypeArgs) (s : State) : (latchMemType ty a s).flrPending = s.flrPending := rfl
@[simp] theorem latchMemType_notifications (ty : MemType) (a : TypeArgs) (s : State) : (latchMemType ty a s).notifications = s.notifications := rfl
@[simp] theorem latchMemType_hdc (ty : MemType) (a : TypeArgs) (s : State) : (latchMemType ty a s).hdc = s.hdc := rfl
@[simp] theorem latchMemType_palette (ty : MemType) (a : TypeArgs) (s : State) : (latchMemType ty a s).palette = s.palette := rfl
@[simp] theorem latchMemType_walk (ty : MemType) (a : TypeArgs) (s : State) : (latchMemType ty a s).walk = s.walk := rfl
@[simp] theorem latchMemType_trWalk (ty : MemType) (a : TypeArgs) (s : State) : (latchMemType ty a s).trWalk = s.trWalk := rfl
@[simp] theorem latchMemType_indices (ty : MemType) (a : TypeArgs) (s : State) : (latchMemType ty a s).indices = s.indices := rfl
@[simp] theorem latchMemType_ggttOffset (ty : MemType) (a : TypeArgs) (s : State) : (latchMemType ty a s).ggttOffset = s.ggttOffset := rfl
@[simp] theorem latchMemType_atomicReturn (ty : MemType) (a : TypeArgs) (s : State) : (latchMemType ty a s).atomicReturn = s.atomicReturn := rfl
@[simp] theorem latchMemType_completion (ty : MemType) (a : TypeArgs) (s : State) : (latchMemType ty a s).completion = s.completion := rfl
@[simp] theorem latchMemType_cache (ty : MemType) (a : TypeArgs) (s : State) : (latchMemType ty a s).cache = s.cache := rfl
@[simp] theorem latchMemType_tile (ty : MemType) (a : TypeArgs) (s : State) : (latchMemType ty a s).tile = s.tile := rfl
@[simp] theorem latchMemType_lodOrigin (ty : MemType) (a : TypeArgs) (s : State) : (latchMemType ty a s).lodOrigin = s.lodOrigin := rfl
@[simp] theorem latchMemType_planar (ty : MemType) (a : TypeArgs) (s : State) : (latchMemType ty a s).planar = s.planar := rfl
@[simp] theorem latchMemType_pixel (ty : MemType) (a : TypeArgs) (s : State) : (latchMemType ty a s).pixel = s.pixel := rfl
@[simp] theorem latchMemType_texels (ty : MemType) (a : TypeArgs) (s : State) : (latchMemType ty a s).texels = s.texels := rfl
@[simp] theorem latchMemType_texel (ty : MemType) (a : TypeArgs) (s : State) : (latchMemType ty a s).texel = s.texel := rfl
@[simp] theorem latchMemType_astcFormat (ty : MemType) (a : TypeArgs) (s : State) : (latchMemType ty a s).astcFormat = s.astcFormat := rfl
@[simp] theorem latchMemType_draws (ty : MemType) (a : TypeArgs) (s : State) : (latchMemType ty a s).draws = s.draws := rfl
@[simp] theorem latchMemType_inputs (ty : MemType) (a : TypeArgs) (s : State) : (latchMemType ty a s).inputs = s.inputs := rfl

/-! ### resumeStalled -/

@[simp] theorem resumeStalled_params (s : State) (e : Engine) (rs : List Request) : (resumeStalled s e rs).params = s.params := rfl
@[simp] theorem resumeStalled_mem (s : State) (e : Engine) (rs : List Request) : (resumeStalled s e rs).mem = s.mem := rfl
@[simp] theorem resumeStalled_history (s : State) (e : Engine) (rs : List Request) : (resumeStalled s e rs).history = s.history := rfl
@[simp] theorem resumeStalled_texMark (s : State) (e : Engine) (rs : List Request) : (resumeStalled s e rs).texMark = s.texMark := rfl
@[simp] theorem resumeStalled_icMark (s : State) (e : Engine) (rs : List Request) : (resumeStalled s e rs).icMark = s.icMark := rfl
@[simp] theorem resumeStalled_gpuMark (s : State) (e : Engine) (rs : List Request) : (resumeStalled s e rs).gpuMark = s.gpuMark := rfl
@[simp] theorem resumeStalled_waitMark (s : State) (e : Engine) (rs : List Request) : (resumeStalled s e rs).waitMark = s.waitMark := rfl
@[simp] theorem resumeStalled_cpuMark (s : State) (e : Engine) (rs : List Request) : (resumeStalled s e rs).cpuMark = s.cpuMark := rfl
@[simp] theorem resumeStalled_llcMark (s : State) (e : Engine) (rs : List Request) : (resumeStalled s e rs).llcMark = s.llcMark := rfl
@[simp] theorem resumeStalled_regs (s : State) (e : Engine) (rs : List Request) : (resumeStalled s e rs).regs = s.regs := rfl
@[simp] theorem resumeStalled_priorRegs (s : State) (e : Engine) (rs : List Request) : (resumeStalled s e rs).priorRegs = s.priorRegs := rfl
@[simp] theorem resumeStalled_pci (s : State) (e : Engine) (rs : List Request) : (resumeStalled s e rs).pci = s.pci := rfl
@[simp] theorem resumeStalled_iommu (s : State) (e : Engine) (rs : List Request) : (resumeStalled s e rs).iommu = s.iommu := rfl
@[simp] theorem resumeStalled_contextCache (s : State) (e : Engine) (rs : List Request) : (resumeStalled s e rs).contextCache = s.contextCache := rfl
@[simp] theorem resumeStalled_pasidCounts (s : State) (e : Engine) (rs : List Request) : (resumeStalled s e rs).pasidCounts = s.pasidCounts := rfl
@[simp] theorem resumeStalled_memRanges (s : State) (e : Engine) (rs : List Request) : (resumeStalled s e rs).memRanges = s.memRanges := rfl
@[simp] theorem resumeStalled_pageRequests (s : State) (e : Engine) (rs : List Request) : (resumeStalled s e rs).pageRequests = s.pageRequests := rfl
@[simp] theorem resumeStalled_nextPrg (s : State) (e : Engine) (rs : List Request) : (resumeStalled s e rs).nextPrg = s.nextPrg := rfl
@[simp] theorem resumeStalled_detached (s : State) (e : Engine) (rs : List Request) : (resumeStalled s e rs).detached = s.detached := rfl
@[simp] theorem resumeStalled_lastQueued (s : State) (e : Engine) (rs : List Request) : (resumeStalled s e rs).lastQueued = s.lastQueued := rfl
@[simp] theorem resumeStalled_flrPending (s : State) (e : Engine) (rs : List Request) : (resumeStalled s e rs).flrPending = s.flrPending := rfl
@[simp] theorem resumeStalled_notifications (s : State) (e : Engine) (rs : List Request) : (resumeStalled s e rs).notifications = s.notifications := rfl
@[simp] theorem resumeStalled_hdc (s : State) (e : Engine) (rs : List Request) : (resumeStalled s e rs).hdc = s.hdc := rfl
@[simp] theorem resumeStalled_palette (s : State) (e : Engine) (rs : List Request) : (resumeStalled s e rs).palette = s.palette := rfl
@[simp] theorem resumeStalled_walk (s : State) (e : Engine) (rs : List Request) : (resumeStalled s e rs).walk = s.walk := rfl
@[simp] theorem resumeStalled_trWalk (s : State) (e : Engine) (rs : List Request) : (resumeStalled s e rs).trWalk = s.trWalk := rfl
@[simp] theorem resumeStalled_indices (s : State) (e : Engine) (rs : List Request) : (resumeStalled s e rs).indices = s.indices := rfl
@[simp] theorem resumeStalled_ggttOffset (s : State) (e : Engine) (rs : List Request) : (resumeStalled s e rs).ggttOffset = s.ggttOffset := rfl
@[simp] theorem resumeStalled_atomicReturn (s : State) (e : Engine) (rs : List Request) : (resumeStalled s e rs).atomicReturn = s.atomicReturn := rfl
@[simp] theorem resumeStalled_completion (s : State) (e : Engine) (rs : List Request) : (resumeStalled s e rs).completion = s.completion := rfl
@[simp] theorem resumeStalled_memType (s : State) (e : Engine) (rs : List Request) : (resumeStalled s e rs).memType = s.memType := rfl
@[simp] theorem resumeStalled_cache (s : State) (e : Engine) (rs : List Request) : (resumeStalled s e rs).cache = s.cache := rfl
@[simp] theorem resumeStalled_tile (s : State) (e : Engine) (rs : List Request) : (resumeStalled s e rs).tile = s.tile := rfl
@[simp] theorem resumeStalled_lodOrigin (s : State) (e : Engine) (rs : List Request) : (resumeStalled s e rs).lodOrigin = s.lodOrigin := rfl
@[simp] theorem resumeStalled_planar (s : State) (e : Engine) (rs : List Request) : (resumeStalled s e rs).planar = s.planar := rfl
@[simp] theorem resumeStalled_pixel (s : State) (e : Engine) (rs : List Request) : (resumeStalled s e rs).pixel = s.pixel := rfl
@[simp] theorem resumeStalled_texels (s : State) (e : Engine) (rs : List Request) : (resumeStalled s e rs).texels = s.texels := rfl
@[simp] theorem resumeStalled_texel (s : State) (e : Engine) (rs : List Request) : (resumeStalled s e rs).texel = s.texel := rfl
@[simp] theorem resumeStalled_astcFormat (s : State) (e : Engine) (rs : List Request) : (resumeStalled s e rs).astcFormat = s.astcFormat := rfl
@[simp] theorem resumeStalled_draws (s : State) (e : Engine) (rs : List Request) : (resumeStalled s e rs).draws = s.draws := rfl

/-! ### popInput -/

@[simp] theorem popInput_params (s : State) (rest : List Input) : (popInput s rest).params = s.params := rfl
@[simp] theorem popInput_mem (s : State) (rest : List Input) : (popInput s rest).mem = s.mem := rfl
@[simp] theorem popInput_history (s : State) (rest : List Input) : (popInput s rest).history = s.history := rfl
@[simp] theorem popInput_texMark (s : State) (rest : List Input) : (popInput s rest).texMark = s.texMark := rfl
@[simp] theorem popInput_icMark (s : State) (rest : List Input) : (popInput s rest).icMark = s.icMark := rfl
@[simp] theorem popInput_gpuMark (s : State) (rest : List Input) : (popInput s rest).gpuMark = s.gpuMark := rfl
@[simp] theorem popInput_waitMark (s : State) (rest : List Input) : (popInput s rest).waitMark = s.waitMark := rfl
@[simp] theorem popInput_cpuMark (s : State) (rest : List Input) : (popInput s rest).cpuMark = s.cpuMark := rfl
@[simp] theorem popInput_llcMark (s : State) (rest : List Input) : (popInput s rest).llcMark = s.llcMark := rfl
@[simp] theorem popInput_engines (s : State) (rest : List Input) : (popInput s rest).engines = s.engines := rfl
@[simp] theorem popInput_regs (s : State) (rest : List Input) : (popInput s rest).regs = s.regs := rfl
@[simp] theorem popInput_priorRegs (s : State) (rest : List Input) : (popInput s rest).priorRegs = s.priorRegs := rfl
@[simp] theorem popInput_pci (s : State) (rest : List Input) : (popInput s rest).pci = s.pci := rfl
@[simp] theorem popInput_iommu (s : State) (rest : List Input) : (popInput s rest).iommu = s.iommu := rfl
@[simp] theorem popInput_contextCache (s : State) (rest : List Input) : (popInput s rest).contextCache = s.contextCache := rfl
@[simp] theorem popInput_pasidCounts (s : State) (rest : List Input) : (popInput s rest).pasidCounts = s.pasidCounts := rfl
@[simp] theorem popInput_memRanges (s : State) (rest : List Input) : (popInput s rest).memRanges = s.memRanges := rfl
@[simp] theorem popInput_pageRequests (s : State) (rest : List Input) : (popInput s rest).pageRequests = s.pageRequests := rfl
@[simp] theorem popInput_nextPrg (s : State) (rest : List Input) : (popInput s rest).nextPrg = s.nextPrg := rfl
@[simp] theorem popInput_detached (s : State) (rest : List Input) : (popInput s rest).detached = s.detached := rfl
@[simp] theorem popInput_lastQueued (s : State) (rest : List Input) : (popInput s rest).lastQueued = s.lastQueued := rfl
@[simp] theorem popInput_flrPending (s : State) (rest : List Input) : (popInput s rest).flrPending = s.flrPending := rfl
@[simp] theorem popInput_notifications (s : State) (rest : List Input) : (popInput s rest).notifications = s.notifications := rfl
@[simp] theorem popInput_hdc (s : State) (rest : List Input) : (popInput s rest).hdc = s.hdc := rfl
@[simp] theorem popInput_palette (s : State) (rest : List Input) : (popInput s rest).palette = s.palette := rfl
@[simp] theorem popInput_walk (s : State) (rest : List Input) : (popInput s rest).walk = s.walk := rfl
@[simp] theorem popInput_trWalk (s : State) (rest : List Input) : (popInput s rest).trWalk = s.trWalk := rfl
@[simp] theorem popInput_indices (s : State) (rest : List Input) : (popInput s rest).indices = s.indices := rfl
@[simp] theorem popInput_ggttOffset (s : State) (rest : List Input) : (popInput s rest).ggttOffset = s.ggttOffset := rfl
@[simp] theorem popInput_atomicReturn (s : State) (rest : List Input) : (popInput s rest).atomicReturn = s.atomicReturn := rfl
@[simp] theorem popInput_completion (s : State) (rest : List Input) : (popInput s rest).completion = s.completion := rfl
@[simp] theorem popInput_memType (s : State) (rest : List Input) : (popInput s rest).memType = s.memType := rfl
@[simp] theorem popInput_cache (s : State) (rest : List Input) : (popInput s rest).cache = s.cache := rfl
@[simp] theorem popInput_tile (s : State) (rest : List Input) : (popInput s rest).tile = s.tile := rfl
@[simp] theorem popInput_lodOrigin (s : State) (rest : List Input) : (popInput s rest).lodOrigin = s.lodOrigin := rfl
@[simp] theorem popInput_planar (s : State) (rest : List Input) : (popInput s rest).planar = s.planar := rfl
@[simp] theorem popInput_pixel (s : State) (rest : List Input) : (popInput s rest).pixel = s.pixel := rfl
@[simp] theorem popInput_texels (s : State) (rest : List Input) : (popInput s rest).texels = s.texels := rfl
@[simp] theorem popInput_texel (s : State) (rest : List Input) : (popInput s rest).texel = s.texel := rfl
@[simp] theorem popInput_astcFormat (s : State) (rest : List Input) : (popInput s rest).astcFormat = s.astcFormat := rfl
@[simp] theorem popInput_draws (s : State) (rest : List Input) : (popInput s rest).draws = s.draws := rfl

/-! ### pushInput -/

@[simp] theorem pushInput_params (s : State) (i : Input) : (pushInput s i).params = s.params := rfl
@[simp] theorem pushInput_mem (s : State) (i : Input) : (pushInput s i).mem = s.mem := rfl
@[simp] theorem pushInput_history (s : State) (i : Input) : (pushInput s i).history = s.history := rfl
@[simp] theorem pushInput_texMark (s : State) (i : Input) : (pushInput s i).texMark = s.texMark := rfl
@[simp] theorem pushInput_icMark (s : State) (i : Input) : (pushInput s i).icMark = s.icMark := rfl
@[simp] theorem pushInput_gpuMark (s : State) (i : Input) : (pushInput s i).gpuMark = s.gpuMark := rfl
@[simp] theorem pushInput_waitMark (s : State) (i : Input) : (pushInput s i).waitMark = s.waitMark := rfl
@[simp] theorem pushInput_cpuMark (s : State) (i : Input) : (pushInput s i).cpuMark = s.cpuMark := rfl
@[simp] theorem pushInput_llcMark (s : State) (i : Input) : (pushInput s i).llcMark = s.llcMark := rfl
@[simp] theorem pushInput_engines (s : State) (i : Input) : (pushInput s i).engines = s.engines := rfl
@[simp] theorem pushInput_regs (s : State) (i : Input) : (pushInput s i).regs = s.regs := rfl
@[simp] theorem pushInput_priorRegs (s : State) (i : Input) : (pushInput s i).priorRegs = s.priorRegs := rfl
@[simp] theorem pushInput_pci (s : State) (i : Input) : (pushInput s i).pci = s.pci := rfl
@[simp] theorem pushInput_iommu (s : State) (i : Input) : (pushInput s i).iommu = s.iommu := rfl
@[simp] theorem pushInput_contextCache (s : State) (i : Input) : (pushInput s i).contextCache = s.contextCache := rfl
@[simp] theorem pushInput_pasidCounts (s : State) (i : Input) : (pushInput s i).pasidCounts = s.pasidCounts := rfl
@[simp] theorem pushInput_memRanges (s : State) (i : Input) : (pushInput s i).memRanges = s.memRanges := rfl
@[simp] theorem pushInput_pageRequests (s : State) (i : Input) : (pushInput s i).pageRequests = s.pageRequests := rfl
@[simp] theorem pushInput_nextPrg (s : State) (i : Input) : (pushInput s i).nextPrg = s.nextPrg := rfl
@[simp] theorem pushInput_detached (s : State) (i : Input) : (pushInput s i).detached = s.detached := rfl
@[simp] theorem pushInput_lastQueued (s : State) (i : Input) : (pushInput s i).lastQueued = s.lastQueued := rfl
@[simp] theorem pushInput_flrPending (s : State) (i : Input) : (pushInput s i).flrPending = s.flrPending := rfl
@[simp] theorem pushInput_notifications (s : State) (i : Input) : (pushInput s i).notifications = s.notifications := rfl
@[simp] theorem pushInput_hdc (s : State) (i : Input) : (pushInput s i).hdc = s.hdc := rfl
@[simp] theorem pushInput_palette (s : State) (i : Input) : (pushInput s i).palette = s.palette := rfl
@[simp] theorem pushInput_walk (s : State) (i : Input) : (pushInput s i).walk = s.walk := rfl
@[simp] theorem pushInput_trWalk (s : State) (i : Input) : (pushInput s i).trWalk = s.trWalk := rfl
@[simp] theorem pushInput_indices (s : State) (i : Input) : (pushInput s i).indices = s.indices := rfl
@[simp] theorem pushInput_ggttOffset (s : State) (i : Input) : (pushInput s i).ggttOffset = s.ggttOffset := rfl
@[simp] theorem pushInput_atomicReturn (s : State) (i : Input) : (pushInput s i).atomicReturn = s.atomicReturn := rfl
@[simp] theorem pushInput_completion (s : State) (i : Input) : (pushInput s i).completion = s.completion := rfl
@[simp] theorem pushInput_memType (s : State) (i : Input) : (pushInput s i).memType = s.memType := rfl
@[simp] theorem pushInput_cache (s : State) (i : Input) : (pushInput s i).cache = s.cache := rfl
@[simp] theorem pushInput_tile (s : State) (i : Input) : (pushInput s i).tile = s.tile := rfl
@[simp] theorem pushInput_lodOrigin (s : State) (i : Input) : (pushInput s i).lodOrigin = s.lodOrigin := rfl
@[simp] theorem pushInput_planar (s : State) (i : Input) : (pushInput s i).planar = s.planar := rfl
@[simp] theorem pushInput_pixel (s : State) (i : Input) : (pushInput s i).pixel = s.pixel := rfl
@[simp] theorem pushInput_texels (s : State) (i : Input) : (pushInput s i).texels = s.texels := rfl
@[simp] theorem pushInput_texel (s : State) (i : Input) : (pushInput s i).texel = s.texel := rfl
@[simp] theorem pushInput_astcFormat (s : State) (i : Input) : (pushInput s i).astcFormat = s.astcFormat := rfl
@[simp] theorem pushInput_draws (s : State) (i : Input) : (pushInput s i).draws = s.draws := rfl

/-! ### invalidateTexture -/

@[simp] theorem invalidateTexture_params (s : State) : (invalidateTexture s).params = s.params := rfl
@[simp] theorem invalidateTexture_mem (s : State) : (invalidateTexture s).mem = s.mem := rfl
@[simp] theorem invalidateTexture_history (s : State) : (invalidateTexture s).history = s.history := rfl
@[simp] theorem invalidateTexture_icMark (s : State) : (invalidateTexture s).icMark = s.icMark := rfl
@[simp] theorem invalidateTexture_gpuMark (s : State) : (invalidateTexture s).gpuMark = s.gpuMark := rfl
@[simp] theorem invalidateTexture_waitMark (s : State) : (invalidateTexture s).waitMark = s.waitMark := rfl
@[simp] theorem invalidateTexture_cpuMark (s : State) : (invalidateTexture s).cpuMark = s.cpuMark := rfl
@[simp] theorem invalidateTexture_llcMark (s : State) : (invalidateTexture s).llcMark = s.llcMark := rfl
@[simp] theorem invalidateTexture_engines (s : State) : (invalidateTexture s).engines = s.engines := rfl
@[simp] theorem invalidateTexture_regs (s : State) : (invalidateTexture s).regs = s.regs := rfl
@[simp] theorem invalidateTexture_priorRegs (s : State) : (invalidateTexture s).priorRegs = s.priorRegs := rfl
@[simp] theorem invalidateTexture_pci (s : State) : (invalidateTexture s).pci = s.pci := rfl
@[simp] theorem invalidateTexture_iommu (s : State) : (invalidateTexture s).iommu = s.iommu := rfl
@[simp] theorem invalidateTexture_contextCache (s : State) : (invalidateTexture s).contextCache = s.contextCache := rfl
@[simp] theorem invalidateTexture_pasidCounts (s : State) : (invalidateTexture s).pasidCounts = s.pasidCounts := rfl
@[simp] theorem invalidateTexture_memRanges (s : State) : (invalidateTexture s).memRanges = s.memRanges := rfl
@[simp] theorem invalidateTexture_pageRequests (s : State) : (invalidateTexture s).pageRequests = s.pageRequests := rfl
@[simp] theorem invalidateTexture_nextPrg (s : State) : (invalidateTexture s).nextPrg = s.nextPrg := rfl
@[simp] theorem invalidateTexture_detached (s : State) : (invalidateTexture s).detached = s.detached := rfl
@[simp] theorem invalidateTexture_lastQueued (s : State) : (invalidateTexture s).lastQueued = s.lastQueued := rfl
@[simp] theorem invalidateTexture_flrPending (s : State) : (invalidateTexture s).flrPending = s.flrPending := rfl
@[simp] theorem invalidateTexture_notifications (s : State) : (invalidateTexture s).notifications = s.notifications := rfl
@[simp] theorem invalidateTexture_hdc (s : State) : (invalidateTexture s).hdc = s.hdc := rfl
@[simp] theorem invalidateTexture_palette (s : State) : (invalidateTexture s).palette = s.palette := rfl
@[simp] theorem invalidateTexture_walk (s : State) : (invalidateTexture s).walk = s.walk := rfl
@[simp] theorem invalidateTexture_trWalk (s : State) : (invalidateTexture s).trWalk = s.trWalk := rfl
@[simp] theorem invalidateTexture_indices (s : State) : (invalidateTexture s).indices = s.indices := rfl
@[simp] theorem invalidateTexture_ggttOffset (s : State) : (invalidateTexture s).ggttOffset = s.ggttOffset := rfl
@[simp] theorem invalidateTexture_atomicReturn (s : State) : (invalidateTexture s).atomicReturn = s.atomicReturn := rfl
@[simp] theorem invalidateTexture_completion (s : State) : (invalidateTexture s).completion = s.completion := rfl
@[simp] theorem invalidateTexture_memType (s : State) : (invalidateTexture s).memType = s.memType := rfl
@[simp] theorem invalidateTexture_cache (s : State) : (invalidateTexture s).cache = s.cache := rfl
@[simp] theorem invalidateTexture_tile (s : State) : (invalidateTexture s).tile = s.tile := rfl
@[simp] theorem invalidateTexture_lodOrigin (s : State) : (invalidateTexture s).lodOrigin = s.lodOrigin := rfl
@[simp] theorem invalidateTexture_planar (s : State) : (invalidateTexture s).planar = s.planar := rfl
@[simp] theorem invalidateTexture_pixel (s : State) : (invalidateTexture s).pixel = s.pixel := rfl
@[simp] theorem invalidateTexture_texels (s : State) : (invalidateTexture s).texels = s.texels := rfl
@[simp] theorem invalidateTexture_texel (s : State) : (invalidateTexture s).texel = s.texel := rfl
@[simp] theorem invalidateTexture_astcFormat (s : State) : (invalidateTexture s).astcFormat = s.astcFormat := rfl
@[simp] theorem invalidateTexture_draws (s : State) : (invalidateTexture s).draws = s.draws := rfl
@[simp] theorem invalidateTexture_inputs (s : State) : (invalidateTexture s).inputs = s.inputs := rfl

/-! ### invalidateInstruction -/

@[simp] theorem invalidateInstruction_params (s : State) : (invalidateInstruction s).params = s.params := rfl
@[simp] theorem invalidateInstruction_mem (s : State) : (invalidateInstruction s).mem = s.mem := rfl
@[simp] theorem invalidateInstruction_history (s : State) : (invalidateInstruction s).history = s.history := rfl
@[simp] theorem invalidateInstruction_texMark (s : State) : (invalidateInstruction s).texMark = s.texMark := rfl
@[simp] theorem invalidateInstruction_gpuMark (s : State) : (invalidateInstruction s).gpuMark = s.gpuMark := rfl
@[simp] theorem invalidateInstruction_waitMark (s : State) : (invalidateInstruction s).waitMark = s.waitMark := rfl
@[simp] theorem invalidateInstruction_cpuMark (s : State) : (invalidateInstruction s).cpuMark = s.cpuMark := rfl
@[simp] theorem invalidateInstruction_llcMark (s : State) : (invalidateInstruction s).llcMark = s.llcMark := rfl
@[simp] theorem invalidateInstruction_engines (s : State) : (invalidateInstruction s).engines = s.engines := rfl
@[simp] theorem invalidateInstruction_regs (s : State) : (invalidateInstruction s).regs = s.regs := rfl
@[simp] theorem invalidateInstruction_priorRegs (s : State) : (invalidateInstruction s).priorRegs = s.priorRegs := rfl
@[simp] theorem invalidateInstruction_pci (s : State) : (invalidateInstruction s).pci = s.pci := rfl
@[simp] theorem invalidateInstruction_iommu (s : State) : (invalidateInstruction s).iommu = s.iommu := rfl
@[simp] theorem invalidateInstruction_contextCache (s : State) : (invalidateInstruction s).contextCache = s.contextCache := rfl
@[simp] theorem invalidateInstruction_pasidCounts (s : State) : (invalidateInstruction s).pasidCounts = s.pasidCounts := rfl
@[simp] theorem invalidateInstruction_memRanges (s : State) : (invalidateInstruction s).memRanges = s.memRanges := rfl
@[simp] theorem invalidateInstruction_pageRequests (s : State) : (invalidateInstruction s).pageRequests = s.pageRequests := rfl
@[simp] theorem invalidateInstruction_nextPrg (s : State) : (invalidateInstruction s).nextPrg = s.nextPrg := rfl
@[simp] theorem invalidateInstruction_detached (s : State) : (invalidateInstruction s).detached = s.detached := rfl
@[simp] theorem invalidateInstruction_lastQueued (s : State) : (invalidateInstruction s).lastQueued = s.lastQueued := rfl
@[simp] theorem invalidateInstruction_flrPending (s : State) : (invalidateInstruction s).flrPending = s.flrPending := rfl
@[simp] theorem invalidateInstruction_notifications (s : State) : (invalidateInstruction s).notifications = s.notifications := rfl
@[simp] theorem invalidateInstruction_hdc (s : State) : (invalidateInstruction s).hdc = s.hdc := rfl
@[simp] theorem invalidateInstruction_palette (s : State) : (invalidateInstruction s).palette = s.palette := rfl
@[simp] theorem invalidateInstruction_walk (s : State) : (invalidateInstruction s).walk = s.walk := rfl
@[simp] theorem invalidateInstruction_trWalk (s : State) : (invalidateInstruction s).trWalk = s.trWalk := rfl
@[simp] theorem invalidateInstruction_indices (s : State) : (invalidateInstruction s).indices = s.indices := rfl
@[simp] theorem invalidateInstruction_ggttOffset (s : State) : (invalidateInstruction s).ggttOffset = s.ggttOffset := rfl
@[simp] theorem invalidateInstruction_atomicReturn (s : State) : (invalidateInstruction s).atomicReturn = s.atomicReturn := rfl
@[simp] theorem invalidateInstruction_completion (s : State) : (invalidateInstruction s).completion = s.completion := rfl
@[simp] theorem invalidateInstruction_memType (s : State) : (invalidateInstruction s).memType = s.memType := rfl
@[simp] theorem invalidateInstruction_cache (s : State) : (invalidateInstruction s).cache = s.cache := rfl
@[simp] theorem invalidateInstruction_tile (s : State) : (invalidateInstruction s).tile = s.tile := rfl
@[simp] theorem invalidateInstruction_lodOrigin (s : State) : (invalidateInstruction s).lodOrigin = s.lodOrigin := rfl
@[simp] theorem invalidateInstruction_planar (s : State) : (invalidateInstruction s).planar = s.planar := rfl
@[simp] theorem invalidateInstruction_pixel (s : State) : (invalidateInstruction s).pixel = s.pixel := rfl
@[simp] theorem invalidateInstruction_texels (s : State) : (invalidateInstruction s).texels = s.texels := rfl
@[simp] theorem invalidateInstruction_texel (s : State) : (invalidateInstruction s).texel = s.texel := rfl
@[simp] theorem invalidateInstruction_astcFormat (s : State) : (invalidateInstruction s).astcFormat = s.astcFormat := rfl
@[simp] theorem invalidateInstruction_draws (s : State) : (invalidateInstruction s).draws = s.draws := rfl
@[simp] theorem invalidateInstruction_inputs (s : State) : (invalidateInstruction s).inputs = s.inputs := rfl

/-! ### noEffect -/

@[simp] theorem noEffect_params (s : State) : (noEffect s).params = s.params := rfl
@[simp] theorem noEffect_mem (s : State) : (noEffect s).mem = s.mem := rfl
@[simp] theorem noEffect_history (s : State) : (noEffect s).history = s.history := rfl
@[simp] theorem noEffect_texMark (s : State) : (noEffect s).texMark = s.texMark := rfl
@[simp] theorem noEffect_icMark (s : State) : (noEffect s).icMark = s.icMark := rfl
@[simp] theorem noEffect_gpuMark (s : State) : (noEffect s).gpuMark = s.gpuMark := rfl
@[simp] theorem noEffect_waitMark (s : State) : (noEffect s).waitMark = s.waitMark := rfl
@[simp] theorem noEffect_cpuMark (s : State) : (noEffect s).cpuMark = s.cpuMark := rfl
@[simp] theorem noEffect_llcMark (s : State) : (noEffect s).llcMark = s.llcMark := rfl
@[simp] theorem noEffect_engines (s : State) : (noEffect s).engines = s.engines := rfl
@[simp] theorem noEffect_regs (s : State) : (noEffect s).regs = s.regs := rfl
@[simp] theorem noEffect_priorRegs (s : State) : (noEffect s).priorRegs = s.priorRegs := rfl
@[simp] theorem noEffect_pci (s : State) : (noEffect s).pci = s.pci := rfl
@[simp] theorem noEffect_iommu (s : State) : (noEffect s).iommu = s.iommu := rfl
@[simp] theorem noEffect_contextCache (s : State) : (noEffect s).contextCache = s.contextCache := rfl
@[simp] theorem noEffect_pasidCounts (s : State) : (noEffect s).pasidCounts = s.pasidCounts := rfl
@[simp] theorem noEffect_memRanges (s : State) : (noEffect s).memRanges = s.memRanges := rfl
@[simp] theorem noEffect_pageRequests (s : State) : (noEffect s).pageRequests = s.pageRequests := rfl
@[simp] theorem noEffect_nextPrg (s : State) : (noEffect s).nextPrg = s.nextPrg := rfl
@[simp] theorem noEffect_detached (s : State) : (noEffect s).detached = s.detached := rfl
@[simp] theorem noEffect_lastQueued (s : State) : (noEffect s).lastQueued = s.lastQueued := rfl
@[simp] theorem noEffect_flrPending (s : State) : (noEffect s).flrPending = s.flrPending := rfl
@[simp] theorem noEffect_notifications (s : State) : (noEffect s).notifications = s.notifications := rfl
@[simp] theorem noEffect_hdc (s : State) : (noEffect s).hdc = s.hdc := rfl
@[simp] theorem noEffect_palette (s : State) : (noEffect s).palette = s.palette := rfl
@[simp] theorem noEffect_walk (s : State) : (noEffect s).walk = s.walk := rfl
@[simp] theorem noEffect_trWalk (s : State) : (noEffect s).trWalk = s.trWalk := rfl
@[simp] theorem noEffect_indices (s : State) : (noEffect s).indices = s.indices := rfl
@[simp] theorem noEffect_ggttOffset (s : State) : (noEffect s).ggttOffset = s.ggttOffset := rfl
@[simp] theorem noEffect_atomicReturn (s : State) : (noEffect s).atomicReturn = s.atomicReturn := rfl
@[simp] theorem noEffect_memType (s : State) : (noEffect s).memType = s.memType := rfl
@[simp] theorem noEffect_cache (s : State) : (noEffect s).cache = s.cache := rfl
@[simp] theorem noEffect_tile (s : State) : (noEffect s).tile = s.tile := rfl
@[simp] theorem noEffect_lodOrigin (s : State) : (noEffect s).lodOrigin = s.lodOrigin := rfl
@[simp] theorem noEffect_planar (s : State) : (noEffect s).planar = s.planar := rfl
@[simp] theorem noEffect_pixel (s : State) : (noEffect s).pixel = s.pixel := rfl
@[simp] theorem noEffect_texels (s : State) : (noEffect s).texels = s.texels := rfl
@[simp] theorem noEffect_texel (s : State) : (noEffect s).texel = s.texel := rfl
@[simp] theorem noEffect_astcFormat (s : State) : (noEffect s).astcFormat = s.astcFormat := rfl
@[simp] theorem noEffect_draws (s : State) : (noEffect s).draws = s.draws := rfl
@[simp] theorem noEffect_inputs (s : State) : (noEffect s).inputs = s.inputs := rfl

/-! ### readWord -/

@[simp] theorem readWord_params (s : State) (w : Word) : (readWord s w).params = s.params := rfl
@[simp] theorem readWord_mem (s : State) (w : Word) : (readWord s w).mem = s.mem := rfl
@[simp] theorem readWord_history (s : State) (w : Word) : (readWord s w).history = s.history := rfl
@[simp] theorem readWord_texMark (s : State) (w : Word) : (readWord s w).texMark = s.texMark := rfl
@[simp] theorem readWord_icMark (s : State) (w : Word) : (readWord s w).icMark = s.icMark := rfl
@[simp] theorem readWord_gpuMark (s : State) (w : Word) : (readWord s w).gpuMark = s.gpuMark := rfl
@[simp] theorem readWord_waitMark (s : State) (w : Word) : (readWord s w).waitMark = s.waitMark := rfl
@[simp] theorem readWord_cpuMark (s : State) (w : Word) : (readWord s w).cpuMark = s.cpuMark := rfl
@[simp] theorem readWord_llcMark (s : State) (w : Word) : (readWord s w).llcMark = s.llcMark := rfl
@[simp] theorem readWord_engines (s : State) (w : Word) : (readWord s w).engines = s.engines := rfl
@[simp] theorem readWord_regs (s : State) (w : Word) : (readWord s w).regs = s.regs := rfl
@[simp] theorem readWord_priorRegs (s : State) (w : Word) : (readWord s w).priorRegs = s.priorRegs := rfl
@[simp] theorem readWord_pci (s : State) (w : Word) : (readWord s w).pci = s.pci := rfl
@[simp] theorem readWord_iommu (s : State) (w : Word) : (readWord s w).iommu = s.iommu := rfl
@[simp] theorem readWord_contextCache (s : State) (w : Word) : (readWord s w).contextCache = s.contextCache := rfl
@[simp] theorem readWord_pasidCounts (s : State) (w : Word) : (readWord s w).pasidCounts = s.pasidCounts := rfl
@[simp] theorem readWord_memRanges (s : State) (w : Word) : (readWord s w).memRanges = s.memRanges := rfl
@[simp] theorem readWord_pageRequests (s : State) (w : Word) : (readWord s w).pageRequests = s.pageRequests := rfl
@[simp] theorem readWord_nextPrg (s : State) (w : Word) : (readWord s w).nextPrg = s.nextPrg := rfl
@[simp] theorem readWord_detached (s : State) (w : Word) : (readWord s w).detached = s.detached := rfl
@[simp] theorem readWord_lastQueued (s : State) (w : Word) : (readWord s w).lastQueued = s.lastQueued := rfl
@[simp] theorem readWord_flrPending (s : State) (w : Word) : (readWord s w).flrPending = s.flrPending := rfl
@[simp] theorem readWord_notifications (s : State) (w : Word) : (readWord s w).notifications = s.notifications := rfl
@[simp] theorem readWord_hdc (s : State) (w : Word) : (readWord s w).hdc = s.hdc := rfl
@[simp] theorem readWord_palette (s : State) (w : Word) : (readWord s w).palette = s.palette := rfl
@[simp] theorem readWord_walk (s : State) (w : Word) : (readWord s w).walk = s.walk := rfl
@[simp] theorem readWord_trWalk (s : State) (w : Word) : (readWord s w).trWalk = s.trWalk := rfl
@[simp] theorem readWord_indices (s : State) (w : Word) : (readWord s w).indices = s.indices := rfl
@[simp] theorem readWord_ggttOffset (s : State) (w : Word) : (readWord s w).ggttOffset = s.ggttOffset := rfl
@[simp] theorem readWord_atomicReturn (s : State) (w : Word) : (readWord s w).atomicReturn = s.atomicReturn := rfl
@[simp] theorem readWord_memType (s : State) (w : Word) : (readWord s w).memType = s.memType := rfl
@[simp] theorem readWord_cache (s : State) (w : Word) : (readWord s w).cache = s.cache := rfl
@[simp] theorem readWord_tile (s : State) (w : Word) : (readWord s w).tile = s.tile := rfl
@[simp] theorem readWord_lodOrigin (s : State) (w : Word) : (readWord s w).lodOrigin = s.lodOrigin := rfl
@[simp] theorem readWord_planar (s : State) (w : Word) : (readWord s w).planar = s.planar := rfl
@[simp] theorem readWord_pixel (s : State) (w : Word) : (readWord s w).pixel = s.pixel := rfl
@[simp] theorem readWord_texels (s : State) (w : Word) : (readWord s w).texels = s.texels := rfl
@[simp] theorem readWord_texel (s : State) (w : Word) : (readWord s w).texel = s.texel := rfl
@[simp] theorem readWord_astcFormat (s : State) (w : Word) : (readWord s w).astcFormat = s.astcFormat := rfl
@[simp] theorem readWord_draws (s : State) (w : Word) : (readWord s w).draws = s.draws := rfl
@[simp] theorem readWord_inputs (s : State) (w : Word) : (readWord s w).inputs = s.inputs := rfl

/-! ### changeRegs -/

@[simp] theorem changeRegs_params (g : Regs) (s : State) : (changeRegs g s).params = s.params := by
  unfold changeRegs; split <;> rfl
@[simp] theorem changeRegs_mem (g : Regs) (s : State) : (changeRegs g s).mem = s.mem := by
  unfold changeRegs; split <;> rfl
@[simp] theorem changeRegs_history (g : Regs) (s : State) : (changeRegs g s).history = s.history := by
  unfold changeRegs; split <;> rfl
@[simp] theorem changeRegs_texMark (g : Regs) (s : State) : (changeRegs g s).texMark = s.texMark := by
  unfold changeRegs; split <;> rfl
@[simp] theorem changeRegs_icMark (g : Regs) (s : State) : (changeRegs g s).icMark = s.icMark := by
  unfold changeRegs; split <;> rfl
@[simp] theorem changeRegs_gpuMark (g : Regs) (s : State) : (changeRegs g s).gpuMark = s.gpuMark := by
  unfold changeRegs; split <;> rfl
@[simp] theorem changeRegs_waitMark (g : Regs) (s : State) : (changeRegs g s).waitMark = s.waitMark := by
  unfold changeRegs; split <;> rfl
@[simp] theorem changeRegs_cpuMark (g : Regs) (s : State) : (changeRegs g s).cpuMark = s.cpuMark := by
  unfold changeRegs; split <;> rfl
@[simp] theorem changeRegs_llcMark (g : Regs) (s : State) : (changeRegs g s).llcMark = s.llcMark := by
  unfold changeRegs; split <;> rfl
@[simp] theorem changeRegs_engines (g : Regs) (s : State) : (changeRegs g s).engines = s.engines := by
  unfold changeRegs; split <;> rfl
@[simp] theorem changeRegs_pci (g : Regs) (s : State) : (changeRegs g s).pci = s.pci := by
  unfold changeRegs; split <;> rfl
@[simp] theorem changeRegs_iommu (g : Regs) (s : State) : (changeRegs g s).iommu = s.iommu := by
  unfold changeRegs; split <;> rfl
@[simp] theorem changeRegs_contextCache (g : Regs) (s : State) : (changeRegs g s).contextCache = s.contextCache := by
  unfold changeRegs; split <;> rfl
@[simp] theorem changeRegs_pasidCounts (g : Regs) (s : State) : (changeRegs g s).pasidCounts = s.pasidCounts := by
  unfold changeRegs; split <;> rfl
@[simp] theorem changeRegs_memRanges (g : Regs) (s : State) : (changeRegs g s).memRanges = s.memRanges := by
  unfold changeRegs; split <;> rfl
@[simp] theorem changeRegs_pageRequests (g : Regs) (s : State) : (changeRegs g s).pageRequests = s.pageRequests := by
  unfold changeRegs; split <;> rfl
@[simp] theorem changeRegs_nextPrg (g : Regs) (s : State) : (changeRegs g s).nextPrg = s.nextPrg := by
  unfold changeRegs; split <;> rfl
@[simp] theorem changeRegs_detached (g : Regs) (s : State) : (changeRegs g s).detached = s.detached := by
  unfold changeRegs; split <;> rfl
@[simp] theorem changeRegs_lastQueued (g : Regs) (s : State) : (changeRegs g s).lastQueued = s.lastQueued := by
  unfold changeRegs; split <;> rfl
@[simp] theorem changeRegs_flrPending (g : Regs) (s : State) : (changeRegs g s).flrPending = s.flrPending := by
  unfold changeRegs; split <;> rfl
@[simp] theorem changeRegs_notifications (g : Regs) (s : State) : (changeRegs g s).notifications = s.notifications := by
  unfold changeRegs; split <;> rfl
@[simp] theorem changeRegs_hdc (g : Regs) (s : State) : (changeRegs g s).hdc = s.hdc := by
  unfold changeRegs; split <;> rfl
@[simp] theorem changeRegs_palette (g : Regs) (s : State) : (changeRegs g s).palette = s.palette := by
  unfold changeRegs; split <;> rfl
@[simp] theorem changeRegs_walk (g : Regs) (s : State) : (changeRegs g s).walk = s.walk := by
  unfold changeRegs; split <;> rfl
@[simp] theorem changeRegs_trWalk (g : Regs) (s : State) : (changeRegs g s).trWalk = s.trWalk := by
  unfold changeRegs; split <;> rfl
@[simp] theorem changeRegs_indices (g : Regs) (s : State) : (changeRegs g s).indices = s.indices := by
  unfold changeRegs; split <;> rfl
@[simp] theorem changeRegs_ggttOffset (g : Regs) (s : State) : (changeRegs g s).ggttOffset = s.ggttOffset := by
  unfold changeRegs; split <;> rfl
@[simp] theorem changeRegs_atomicReturn (g : Regs) (s : State) : (changeRegs g s).atomicReturn = s.atomicReturn := by
  unfold changeRegs; split <;> rfl
@[simp] theorem changeRegs_completion (g : Regs) (s : State) : (changeRegs g s).completion = s.completion := by
  unfold changeRegs; split <;> rfl
@[simp] theorem changeRegs_memType (g : Regs) (s : State) : (changeRegs g s).memType = s.memType := by
  unfold changeRegs; split <;> rfl
@[simp] theorem changeRegs_cache (g : Regs) (s : State) : (changeRegs g s).cache = s.cache := by
  unfold changeRegs; split <;> rfl
@[simp] theorem changeRegs_tile (g : Regs) (s : State) : (changeRegs g s).tile = s.tile := by
  unfold changeRegs; split <;> rfl
@[simp] theorem changeRegs_lodOrigin (g : Regs) (s : State) : (changeRegs g s).lodOrigin = s.lodOrigin := by
  unfold changeRegs; split <;> rfl
@[simp] theorem changeRegs_planar (g : Regs) (s : State) : (changeRegs g s).planar = s.planar := by
  unfold changeRegs; split <;> rfl
@[simp] theorem changeRegs_pixel (g : Regs) (s : State) : (changeRegs g s).pixel = s.pixel := by
  unfold changeRegs; split <;> rfl
@[simp] theorem changeRegs_texels (g : Regs) (s : State) : (changeRegs g s).texels = s.texels := by
  unfold changeRegs; split <;> rfl
@[simp] theorem changeRegs_texel (g : Regs) (s : State) : (changeRegs g s).texel = s.texel := by
  unfold changeRegs; split <;> rfl
@[simp] theorem changeRegs_astcFormat (g : Regs) (s : State) : (changeRegs g s).astcFormat = s.astcFormat := by
  unfold changeRegs; split <;> rfl
@[simp] theorem changeRegs_draws (g : Regs) (s : State) : (changeRegs g s).draws = s.draws := by
  unfold changeRegs; split <;> rfl
@[simp] theorem changeRegs_inputs (g : Regs) (s : State) : (changeRegs g s).inputs = s.inputs := by
  unfold changeRegs; split <;> rfl

/-! ### Updated fields -/

@[simp] theorem advanceDraws_draws (s : State) (n : Nat) : (advanceDraws s n).draws = s.draws + n := rfl
@[simp] theorem changeRegs_regs (g : Regs) (s : State) : (changeRegs g s).regs = g := by
  unfold changeRegs; split <;> rfl
@[simp] theorem complete_completion (s : State) (c : Completion) : (complete s c).completion = c := rfl
@[simp] theorem store_mem (s : State) (pa n : Nat) (v : QWord) (b : Writer) :
    (store s pa n v b).mem = memWriteLe s.mem pa n v := rfl
@[simp] theorem stall_completion (s : State) (r : Request) (st : Status) :
    (stall s r st).completion = ⟨st, 0, false, 0, 0, .wb, 0⟩ := rfl
@[simp] theorem keepBehind_completion (s : State) (r : Request) :
    (keepBehind s r).completion = ⟨.waiting, 0, false, 0, 0, .wb, 0⟩ := rfl
@[simp] theorem popInput_inputs (s : State) (rest : List Input) : (popInput s rest).inputs = rest := rfl
@[simp] theorem pushInput_inputs (s : State) (i : Input) : (pushInput s i).inputs = i :: s.inputs := rfl
@[simp] theorem setRf_priStatus (s : State) : (setRf s).pci.priStatus = s.pci.priStatus ||| 1 := rfl
@[simp] theorem setUprgi_priStatus (s : State) : (setUprgi s).pci.priStatus = s.pci.priStatus ||| 2 := rfl

@[simp] theorem waitHalted_completion (s : State) (w : Waiting) : (waitHalted s w).completion = ⟨.waiting, 0, false, 0, 0, .wb, 0⟩ := rfl

/-! ### The engine read after an update -/

/-- Reading an engine looks at the field `engines` alone. -/
theorem engineOf_congr {s t : State} (h : t.engines = s.engines) (e : Engine) : engineOf t e = engineOf s e := by
  cases e <;> simp [engineOf, h]

@[simp] theorem engineOf_advanceDraws (s : State) (n : Nat) (e : Engine) : engineOf (advanceDraws s n) e = engineOf s e :=
  engineOf_congr rfl e
@[simp] theorem engineOf_complete (s : State) (c : Completion) (e : Engine) : engineOf (complete s c) e = engineOf s e :=
  engineOf_congr rfl e
@[simp] theorem engineOf_store (s : State) (pa n : Nat) (v : QWord) (b : Writer) (e : Engine) :
    engineOf (store s pa n v b) e = engineOf s e := engineOf_congr rfl e
@[simp] theorem engineOf_queuePageRequest (s : State) (f : PageFault) (e : Engine) :
    engineOf (queuePageRequest s f) e = engineOf s e := engineOf_congr rfl e
@[simp] theorem engineOf_dropPageRequest (s : State) (p : Nat) (e : Engine) :
    engineOf (dropPageRequest s p) e = engineOf s e := engineOf_congr rfl e
@[simp] theorem engineOf_setRf (s : State) (e : Engine) : engineOf (setRf s) e = engineOf s e := engineOf_congr rfl e
@[simp] theorem engineOf_setUprgi (s : State) (e : Engine) : engineOf (setUprgi s) e = engineOf s e := engineOf_congr rfl e
@[simp] theorem engineOf_countPasid (s : State) (p : BitVec 20) (d : Int) (e : Engine) :
    engineOf (countPasid s p d) e = engineOf s e := engineOf_congr rfl e
@[simp] theorem engineOf_popInput (s : State) (rest : List Input) (e : Engine) :
    engineOf (popInput s rest) e = engineOf s e := engineOf_congr rfl e
@[simp] theorem engineOf_noEffect (s : State) (e : Engine) : engineOf (noEffect s) e = engineOf s e := engineOf_congr rfl e
@[simp] theorem engineOf_notifyScheduler (s : State) (c : Word) (e : Engine) :
    engineOf (notifyScheduler s c) e = engineOf s e := engineOf_congr rfl e
@[simp] theorem engineOf_readWord (s : State) (w : Word) (e : Engine) : engineOf (readWord s w) e = engineOf s e :=
  engineOf_congr rfl e

@[simp] theorem engineOf_setEngine_same (s : State) (e : Engine) (x : EngineSt) : engineOf (setEngine s e x) e = x := by
  cases e <;> rfl

theorem engineOf_setEngine_other (s : State) {e e' : Engine} (x : EngineSt) (h : e' ≠ e) :
    engineOf (setEngine s e x) e' = engineOf s e' := by
  cases e <;> cases e' <;> first | rfl | exact absurd rfl h

/-- What any engine holds after one was replaced. -/
theorem engineOf_setEngine (s : State) (e e' : Engine) (x : EngineSt) :
    engineOf (setEngine s e x) e' = if e' = e then x else engineOf s e' := by
  by_cases h : e' = e
  · subst h; simp
  · simp [h, engineOf_setEngine_other]

@[simp] theorem engineOf_updEngine_same (s : State) (e : Engine) (f : EngineSt → EngineSt) :
    engineOf (updEngine s e f) e = f (engineOf s e) := engineOf_setEngine_same s e _

theorem engineOf_updEngine_other (s : State) {e e' : Engine} (f : EngineSt → EngineSt) (h : e' ≠ e) :
    engineOf (updEngine s e f) e' = engineOf s e' := engineOf_setEngine_other s _ h

/-- What any engine holds after one was changed. -/
theorem engineOf_updEngine (s : State) (e e' : Engine) (f : EngineSt → EngineSt) :
    engineOf (updEngine s e f) e' = if e' = e then f (engineOf s e) else engineOf s e' := engineOf_setEngine s e e' _

/-- What an engine holds after a request waits at the top of its miss queue. -/
theorem engineOf_waitHalted (s : State) (w : Waiting) (e : Engine) :
    engineOf (waitHalted s w) e =
      if e = w.req.acc.eng then
        { engineOf s w.req.acc.eng with miss := some w, mode := (engineOf s w.req.acc.eng).mode.stick .halted }
      else engineOf s e := by
  rw [waitHalted, engineOf_complete, engineOf_updEngine]

/-- What an engine holds after one is Wedged. -/
theorem engineOf_wedge (s : State) (e e' : Engine) (c : ResponseCode) :
    engineOf (wedge s e c) e' =
      if e' = e then
        { engineOf s e with
          mode := (engineOf s e).mode.stick .wedged
          contextBad := (engineOf s e).contextBad || decide (c = .responseFailure) }
      else engineOf s e' := engineOf_updEngine s e e' _

/-- Two states with the same engines and the same other fields are one. -/
theorem setEngine_engineOf (s : State) (e : Engine) : setEngine s e (engineOf s e) = s := by
  cases e <;> rfl

/-- The engines are determined by what each of them holds. -/
theorem engines_ext {a b : Engines} (h1 : a.rcs = b.rcs) (h2 : a.vcs0 = b.vcs0) (h3 : a.vcs1 = b.vcs1)
    (h4 : a.vecs = b.vecs) (h5 : a.bcs = b.bcs) : a = b := by
  cases a; cases b; simp_all

/-! ### Outcomes -/

/-- A meaning answers a next state exactly when its operation does. -/
theorem toOutcome_next {r : Res State} {t : State} : toOutcome r = .next t ↔ r = .ok t := by
  cases r with
  | ok s => simp [toOutcome]
  | error e => cases e <;> simp [toOutcome]

@[simp] theorem toOutcome_ok (s : State) : toOutcome (.ok s) = .next s := rfl
@[simp] theorem toOutcome_refuse (r : Refusal) : toOutcome (refuse r) = .refused r := rfl

/-- Two operations in a row answer when both do. -/
theorem bind_ok {α β : Type} {x : Res α} {f : α → Res β} {b : β} :
    x.bind f = .ok b ↔ ∃ a, x = .ok a ∧ f a = .ok b := by
  cases x <;> simp [Except.bind]

end Sys2Proof.Machine
end

