-- ==== Sys2Proof/Laws/Memory.lean ====
section
/-! SUPPORT. The laws of physical memory: reading after writing, the canonical form, values of several bytes. -/

namespace Sys2Proof.Machine

open Sys2Proof

/-! ### One byte -/

/-- In the canonical form an address at or below the bound of the list is not listed. -/
theorem memRead_below (m : List Host.Cell) (k a : Nat) (h : Memory.wf m = true) (hk : Memory.above k m = true)
    (ha : a ≤ k) : memRead m a = unlisted := by
  induction m generalizing k with
  | nil => rfl
  | cons c r ih =>
    obtain ⟨j, v⟩ := c
    simp only [Memory.wf, Bool.and_eq_true] at h
    simp only [Memory.above, decide_eq_true_eq] at hk
    have hj : j ≠ a := by omega
    simp only [memRead, hj, if_false]
    exact ih j h.2 h.1.2 (by omega)

/-- A byte written leaves every other address as it was, whatever the list. -/
theorem memRead_memWrite_other (m : List Host.Cell) {a x : Nat} (b : Byte) (h : x ≠ a) :
    memRead (memWrite m a b) x = memRead m x := by
  induction m with
  | nil => by_cases hb : b = unlisted <;> simp [memWrite, memRead, hb, Ne.symm h]
  | cons c r ih =>
    obtain ⟨k, v⟩ := c
    simp only [memWrite]
    split
    · split
      · rfl
      · simp [memRead, Ne.symm h]
    · split
      · rename_i _ hk
        subst hk
        split <;> simp [memRead, Ne.symm h]
      · simp [memRead, ih]

/-- A byte written reads back: in the canonical form, or where it is not the unlisted value. -/
theorem memRead_memWrite_same (m : List Host.Cell) (a : Nat) (b : Byte) (h : Memory.wf m = true) :
    memRead (memWrite m a b) a = b := by
  induction m with
  | nil => by_cases hb : b = unlisted <;> simp [memWrite, memRead, hb]
  | cons c r ih =>
    obtain ⟨k, v⟩ := c
    have hw := h
    simp only [Memory.wf, Bool.and_eq_true] at h
    simp only [memWrite]
    split
    · split
      · rename_i hlt hb
        have : k ≠ a := by omega
        simp only [memRead, this, if_false, hb]
        exact memRead_below r k a h.2 h.1.2 (by omega)
      · simp [memRead]
    · split
      · rename_i _ hk
        subst hk
        split
        · rename_i hb
          rw [hb]
          exact memRead_below r a a h.2 h.1.2 (le_refl a)
        · simp [memRead]
      · rename_i _ hk
        simp only [memRead, Ne.symm hk, if_false]
        exact ih h.2

/-- Writing keeps a lower bound of the addresses that the new address meets too. -/
theorem above_memWrite (m : List Host.Cell) (k a : Nat) (b : Byte) (h : Memory.above k m = true) (ha : k < a)
    (hw : Memory.wf m = true) : Memory.above k (memWrite m a b) = true := by
  cases m with
  | nil => by_cases hb : b = unlisted <;> simp [memWrite, Memory.above, hb, ha]
  | cons c r =>
    obtain ⟨j, v⟩ := c
    simp only [Memory.wf, Bool.and_eq_true] at hw
    simp only [Memory.above, decide_eq_true_eq] at h
    simp only [memWrite]
    split
    · split <;> simp [Memory.above, h, ha]
    · split
      · split
        · cases r with
          | nil => rfl
          | cons d r =>
            have := hw.1.2
            simp only [Memory.above, decide_eq_true_eq] at this ⊢
            omega
        · simp [Memory.above, ha]
      · simp [Memory.above, h]

/-- Writing a byte keeps the canonical form. -/
theorem wf_memWrite (m : List Host.Cell) (a : Nat) (b : Byte) (h : Memory.wf m = true) :
    Memory.wf (memWrite m a b) = true := by
  induction m with
  | nil => by_cases hb : b = unlisted <;> simp [memWrite, Memory.wf, Memory.above, hb]
  | cons c r ih =>
    obtain ⟨k, v⟩ := c
    have hw := h
    simp only [Memory.wf, Bool.and_eq_true] at h
    simp only [memWrite]
    split
    · split
      · exact hw
      · rename_i hlt hb
        simp only [Memory.wf, Bool.and_eq_true]
        exact ⟨⟨by simpa using hb, by simpa [Memory.above] using hlt⟩, h⟩
    · split
      · rename_i _ hk
        subst hk
        split
        · exact h.2
        · rename_i hb
          simp only [Memory.wf, Bool.and_eq_true]
          exact ⟨⟨by simpa using hb, h.1.2⟩, h.2⟩
      · rename_i h1 h2
        simp only [Memory.wf, Bool.and_eq_true]
        exact ⟨⟨h.1.1, above_memWrite r k a b h.1.2 (by omega) h.2⟩, ih h.2⟩

/-! ### Several bytes -/

/-- Storing several bytes keeps the canonical form. -/
theorem wf_memWriteLe (m : List Host.Cell) (a n : Nat) (v : QWord) (h : Memory.wf m = true) :
    Memory.wf (memWriteLe m a n v) = true := by
  induction n generalizing m a v with
  | zero => exact h
  | succ n ih => exact ih _ _ _ (wf_memWrite m a _ h)

/-- Storing several bytes leaves every address outside them as it was. -/
theorem memRead_memWriteLe_outside (m : List Host.Cell) (a n : Nat) (v : QWord) (x : Nat) (h : x < a ∨ a + n ≤ x) :
    memRead (memWriteLe m a n v) x = memRead m x := by
  induction n generalizing m a v with
  | zero => rfl
  | succ n ih =>
    rw [memWriteLe, ih _ _ _ (by omega), memRead_memWrite_other _ _ (by omega)]

/-- Byte `k` of a value shifted by a byte is its byte `k + 1`. -/
theorem byteAt_shift (v : QWord) (k : Nat) : byteAt (v >>> 8) k = byteAt v (k + 1) := by
  apply BitVec.eq_of_getLsbD_eq
  intro i hi
  simp only [byteAt, BitVec.getLsbD_extractLsb', BitVec.getLsbD_ushiftRight]
  congr 2
  omega

/-- Each of the bytes stored reads back. -/
theorem memRead_memWriteLe_inside (m : List Host.Cell) (a n : Nat) (v : QWord) (k : Nat) (hk : k < n)
    (h : Memory.wf m = true) : memRead (memWriteLe m a n v) (a + k) = byteAt v k := by
  induction n generalizing m a v k with
  | zero => omega
  | succ n ih =>
    rw [memWriteLe]
    cases k with
    | zero =>
      rw [memRead_memWriteLe_outside _ _ _ _ _ (by omega)]
      exact memRead_memWrite_same m a _ h
    | succ k =>
      have := ih (memWrite m a (byteAt v 0)) (a + 1) (v >>> 8) k (by omega) (wf_memWrite m a _ h)
      rw [byteAt_shift] at this
      rw [← this]
      congr 1
      omega

/-- A value read depends on its own bytes alone. -/
theorem memReadLe_congr {m m' : List Host.Cell} (a n : Nat) (h : ∀ k, k < n → memRead m (a + k) = memRead m' (a + k)) :
    memReadLe m a n = memReadLe m' a n := by
  induction n generalizing a with
  | zero => rfl
  | succ n ih =>
    rw [memReadLe, memReadLe, ih (a + 1) (fun k hk => by
      have := h (k + 1) (by omega)
      rwa [show a + (k + 1) = a + 1 + k by omega] at this)]
    have := h 0 (by omega)
    rw [Nat.add_zero] at this
    rw [this]

/-- Byte `k` of a value read is the byte at that address. -/
theorem byteAt_memReadLe (m : List Host.Cell) (a n k : Nat) (hk : k < n) (hn : n ≤ 8) :
    byteAt (memReadLe m a n) k = memRead m (a + k) := by
  induction n generalizing a k with
  | zero => omega
  | succ n ih =>
    cases k with
    | zero =>
      apply BitVec.eq_of_getLsbD_eq
      intro i hi
      simp [memReadLe, byteAt, hi, show i < 64 by omega]
    | succ k =>
      have := ih (a + 1) k (by omega) (by omega)
      rw [show a + (k + 1) = a + 1 + k by omega, ← this]
      apply BitVec.eq_of_getLsbD_eq
      intro i hi
      simp only [memReadLe, byteAt, BitVec.getLsbD_extractLsb', BitVec.getLsbD_or, BitVec.getLsbD_shiftLeft,
        BitVec.getLsbD_setWidth]
      rw [show 8 * (k + 1) + i - 8 = 8 * k + i by omega]
      have h1 : (memRead m a).getLsbD (8 * (k + 1) + i) = false := BitVec.getLsbD_of_ge _ _ (by omega)
      simp [h1, hi, show 8 * (k + 1) + i < 64 by omega, show ¬ 8 * (k + 1) + i < 8 by omega]

/-- A value of `n` bytes has no byte above them. -/
theorem byteAt_memReadLe_above (m : List Host.Cell) (a n k : Nat) (hk : n ≤ k) : byteAt (memReadLe m a n) k = 0 := by
  induction n generalizing a k with
  | zero => simp [memReadLe, byteAt]
  | succ n ih =>
    obtain ⟨k, rfl⟩ : ∃ j, k = j + 1 := ⟨k - 1, by omega⟩
    have h := ih (a + 1) k (by omega)
    apply BitVec.eq_of_getLsbD_eq
    intro i hi
    have hb : (byteAt (memReadLe m (a + 1) n) k).getLsbD i = false := by rw [h]; simp
    simp only [byteAt, BitVec.getLsbD_extractLsb', hi, decide_true, Bool.true_and] at hb
    simp only [memReadLe, byteAt, BitVec.getLsbD_extractLsb', BitVec.getLsbD_or, BitVec.getLsbD_shiftLeft, BitVec.getLsbD_setWidth]
    rw [show 8 * (k + 1) + i - 8 = 8 * k + i by omega, hb]
    have h1 : (memRead m a).getLsbD (8 * (k + 1) + i) = false := BitVec.getLsbD_of_ge _ _ (by omega)
    simp [h1]

/-- Two QWords with the same bytes are one. -/
theorem eq_of_byteAt {v w : QWord} (h : ∀ k, k < 8 → byteAt v k = byteAt w k) : v = w := by
  apply BitVec.eq_of_getLsbD_eq
  intro i hi
  have := congrArg (fun b : Byte => b.getLsbD (i % 8)) (h (i / 8) (by omega))
  simp only [byteAt, BitVec.getLsbD_extractLsb', show i % 8 < 8 by omega, decide_true, Bool.true_and] at this
  rwa [show 8 * (i / 8) + i % 8 = i by omega] at this

/-- A QWord stored reads back. -/
theorem mem64_store_same (s : State) (pa : Nat) (v : QWord) (b : Writer) (h : Memory.wf s.mem = true) :
    mem64 (store s pa 8 v b) pa = v := by
  apply eq_of_byteAt
  intro k hk
  rw [mem64, byteAt_memReadLe _ _ _ _ hk (le_refl 8), store_mem, memRead_memWriteLe_inside _ _ _ _ _ hk h]

/-- Storing keeps the canonical form. -/
theorem wf_store (s : State) (pa n : Nat) (v : QWord) (b : Writer) (h : Memory.wf s.mem = true) :
    Memory.wf (store s pa n v b).mem = true := wf_memWriteLe _ _ _ _ h

/-- Storing leaves every byte outside the stored ones as it was. -/
theorem memRead_store_outside (s : State) (pa n : Nat) (v : QWord) (b : Writer) (x : Nat) (h : x < pa ∨ pa + n ≤ x) :
    memRead (store s pa n v b).mem x = memRead s.mem x := memRead_memWriteLe_outside _ _ _ _ _ h

/-- Memory of open content has the canonical form. -/
theorem wf_freeMemory (k : Nat) : Memory.wf (freeMemory k) = true := by
  have : ∀ (l : List (Nat × Byte)) (m : List Host.Cell), Memory.wf m = true →
      Memory.wf (l.foldl (fun m c => memWrite m c.1 c.2) m) = true := by
    intro l
    induction l with
    | nil => exact fun m h => h
    | cons c l ih => exact fun m h => ih _ (wf_memWrite m c.1 c.2 h)
  exact this _ _ rfl

/-- The bytes of an access exist exactly when they lie below both bounds (R109, R110). -/
theorem physExists_iff (s : State) (pa n : Nat) :
    physExists s pa n = true ↔ pa + n ≤ s.params.topOfMemory ∧ pa + n ≤ 2 ^ s.params.haw := by
  simp [physExists]

/-- The check of I20 passes exactly where the bytes exist. -/
theorem checkPhys_ok (s : State) (pa n : Nat) : checkPhys s pa n = .ok () ↔ physExists s pa n = true := by
  unfold checkPhys
  split <;> simp_all

end Sys2Proof.Machine
end

