-- ==== Sys2Proof/Laws/Walk.lean ====
section
/-! SUPPORT. The laws of the page walk: reading an entry, what one entry does, the walks of the four modes where nothing is
retained and no entry is managed. -/

namespace Sys2Proof.Machine

open Sys2Proof

/-! ### Bit fields -/

/-- A field as a number: shift and remainder. -/
theorem field_eq {n : Nat} (w : BitVec n) (lo len : Nat) : field w lo len = w.toNat / 2 ^ lo % 2 ^ len := by
  simp [field, BitVec.extractLsb'_toNat, Nat.shiftRight_eq_div_pow]

/-- A field is below its bound. -/
theorem field_lt {n : Nat} (w : BitVec n) (lo len : Nat) : field w lo len < 2 ^ len := by
  rw [field_eq]; exact Nat.mod_lt _ (Nat.two_pow_pos _)

/-- The ADDR field of an entry, as the walk and as the statements read it (R312). -/
theorem entryAddr_eq (haw lo : Nat) (e : QWord) : entryAddr haw lo e = addrField haw lo e := by
  rw [entryAddr, addrField, field_eq]
  congr 1
  by_cases h : lo ≤ haw
  · obtain ⟨d, rfl⟩ := Nat.exists_eq_add_of_le h
    rw [Nat.add_sub_cancel_left, Nat.pow_add, Nat.mod_mul_right_div_self]
  · have h1 : haw - lo = 0 := by omega
    have h2 : e.toNat % 2 ^ haw < 2 ^ lo :=
      lt_of_lt_of_le (Nat.mod_lt _ (Nat.two_pow_pos _)) (Nat.pow_le_pow_right (by omega) (by omega))
    simp [h1, Nat.mod_one, Nat.div_eq_of_lt h2]

/-! ### Reading an entry -/

/-- Entries of a history that nothing admits are none. -/
theorem olderWhere_nil {p : OldValue → Nat → Bool} {l : List OldValue} (h : ∀ o k, k < l.length → p o k = false) :
    olderWhere p l = [] := by
  induction l with
  | nil => rfl
  | cons o r ih =>
    have h1 : p o r.length = false := h o r.length (by simp)
    rw [olderWhere, h1, if_neg (by simp)]
    exact ih fun o k hk => h o k (by simp; omega)

/-- With nothing overwritten since the last invalidation no value is retained (R351). -/
theorem retainedValues_nil {s : State} {e : Engine} (h : nothingRetained s e = true) (covers : ScopeMark → QWord → Bool) (pa : Nat) :
    retainedValues s e covers pa = [] := by
  simp only [nothingRetained, decide_eq_true_eq] at h
  rw [retainedValues, olderWhere_nil, List.map_nil]
  intro o k hk
  have : ¬(engineOf s e).invMark ≤ k := by omega
  simp [this]

/-- Nor may a walk use one. -/
theorem retainedEntries_nil {s : State} {e : Engine} (h : nothingRetained s e = true) (c : WalkCtl) (va : QWord)
    (level : Nat) (ips : Bool) (pa : Nat) : retainedEntries s e c va level ips pa = [] :=
  retainedValues_nil h _ pa

/-- The values a walk may use are none where it must be fresh or nothing is retained. -/
theorem kept_nil {s : State} {e : Engine} {c : WalkCtl} {fresh : Bool} (hr : fresh = true ∨ nothingRetained s e = true)
    (va : QWord) (level : Nat) (ips : Bool) (pa : Nat) :
    (if fresh then [] else (retainedEntries s e c va level ips pa).filter (retainedUsable c level)) = [] := by
  rcases hr with h | h
  · simp [h]
  · simp [retainedEntries_nil h]

/-- A walk that manages no flags and may use no retained value reads the entry that memory holds. -/
theorem readEntry_plain {s : State} {e : Engine} {c : WalkCtl} (fresh : Bool) (va : QWord) (level : Nat) (ips : Bool) {pa : Nat}
    (hr : fresh = true ∨ nothingRetained s e = true) (hc : c.ad = false) (hp : physExists s pa 8 = true) :
    readEntry s e c fresh va level ips pa = .ok (some (mem64 s pa), s) := by
  have hk := kept_nil (c := c) hr va level ips pa
  simp [readEntry, checkPhys, hp, hk, hc, bind, Except.bind, pure, Except.pure]

/-- A walk that manages flags, where they need no change, reads the entry that memory holds. -/
theorem readEntry_managed {s : State} {e : Engine} {c : WalkCtl} (fresh : Bool) (va : QWord) (level : Nat) (ips : Bool) {pa : Nat}
    (hr : fresh = true ∨ nothingRetained s e = true) (hc : c.ad = true) (hp : physExists s pa 8 = true)
    (hq : pageAtomic (decide (level ≠ 1)) c.wpe c.eafe c.isWrite (mem64 s pa) = mem64 s pa) :
    readEntry s e c fresh va level ips pa = .ok (some (mem64 s pa), s) := by
  have hk := kept_nil (c := c) hr va level ips pa
  simp only [decide_not] at hq
  simp [readEntry, checkPhys, hp, hk, hc, hq, bind, Except.bind, pure, Except.pure]

/-- What reading an entry can do: nothing is read where the entry does not exist; the entry read is the one in memory, a
retained value, or the updated one that was stored. -/
theorem readEntry_cases {s t : State} {e : Engine} {c : WalkCtl} {fresh : Bool} {va : QWord} {level : Nat} {ips : Bool} {pa : Nat}
    {q : Option QWord} (h : readEntry s e c fresh va level ips pa = .ok (q, t)) :
    physExists s pa 8 = true ∧ (t = s ∨ (c.ad = true ∧ adUpdateAllowed s pa c.cd = true ∧
      ∃ n, q = some n ∧ t = store s pa 8 n Writer.gam)) := by
  simp only [readEntry, checkPhys, bind, Except.bind, pure, Except.pure] at h
  generalize (if fresh then [] else (retainedEntries s e c va level ips pa).filter (retainedUsable c level)) = kept at h
  by_cases hp : physExists s pa 8 = true
  · refine ⟨hp, ?_⟩
    simp only [hp, if_true] at h
    split at h
    · simp only [Except.ok.injEq, Prod.mk.injEq] at h
      exact .inl h.2.symm
    · split at h
      · rename_i hc
        split at h
        · simp only [Except.ok.injEq, Prod.mk.injEq] at h
          exact .inl h.2.symm
        · split at h
          · rename_i ha
            simp only [Except.ok.injEq, Prod.mk.injEq] at h
            exact .inr ⟨hc, ha, _, h.1.symm, h.2.symm⟩
          · simp only [Except.ok.injEq, Prod.mk.injEq] at h
            exact .inl h.2.symm
      · simp only [Except.ok.injEq, Prod.mk.injEq] at h
        exact .inl h.2.symm
  · simp [hp] at h

/-! ### What one entry does (R311) -/

/-- An entry with P = 0 is a fault with code 01 at its level, in every dialect (R801, R804). -/
theorem entryStep_not_present (haw : Nat) (c : WalkCtl) (level : Nat) (ips : Bool) (va : QWord) (acc : Rights) (e : QWord)
    (h : bit e 0 = false) : entryStep haw c level ips va acc e = .fault 1 level := by
  simp [entryStep, h]

/-- The rights after an IA-32e entry (R320). -/
@[simp] theorem accumulateIn_ia32e (acc : Rights) (e : QWord) : accumulateIn .ia32e acc e = accumulate acc e := rfl

/-- An entry of another dialect leaves the rights as they are (R189, R321). -/
theorem accumulateIn_other {d : Dialect} (acc : Rights) (e : QWord) (h : d ≠ .ia32e) : accumulateIn d acc e = acc := if_neg h

/-- A present entry of a legacy dialect that is no leaf points to the next table: P is all that is examined (R321). -/
theorem entryStep_legacy_pointer {haw : Nat} {c : WalkCtl} {level : Nat} {ips : Bool} {va : QWord} {acc : Rights} {e : QWord}
    (hd : c.dialect ≠ .ia32e) (hp : bit e 0 = true) (hl : isLeaf c.dialect level e = false) :
    entryStep haw c level ips va acc e =
      .next (level - 1) (addrField haw 12 e) (decide (level = 2) && bit e 11 && c.en64k) := by
  simp [entryStep, hd, hp, hl, entryAddr_eq]

/-- A present leaf of a legacy dialect: Null, refused write, or the page (R321, R322). -/
theorem entryStep_legacy_leaf {haw : Nat} {c : WalkCtl} {level : Nat} {ips : Bool} {va : QWord} {acc : Rights} {e : QWord}
    (hd : c.dialect ≠ .ia32e) (hp : bit e 0 = true) (hl : isLeaf c.dialect level e = true) :
    entryStep haw c level ips va acc e =
      if c.dialect ≠ .ggtt ∧ bit e 9 = true then .nullPage
      else if c.dialect ≠ .ggtt ∧ c.isWrite = true ∧ bit e 1 = false then .fault 3 level
      else .translated (leafTranslation haw c.dialect level ips va e acc) := by
  simp only [entryStep, accumulateIn_other _ _ hd, hd, hp, hl, Bool.not_true, Bool.false_eq_true, if_false, Bool.and_eq_true, ne_eq,
    Bool.not_eq_true', decide_not, and_assoc, decide_eq_false_iff_not]

/-- A present IA-32e entry that no check refuses (R320, R331). -/
theorem entryStep_ia32e {haw : Nat} {c : WalkCtl} {level : Nat} {ips : Bool} {va : QWord} {acc : Rights} {e : QWord}
    (hd : c.dialect = .ia32e) (hp : bit e 0 = true) (hr : reservedViolated haw level ips e = false)
    (hu : privilegeRefused c (accumulate acc e) = false) (hs : smepRefused c (accumulate acc e) = false)
    (hw : writeRefused c (accumulate acc e) = false) :
    entryStep haw c level ips va acc e =
      if isLeaf .ia32e level e then .translated (leafTranslation haw .ia32e level ips va e (accumulate acc e))
      else .next (level - 1) (addrField haw 12 e) (decide (level = 2) && bit e 11 && c.en64k) := by
  simp [entryStep, accumulateIn, hd, hp, hr, hu, hs, hw, entryAddr_eq]

/-! ### One level of a walk -/

/-- The slot of an entry, as the walk and as the statements compute it (R310). -/
theorem entryAddress_eq (level base : Nat) (va : QWord) : entryAddress level base false va = tableSlot base va level := by
  simp [entryAddress, tableSlot, levelIndex]

/-- A walk that manages no flags, and may use no retained value, in a state. -/
structure PlainWalk (s : State) (e : Engine) (c : WalkCtl) (fresh : Bool) : Prop where
  retained : fresh = true ∨ nothingRetained s e = true
  plain : c.ad = false
  gttCache : s.params.gttCache = false

/-- A level whose entry points to a table goes on there. -/
theorem walkFrom_next {s : State} {e : Engine} {c : WalkCtl} {fresh ips : Bool} {va : QWord} {l base l' base' : Nat}
    {ips' : Bool} {acc : Rights} (hw : PlainWalk s e c fresh)
    (hp : physExists s (entryAddress (l + 1) base ips va) 8 = true)
    (hs : entryStep s.params.haw c (l + 1) ips va acc (mem64 s (entryAddress (l + 1) base ips va)) = .next l' base' ips') :
    walkFrom e c fresh va (l + 1) base ips acc s =
      walkFrom e c fresh va l base' ips' (accumulateIn c.dialect acc (mem64 s (entryAddress (l + 1) base ips va))) s := by
  rw [walkFrom, readEntry_plain fresh va (l + 1) ips hw.retained hw.plain hp]
  simp [bind, Except.bind, hs, gttCacheViolated, hw.gttCache]

/-- A level whose entry ends the walk ends it. -/
theorem walkFrom_end {s : State} {e : Engine} {c : WalkCtl} {fresh ips : Bool} {va : QWord} {l base : Nat}
    {acc : Rights} {w : WalkEnd} (hpw : PlainWalk s e c fresh)
    (hp : physExists s (entryAddress (l + 1) base ips va) 8 = true)
    (hs : entryStep s.params.haw c (l + 1) ips va acc (mem64 s (entryAddress (l + 1) base ips va)) = w)
    (hw : ∀ a b i, w ≠ .next a b i) :
    walkFrom e c fresh va (l + 1) base ips acc s = .ok (w, s) := by
  rw [walkFrom, readEntry_plain fresh va (l + 1) ips hpw.retained hpw.plain hp]
  simp only [bind, Except.bind, hs, gttCacheViolated, hpw.gttCache, Bool.false_and, Bool.false_eq_true, if_false]
  cases w with
  | next a b i => exact absurd rfl (hw a b i)
  | _ => rfl

end Sys2Proof.Machine
end

