-- ==== Sys2Proof/Laws/Request.lean ====
section
/-! SUPPORT. The laws of serving a request: when it is served at once, its pieces, its data, its stores. -/

namespace Sys2Proof.Machine

open Sys2Proof

/-! ### The gate of the engine's state -/

/-- With no request of the engine waiting none is kept behind another (R150, D8). -/
theorem keepsBehind_none {s : State} {r : Request} (h : nothingWaits s r.acc.eng = true) :
    keepsBehind s (engineOf s r.acc.eng) r = false := by
  simp only [nothingWaits, Bool.and_eq_true, Option.isNone_iff_eq_none, List.isEmpty_iff] at h
  simp [keepsBehind, waitingRequests, h.1.1.1, h.1.2]

theorem keepsFurther_none {s : State} {r : Request} (h : nothingWaits s r.acc.eng = true) :
    keepsFurther s (engineOf s r.acc.eng) r = false := by
  simp only [nothingWaits, Bool.and_eq_true, Option.isNone_iff_eq_none, List.isEmpty_iff] at h
  simp [keepsFurther, h.2]

/-- A request that is no access, a page walk for an HDC, keeps behind none. -/
theorem keepsBehind_walk {s : State} {x : EngineSt} {r : Request} (h : r.isAccess = false) : keepsBehind s x r = false := by
  simp [keepsBehind, keepsOrder, h]

theorem keepsFurther_walk {s : State} {x : EngineSt} {r : Request} (h : r.isAccess = false) : keepsFurther s x r = false := by
  simp [keepsFurther, keepsOrder, h]

/-- With no request of the engine waiting in Stream mode none is followed (R829). -/
theorem outstandingBefore_none {s : State} {r : Request} (h : nothingWaits s r.acc.eng = true) :
    outstandingBefore (engineOf s r.acc.eng) r = [] := by
  simp only [nothingWaits, Bool.and_eq_true, Option.isNone_iff_eq_none, List.isEmpty_iff] at h
  simp [outstandingBefore, h.1.1.2]

/-- Nor does a page walk for an HDC follow one. -/
theorem outstandingBefore_walk {x : EngineSt} {r : Request} (h : r.isAccess = false) : outstandingBefore x r = [] := by
  simp [outstandingBefore, h]

/-- A request issued since the control registers last changed is served under the registers as they are (R901). -/
theorem serveNow_current {s : State} {r : Request} (fresh : Bool) (f : OnFault) (h : s.priorRegs.length ≤ r.issued) :
    serveNow s r fresh f = serveHere s r fresh f := by
  rw [serveNow, if_pos h]

/-- An engine that translates serves a request at once, unless that keeps behind another (R833, R850). -/
theorem serve_now {s : State} {r : Request} (fresh : Bool) (h : servesNow s r.acc.eng = true)
    (hb : keepsBehind s (engineOf s r.acc.eng) r = false) (hf : keepsFurther s (engineOf s r.acc.eng) r = false)
    (ho : outstandingBefore (engineOf s r.acc.eng) r = []) :
    serve s r fresh = serveNow s r fresh .take := by
  simp only [servesNow, Bool.and_eq_true, Bool.or_eq_true, beq_iff_eq, Bool.not_eq_true'] at h
  obtain ⟨⟨⟨hp, hl⟩, _⟩, hm⟩ := h
  simp only [serve, hp, ne_eq, not_true_eq_false, if_false, hb, hf, ho, hl]
  rcases hm with hm | hm <;> simp [hm]

/-- A Hung engine keeps a request that never completes (R820). -/
theorem serve_hung {s : State} {r : Request} (fresh : Bool) (hp : (engineOf s r.acc.eng).phase = .quiet)
    (hm : (engineOf s r.acc.eng).mode = .hung) : serve s r fresh = .ok (stall s r .never) := by
  simp [serve, hp, hm]

/-- During the context handshake no request is translated: it waits (R850). -/
theorem serve_handshake {s : State} {r : Request} (fresh : Bool) (hp : (engineOf s r.acc.eng).phase ≠ .quiet) :
    serve s r fresh = .ok (stall s r .waiting) := by
  simp [serve, hp]

/-! ### The pieces of an access -/

/-- With TR-TT off no address is translated by it (R391). -/
theorem trttApplies_off {s : State} (r : Request) (va : QWord) (h : trttOn s = false) :
    trttApplies s r va = .ok false := by
  simp [trttApplies, h]

/-- An access in one page has one piece. -/
theorem resolvePieces_one {s t : State} {r : Request} {fresh : Bool} {w : WalkEnd} (h1 : inOnePage r.acc = true)
    (h2 : trttOn s = false)
    (h3 : translate s r r.acc.va (r.acc.kind != .read) fresh = .ok (w, t)) :
    resolvePieces s r fresh = .ok ([⟨resolvedOf w r.acc.va, accessSize r.acc⟩], t) := by
  have hn : firstLen r.acc = accessSize r.acc := by
    simp only [inOnePage, decide_eq_true_eq] at h1
    simp only [firstLen]; omega
  simp [resolvePieces, resolve, resolveVa, trttApplies_off r _ h2, h3, hn, bind, Except.bind, pure, Except.pure]

/-- A translation whose first walk finds no fault is that walk. -/
theorem translate_of_walk {s t : State} {r : Request} {va : QWord} {isWrite fresh : Bool} {w : WalkEnd}
    (h1 : walkOnce s r va isWrite fresh = .ok (w, t)) (h2 : w.isFault = false) :
    translate s r va isWrite fresh = .ok (w, advanceDraws t 8) := by
  simp [translate, h1, h2, bind, Except.bind, pure, Except.pure]

/-! ### Data -/

/-- Where no write of the history is hidden, memory shows what it holds (R154). -/
theorem oldViews_nil {own : Writer → Bool} {hides : OldValue → Nat → Bool} {q : Nat} {l : List OldValue} {now : QWord}
    {mine : BitVec 8} {wrote : QWord} (h : ∀ k (hk : k < l.length), hides l[k] (l.length - 1 - k) = false) :
    oldViews own hides q l now mine wrote = [] := by
  induction l generalizing now mine wrote with
  | nil => rfl
  | cons o r ih =>
    have h1 : hides o r.length = false := h 0 (Nat.zero_lt_succ _)
    have h2 : ∀ k (hk : k < r.length), hides r[k] (r.length - 1 - k) = false := fun k hk => by
      have := h (k + 1) (by simpa using hk)
      simpa [show r.length - (k + 1) = r.length - 1 - k by omega] using this
    unfold oldViews
    split
    · simp [h1, ih h2]
    · exact ih h2

/-- An access in memory that LLC caches and that is to be coherent, is (R154, R157). -/
theorem coherencyOf_full {s : State} {r : Request} {t : Translation} (h1 : llcCaches s r t = true) (h2 : coherentAccess s r = true) :
    coherencyOf s r t = .full := by simp [coherencyOf, h1, h2]

/-- An access that LLC does not cache is not coherent at all (R154, R157). -/
theorem coherencyOf_none {s : State} {r : Request} {t : Translation} (h : llcCaches s r t = false) : coherencyOf s r t = .none := by
  simp [coherencyOf, h]

/-- Every other access of an advanced context is coherent at LLC (R31). -/
theorem coherencyOf_atLlc {s : State} {r : Request} {t : Translation} (h1 : llcCaches s r t = true) (h2 : coherentAccess s r = false)
    (h3 : isAdvanced r = true) : coherencyOf s r t = .atLlc := by simp [coherencyOf, h1, h2, h3]

/-- The MOCS entry alone makes LLC cache an access of a legacy context (R463, R470). -/
theorem llcCaches_of_mocs {s : State} {r : Request} (t : Translation) (h1 : mocsInLlc s r.acc = true) (h2 : isAdvanced r = false) :
    llcCaches s r t = true := by
  simp only [mocsInLlc, Bool.and_eq_true, Bool.not_eq_true', decide_eq_true_eq] at h1
  obtain ⟨⟨⟨hg, ht⟩, hc⟩, hs⟩ := h1
  have ht4 := field_lt (gamMocsOf s r.acc.eng r.acc.mocs.toNat) 0 2
  have hc4 := field_lt (gamMocsOf s r.acc.eng r.acc.mocs.toNat) 2 2
  have ht' : field (gamMocsOf s r.acc.eng r.acc.mocs.toNat) 0 2 = 2 ∨ field (gamMocsOf s r.acc.eng r.acc.mocs.toNat) 0 2 = 3 := by omega
  have hc' : field (gamMocsOf s r.acc.eng r.acc.mocs.toNat) 2 2 = 1 ∨ field (gamMocsOf s r.acc.eng r.acc.mocs.toNat) 2 2 = 2 ∨
      field (gamMocsOf s r.acc.eng r.acc.mocs.toNat) 2 2 = 3 := by omega
  rcases ht' with ht' | ht' <;> rcases hc' with hc' | hc' | hc' <;> by_cases hk : r.acc.kind = .atomic <;>
    simp [llcCaches, performedType, effectiveType, effectiveControls, hg, typeAndTarget, cacheQueryOf, h2, llcType, skipCaching, hs,
      fencedCycle, ht', hc', MemType.cacheable, CacheTarget.allowsLlc, hk]

/-- What the GPU writes, a walk's flags among it, hides nothing of the processor's (R154). -/
theorem cpuSettled_store {s : State} {w : Writer} (pa n : Nat) (v : QWord) (hw : w.gpu = true) (h : cpuSettled s = true) :
    cpuSettled (store s pa n v w) = true := by
  simp only [cpuSettled, List.all_eq_true] at h ⊢
  intro o ho
  have hold : ∀ x ∈ oldValues s pa n w, x.writer.gpu = true := by
    intro x hx
    simp only [oldValues] at hx
    split at hx <;> simp at hx
    · simp [hx, hw]
    · rcases hx with hx | hx <;> simp [hx, hw]
  have hm : (store s pa n v w).history = oldValues s pa n w ++ s.history := rfl
  rw [hm, List.take_append] at ho
  rcases List.mem_append.1 ho with ho | ho
  · exact hold o (List.mem_of_mem_take ho)
  · refine h o (List.take_subset_take_left _ ?_ ho)
    simp only [List.length_append, store_gpuMark, store_cpuMark]
    omega

/-- No byte that the processor wrote is hidden from a request: nothing of it waits for a flush, or the request is fully coherent
(R154). -/
theorem flushedFor_hides {s : State} {r : Request} {t : Translation} (h : coherencyOf s r t = .full ∨ cpuSettled s = true)
    {k : Nat} (hk : k < s.history.length) :
    (!s.history[k].writer.gpu && (flushedFor s (coherencyOf s r t)).any fun m => decide (m ≤ s.history.length - 1 - k)) = false := by
  rcases h with h | h
  · simp [h, flushedFor]
  · simp only [cpuSettled, List.all_eq_true] at h
    by_cases hm : k < s.history.length - min s.gpuMark s.cpuMark
    · have hg := h s.history[k] (List.mem_take_iff_getElem.2 ⟨k, by omega, rfl⟩)
      simp [hg]
    · cases coherencyOf s r t <;> simp [flushedFor] <;> omega

/-- A fully coherent access, or one with nothing of the processor's waiting for a flush, by a client without a read-only cache of its own
sees no stale byte (R154, R155). -/
theorem staleBytes_nil {s : State} {r : Request} {t : Translation} (pa n : Nat) (h1 : r.acc.client ≠ .samplerCache)
    (h2 : r.acc.client ≠ .instructionState) (h3 : r.acc.client ≠ .displayOverlay)
    (h4 : coherencyOf s r t = .full ∨ cpuSettled s = true) : staleBytes s r t pa n = [] := by
  rw [staleBytes, viewsAt, oldViews_nil, List.map_nil]
  intro k hk
  unfold mayHide
  rw [flushedFor_hides h4 hk, Bool.or_false]
  cases hcl : r.acc.client <;> simp_all

/-- Such an access reads what memory holds. -/
theorem readData_eq {s : State} {r : Request} {t : Translation} (h1 : r.acc.client ≠ .samplerCache) (h2 : r.acc.client ≠ .instructionState)
    (h3 : r.acc.client ≠ .displayOverlay) (h4 : coherencyOf s r t = .full ∨ cpuSettled s = true) (n : Nat) :
    readData s r t n = memReadLe s.mem t.pa n := by
  unfold readData
  split
  · rw [staleBytes_nil t.pa n h1 h2 h3 h4, pickValue]
  rename_i hs
  clear hs
  generalize t.pa = pa
  induction n generalizing pa with
  | zero => rfl
  | succ n ih =>
    have hb : ∀ b : Byte, b.setWidth 64 &&& (0xFF : QWord) = b.setWidth 64 := by
      intro b
      apply BitVec.eq_of_getLsbD_eq
      intro i hi
      have : ∀ j, j < 64 → (0xFF : QWord).getLsbD j = decide (j < 8) := by decide
      simp only [BitVec.getLsbD_and, BitVec.getLsbD_setWidth, this i hi]
      by_cases h8 : i < 8
      · simp [h8]
      · simp [h8, BitVec.getLsbD_of_ge _ _ (show 8 ≤ i by omega)]
    rw [readBytes, memReadLe, ih, staleBytes_nil pa 1 h1 h2 h3 h4, pickValue, hb]

/-- A data access that sees memory as it is where its page leads: no read-only cache, fully coherent or nothing stale (R154, R155, R475). -/
structure SeesMemory (s : State) (r : Request) (t : Translation) : Prop where
  sampler : r.acc.client ≠ .samplerCache
  instruction : r.acc.client ≠ .instructionState
  display : r.acc.client ≠ .displayOverlay
  settled : coherencyOf s r t = .full ∨ cpuSettled s = true

/-- One piece in memory leaves no tile to note. -/
theorem noteTiles_pa (s : State) (e : Engine) (t : Translation) (n : Nat) : noteTiles s e [⟨.pa t, n⟩] = s := rfl

/-- A Null page is no tile. -/
theorem noteTiles_nullPage (s : State) (e : Engine) (n : Nat) : noteTiles s e [⟨.null .nullPage, n⟩] = s := rfl

/-- A request that resolved to one page of memory: what a read that sees memory does. -/
theorem perform_read {s : State} {r : Request} {t : Translation} {n : Nat} (ho : r.origin = .client)
    (hk : r.acc.kind = .read) (hm : SeesMemory s r t) (hp : physExists s t.pa n = true) :
    perform s r [⟨.pa t, n⟩] = .ok (advanceDraws (complete s
      ⟨.done, memReadLe s.mem t.pa n, false, 0, t.pa, effectiveType s r t, faultModeBits r.desc⟩) 16) := by
  have hc : checkPhys s t.pa n = .ok () := (checkPhys_ok _ _ _).2 hp
  simp only [perform, checkPieces, piecesStatus, piecesTranslation, readPieces, ho, hk, hc, bind, Except.bind, pure,
    Except.pure, noteTiles_pa, readData_eq hm.sampler hm.instruction hm.display hm.settled]
  simp

/-- A request that resolved to one page of memory: what a write does. -/
theorem perform_write {s : State} {r : Request} {t : Translation} {n : Nat} (ho : r.origin = .client)
    (hk : r.acc.kind = .write) (hp : physExists s t.pa n = true) :
    perform s r [⟨.pa t, n⟩] = .ok (advanceDraws (complete (store s t.pa n r.acc.data (writerOf s r t))
      ⟨.done, 0, false, 0, t.pa, effectiveType s r t, faultModeBits r.desc⟩) 8) := by
  have hc : checkPhys s t.pa n = .ok () := (checkPhys_ok _ _ _).2 hp
  simp [perform, checkPieces, piecesStatus, piecesTranslation, writePieces, ho, hk, hc, bind, Except.bind, pure,
    Except.pure, noteTiles_pa]

/-- A read that resolved to a null page gives zeros (R807). -/
theorem perform_null_read {s : State} {r : Request} {n : Nat} (ho : r.origin = .client) (hk : r.acc.kind = .read) :
    perform s r [⟨.null .nullPage, n⟩] =
      .ok (advanceDraws (complete s ⟨.nullPage, 0, true, 0, 0, .wb, faultModeBits r.desc⟩) 16) := by
  simp only [perform, checkPieces, piecesStatus, piecesTranslation, readPieces, ho, hk, bind, Except.bind, pure,
    Except.pure, noteTiles_nullPage]
  simp
  rfl

/-- A write that resolved to a null page is dropped (R807). -/
theorem perform_null_write {s : State} {r : Request} {n : Nat} (ho : r.origin = .client) (hk : r.acc.kind = .write) :
    perform s r [⟨.null .nullPage, n⟩] =
      .ok (advanceDraws (complete s ⟨.nullPage, 0, true, 0, 0, .wb, faultModeBits r.desc⟩) 8) := by
  simp only [perform, checkPieces, piecesStatus, piecesTranslation, writePieces, ho, hk, bind, Except.bind, pure,
    Except.pure, noteTiles_nullPage]
  simp
  rfl

/-! ### One-page requests, end to end -/

/-- A request that is no sample has no auxiliary tile. -/
theorem auxPieces_none {s : State} {r : Request} (ps : List Piece) (fresh : Bool) (h : auxAddress r = none) :
    auxPieces s r ps fresh = .ok (ps, s) := by
  simp only [auxPieces, h]; rfl

/-- A request with no padding translates no more than its bytes and its auxiliary tile. -/
theorem padPieces_none {s : State} {r : Request} (ps : List Piece) (fresh : Bool) (h : r.pads = []) :
    padPieces s r ps fresh = .ok (ps, s) := by
  simp only [padPieces, h]; rfl

/-- A request that translates its bytes alone, and sees the control registers as they are (R770, R901). -/
structure Bare (s : State) (r : Request) : Prop where
  aux : auxAddress r = none
  pads : r.pads = []
  current : s.priorRegs.length ≤ r.issued

/-- What such a request of one page translates. -/
theorem allPieces_one {s t : State} {r : Request} {fresh : Bool} {w : WalkEnd} (hb : Bare s r) (h1 : inOnePage r.acc = true)
    (h2 : trttOn s = false) (h3 : translate s r r.acc.va (r.acc.kind != .read) fresh = .ok (w, t)) :
    allPieces s r fresh = .ok ([⟨resolvedOf w r.acc.va, accessSize r.acc⟩], t) := by
  simp [allPieces, resolvePieces_one h1 h2 h3, auxPieces_none _ _ hb.aux, padPieces_none _ _ hb.pads, bind, Except.bind]

/-- A one-page request whose walk ends in a page of memory or in a null page is performed on it. -/
theorem serveNow_one {s t : State} {r : Request} {w : WalkEnd} {x : Resolved} (hb : Bare s r)
    (h0 : reservedPfm s r = false) (h1 : inOnePage r.acc = true) (h2 : trttOn s = false)
    (h3 : translate s r r.acc.va (r.acc.kind != .read) false = .ok (w, t)) (h4 : resolvedOf w r.acc.va = x)
    (h5 : firstStop [⟨x, accessSize r.acc⟩] = none) :
    serveNow s r false .take = perform t r [⟨x, accessSize r.acc⟩] := by
  rw [serveNow_current _ _ hb.current]
  simp [serveHere, goesOn, h0, allPieces_one hb h1 h2 h3, h4, h5, conclude, bind, Except.bind]

/-- A one-page request whose walk faults takes the fault. -/
theorem serveNow_fault {s t : State} {r : Request} {code : BitVec 2} {level : Nat} (hb : Bare s r)
    (h0 : reservedPfm s r = false) (h1 : inOnePage r.acc = true) (h2 : trttOn s = false)
    (h3 : translate s r r.acc.va (r.acc.kind != .read) false = .ok (.fault code level, t)) :
    serveNow s r false .take = takePageFault t r r.acc.va code level := by
  rw [serveNow_current _ _ hb.current]
  simp [serveHere, goesOn, h0, allPieces_one hb h1 h2 h3, resolvedOf, firstStop, conclude, onFault, bind, Except.bind]

end Sys2Proof.Machine
end

