-- ==== Sys2Proof/Laws/Context.lean ====
section
/-! SUPPORT. The laws of the context handshake: what each of its operations leaves of the engine it is about, of the others, and
of the rest of the machine; and of the resets that wait. -/

namespace Sys2Proof.Machine

open Sys2Proof

/-- What an engine holds after the retained translations of `e` were dropped (R371). -/
theorem engineOf_dropRetained (s : State) (e e' : Engine) :
    engineOf (dropRetained s e) e' =
      if e' = e then { engineOf s e with invMark := s.history.length, scopeMarks := [], faulted := [] }
      else engineOf s e' := by
  rw [dropRetained, engineOf_updEngine]

/-- Nothing is retained after that. -/
theorem nothingRetained_dropRetained (s : State) (e : Engine) : nothingRetained (dropRetained s e) e = true := by
  simp [nothingRetained, engineOf_dropRetained]

/-- What an engine holds after the stalled requests of `e` were presented again. -/
theorem engineOf_resumeStalled (s : State) (e e' : Engine) (rs : List Request) :
    engineOf (resumeStalled s e rs) e' =
      if e' = e then { engineOf s e with stalled := [], behind := [], availPending := false } else engineOf s e' :=
  (engineOf_congr (s := setEngine s e { engineOf s e with stalled := [], behind := [], availPending := false }) (t := resumeStalled s e rs) rfl e').trans
    (engineOf_setEngine s e e' _)

/-- The invalidation broadcast changes the inputs alone (R375). -/
theorem broadcastInvalidation_eq (s : State) :
    broadcastInvalidation s =
      { s with inputs := if s.hdc.serviceOff then s.inputs else .message (.gamTlbInvStart) :: s.inputs } := by
  unfold broadcastInvalidation
  split
  · rfl
  · rfl

/-- The LAST marker changes the page request queue and what belongs to it alone (R836, R837). -/
theorem markLast_eq (s : State) (ws : List Waiting) :
    markLast s ws = { s with
      pageRequests := (markLast s ws).pageRequests, nextPrg := (markLast s ws).nextPrg
      lastQueued := (markLast s ws).lastQueued, detached := (markLast s ws).detached } := by
  unfold markLast queueLast
  split
  · rfl
  · split <;> rfl

/-- Where DWord `k` of a context image lies: at the address its Global GTT entry gives, if that maps it (R340). -/
theorem imagePlace_eq (s : State) (lrca : BitVec 20) (k : Nat) :
    (imagePlace s lrca k).map (·.pa) = if imageMapped s lrca k then some (imageTarget s lrca k) else none := by
  have hv : imageVa lrca k = imageAddress lrca k := rfl
  have hpa : ∀ e : QWord, (leafTranslation s.params.haw .ggtt 1 false (imageAddress lrca k) e Rights.all).pa =
      addrField s.params.haw 12 e + (imageAddress lrca k).toNat % 4096 := by
    intro e
    simp [leafTranslation, leafBits, entryAddr_eq, pageOffset]
  unfold imagePlace imageMapped imageTarget
  dsimp only
  rw [hpa, hv, ggttTarget, ggttPresent, ggttSlot]
  by_cases h1 : bit (mem64 s (s.params.gsmBase + 8 * field (imageAddress lrca k) 12 20)) 0 = true <;>
    by_cases h2 : 8 * field (imageAddress lrca k) 12 20 + 8 ≤ s.params.gsmSize <;>
      by_cases h3 : physExists s (s.params.gsmBase + 8 * field (imageAddress lrca k) 12 20) 8 = true <;>
        by_cases h4 : physExists s (addrField s.params.haw 12 (mem64 s (s.params.gsmBase + 8 * field (imageAddress lrca k) 12 20)) +
          (imageAddress lrca k).toNat % 4096) 4 = true <;>
          simp [h1, h2, h3, h4, hpa]

/-- Where a mapped DWord is saved: its word is stored; an unmapped one is not. -/
theorem saveWord_cases (now : State) (e : Engine) (lrca : BitVec 20) (w : Word × Nat) (s : State) :
    (imageMapped now lrca w.2 = true ∧
      ∃ b, saveWord now e lrca w s = store s (imageTarget now lrca w.2) 4 (w.1.setWidth 64) b) ∨
    (imageMapped now lrca w.2 = false ∧ saveWord now e lrca w s = s) := by
  have hp := imagePlace_eq now lrca w.2
  unfold saveWord
  generalize imagePlace now lrca w.2 = o at hp ⊢
  cases o with
  | none =>
    right
    by_cases hm : imageMapped now lrca w.2 = true
    · rw [if_pos hm] at hp; simp at hp
    · exact ⟨by simpa using hm, rfl⟩
  | some t =>
    left
    by_cases hm : imageMapped now lrca w.2 = true
    · rw [if_pos hm] at hp
      have ht : t.pa = imageTarget now lrca w.2 := by simpa using hp
      exact ⟨hm, writerOf now (imageRequest now e .write) t, by rw [← ht]⟩
    · simp [hm] at hp

/-- Saving words of a context image changes memory and its history alone. -/
theorem saveWords_eq (now : State) (e : Engine) (lrca : BitVec 20) (ws : List (Word × Nat)) (s : State) :
    saveWords now e lrca ws s =
      { s with mem := (saveWords now e lrca ws s).mem, history := (saveWords now e lrca ws s).history } := by
  induction ws generalizing s with
  | nil => rfl
  | cons w ws ih =>
    unfold saveWords
    rcases saveWord_cases now e lrca w s with ⟨_, b, h⟩ | ⟨_, h⟩
    · rw [h, ih]; rfl
    · rw [h]; exact ih s

/-- It keeps memory canonical. -/
theorem wf_saveWords (now : State) (e : Engine) (lrca : BitVec 20) (ws : List (Word × Nat)) (s : State)
    (h : Memory.wf s.mem = true) : Memory.wf (saveWords now e lrca ws s).mem = true := by
  induction ws generalizing s with
  | nil => exact h
  | cons w ws ih =>
    unfold saveWords
    rcases saveWord_cases now e lrca w s with ⟨_, b, hw⟩ | ⟨_, hw⟩
    · rw [hw]; exact ih _ (wf_store _ _ _ _ _ h)
    · rw [hw]; exact ih _ h

/-- It leaves every byte outside the DWords saved. -/
theorem memRead_saveWords_outside (now : State) (e : Engine) (lrca : BitVec 20) (ws : List (Word × Nat)) (s : State) (x : Nat)
    (h : ∀ w ∈ ws, imageMapped now lrca w.2 = true → x < imageTarget now lrca w.2 ∨ imageTarget now lrca w.2 + 4 ≤ x) :
    memRead (saveWords now e lrca ws s).mem x = memRead s.mem x := by
  induction ws generalizing s with
  | nil => rfl
  | cons w ws ih =>
    unfold saveWords
    rw [ih _ fun q hq => h q (List.mem_cons_of_mem _ hq)]
    rcases saveWord_cases now e lrca w s with ⟨hm, b, hw⟩ | ⟨_, hw⟩
    · rw [hw]; exact memRead_store_outside _ _ _ _ _ _ (h w (by simp) hm)
    · rw [hw]

/-- A word saved is there afterwards, unless another of those saved with it overlaps it. -/
theorem memReadLe_saveWords (now : State) (e : Engine) (lrca : BitVec 20) (ws : List (Word × Nat)) (s : State) (w : Word × Nat)
    (h : Memory.wf s.mem = true) (hm : imageMapped now lrca w.2 = true) (hw : w ∈ ws)
    (hd : ∀ q ∈ ws, q = w ∨ imageApart now lrca w.2 q.2) :
    memReadLe (saveWords now e lrca ws s).mem (imageTarget now lrca w.2) 4 = w.1.setWidth 64 := by
  have key : ∀ (ws : List (Word × Nat)) (s : State), Memory.wf s.mem = true →
      (∀ q ∈ ws, q = w ∨ imageApart now lrca w.2 q.2) →
      (w ∈ ws ∨ ∀ k, k < 4 → memRead s.mem (imageTarget now lrca w.2 + k) = byteAt (w.1.setWidth 64) k) →
      ∀ k, k < 4 → memRead (saveWords now e lrca ws s).mem (imageTarget now lrca w.2 + k) = byteAt (w.1.setWidth 64) k := by
    intro ws
    induction ws with
    | nil => intro s _ _ hx k hk; exact (hx.resolve_left (by simp)) k hk
    | cons q ws ih =>
      intro s hs hd hx
      unfold saveWords
      have hs' : Memory.wf (saveWord now e lrca q s).mem = true := by
        rcases saveWord_cases now e lrca q s with ⟨_, b, hq⟩ | ⟨_, hq⟩
        · rw [hq]; exact wf_store _ _ _ _ _ hs
        · rw [hq]; exact hs
      refine ih _ hs' (fun q hq => hd q (List.mem_cons_of_mem _ hq)) ?_
      by_cases hqw : q = w
      · right
        rcases saveWord_cases now e lrca q s with ⟨_, b, hq⟩ | ⟨hn, _⟩
        · rw [hq, hqw]
          intro k hk
          exact memRead_memWriteLe_inside _ _ _ _ _ hk hs
        · rw [hqw, hm] at hn; cases hn
      · rcases hx with hx | hx
        · exact .inl ((List.mem_cons.1 hx).resolve_left fun h => hqw h.symm)
        · right
          rcases saveWord_cases now e lrca q s with ⟨hn, b, hq⟩ | ⟨_, hq⟩
          · rw [hq]
            intro k hk
            rw [← hx k hk]
            have := (hd q (by simp)).resolve_left hqw hn
            exact memRead_store_outside _ _ _ _ _ _ (by omega)
          · rw [hq]; exact hx
  have hk := key ws s h hd (.inl hw)
  apply eq_of_byteAt
  intro k _
  by_cases h4 : k < 4
  · rw [byteAt_memReadLe _ _ _ _ h4 (by omega), hk k h4]
  · rw [byteAt_memReadLe_above _ _ _ _ (by omega)]
    apply BitVec.eq_of_getLsbD_eq
    intro i hi
    have : (w.1.setWidth 64 : QWord).getLsbD (8 * k + i) = false := by
      rw [BitVec.getLsbD_setWidth, BitVec.getLsbD_of_ge w.1 _ (by omega), Bool.and_false]
    simp [byteAt, hi, this]

/-- A DWord that no page maps is not read from the image. -/
theorem imageOr_unmapped {s : State} {e : Engine} {lrca : BitVec 20} {k : Nat} (mask old : Word)
    (h : imageMapped s lrca k = false) : imageOr s e lrca k mask old = old := by
  have hp := imagePlace_eq s lrca k
  rw [h] at hp
  unfold imageOr
  generalize imagePlace s lrca k = o at hp ⊢
  cases o with
  | none => rfl
  | some t => simp at hp

/-- A mapped DWord of a context image, with nothing of the processor's waiting for a flush, is read as memory holds it (R154). -/
theorem imageOr_mapped {s : State} {e : Engine} {lrca : BitVec 20} {k : Nat} (mask old : Word)
    (h : imageMapped s lrca k = true) (hs : cpuSettled s = true) :
    imageOr s e lrca k mask old = (memReadLe s.mem (imageTarget s lrca k) 4).setWidth 32 &&& mask := by
  have hp := imagePlace_eq s lrca k
  rw [if_pos h] at hp
  unfold imageOr
  generalize imagePlace s lrca k = o at hp ⊢
  cases o with
  | none => simp at hp
  | some t =>
    have ht : t.pa = imageTarget s lrca k := by simpa using hp
    have hr : readData (advanceDraws s (16 * k)) (imageRequest s e .read) t 4 = memReadLe s.mem t.pa 4 :=
      readData_eq (s := advanceDraws s (16 * k)) (by simp [imageRequest, ownRequest]) (by simp [imageRequest, ownRequest])
        (by simp [imageRequest, ownRequest]) (.inr hs) 4
    simp only [hr, ht]

/-- Saving a context's part of the registers changes nothing but its image in memory (R40, R52, R80). -/
theorem saveLoaded_eq (s : State) (e : Engine) :
    saveLoaded s e = { s with mem := (saveLoaded s e).mem, history := (saveLoaded s e).history } := by
  unfold saveLoaded saveContext
  split
  · exact saveWords_eq _ _ _ _ _
  · rfl

/-- It keeps memory canonical. -/
theorem wf_saveLoaded (s : State) (e : Engine) (h : Memory.wf s.mem = true) : Memory.wf (saveLoaded s e).mem = true := by
  unfold saveLoaded saveContext
  split
  · exact wf_saveWords _ _ _ _ _ h
  · exact h

/-- Telling the scheduler changes nothing else (R842). -/
theorem notifyBad_eq (s : State) (e : Engine) (x : EngineSt) :
    notifyBad s e x = { s with notifications := (notifyBad s e x).notifications } := by
  unfold notifyBad notifyOut notifyScheduler
  split
  · split
    · split <;> rfl
    · rfl
  · rfl

/-- What closing a context does before its engine changes leaves the engines alone. -/
theorem engineOf_leaving (s : State) (e e' : Engine) (ws : List Waiting) (x : EngineSt) :
    engineOf (notifyBad (markLast (saveLoaded s e) ws) e x) e' = engineOf s e' := by
  rw [notifyBad_eq, markLast_eq, saveLoaded_eq]
  exact engineOf_congr rfl e'

/-- What an engine holds after the context of `e` was taken out (R833, R35). -/
theorem engineOf_closeContext (s : State) (e e' : Engine) :
    engineOf (closeContext s e) e' =
      if e' = e then
        { engineOf s e with
          ctx := none, pasidCache := none, outstanding := [], behind := [], contextBad := false, leaving := false
          mode := if (engineOf s e).mode = .running ∨ (engineOf s e).mode = .halted then .idle
            else (engineOf s e).mode }
      else engineOf s e' := by
  have hc : ∀ x, engineOf (if runsAdvanced (engineOf s e) then
      countPasid (notifyBad (markLast (saveLoaded s e) (engineOf s e).outstanding) e (engineOf s e)) (pasidOf (engineOf s e)) (-1)
      else notifyBad (markLast (saveLoaded s e) (engineOf s e).outstanding) e (engineOf s e)) x = engineOf s x := by
    intro x
    split
    · rw [engineOf_countPasid, engineOf_leaving]
    · rw [engineOf_leaving]
  unfold closeContext
  dsimp only
  rw [engineOf_updEngine, hc, hc]

/-- What taking a context out changes besides its engine: the page request queue, what the scheduler is told, the context image
in memory, and the PASID-state counters (R35). -/
theorem closeContext_eq (s : State) (e : Engine) :
    closeContext s e = { s with
      engines := (closeContext s e).engines
      pageRequests := (closeContext s e).pageRequests, nextPrg := (closeContext s e).nextPrg
      lastQueued := (closeContext s e).lastQueued, detached := (closeContext s e).detached
      notifications := (closeContext s e).notifications, mem := (saveLoaded s e).mem, history := (saveLoaded s e).history
      pasidCounts := if runsAdvanced (engineOf s e) then addPasidCount (pasidOf (engineOf s e)) (-1) s.pasidCounts
        else s.pasidCounts } := by
  unfold closeContext
  dsimp only
  rw [notifyBad_eq, markLast_eq, saveLoaded_eq]
  by_cases h : runsAdvanced (engineOf s e) = true
  · simp only [h, if_true]
    rfl
  · simp only [h]
    rfl

/-- While a fault of the engine waits, Context Available only stays pending (R825). -/
theorem contextAvailable_waits {s : State} {e : Engine} (h : cannotSwitch (engineOf s e) = true) :
    contextAvailable s e = updEngine s e fun x => { x with msgToGam := x.msgToGam ||| 1, availPending := true } := by
  simp [contextAvailable, h, keepAvailable]

/-- So it does while a reset of the engine waits that its requests must wait for (R871). -/
theorem contextAvailable_blocked {s : State} {e : Engine} (h : (engineOf s e).resetting = true) (hf : needsFence (engineOf s e) = true) :
    contextAvailable s e = updEngine s e fun x => { x with msgToGam := x.msgToGam ||| 1, availPending := true } := by
  simp [contextAvailable, fenceBlocked, h, hf, keepAvailable]

/-- While requests of the old context wait they are presented again first, and the message after them (R850). -/
theorem contextAvailable_fence {s : State} {e : Engine} (h : cannotSwitch (engineOf s e) = false)
    (hr : (engineOf s e).resetting = false) (hf : needsFence (engineOf s e) = true) :
    contextAvailable s e = resumeStalled (keepAvailable s e) e [] := by
  simp [contextAvailable, fenceBlocked, h, hr, hf]

/-- Otherwise the old context is out, nothing is retained and the handshake is at its first step (R850, R377). -/
theorem engineOf_contextAvailable {s : State} {e : Engine} (e' : Engine) (h : cannotSwitch (engineOf s e) = false)
    (hf : needsFence (engineOf s e) = false) :
    engineOf (contextAvailable s e) e' =
      if e' = e then
        { engineOf s e with
          ctx := none, pasidCache := none, outstanding := [], behind := [], contextBad := false, leaving := false
          mode := if (engineOf s e).mode = .running ∨ (engineOf s e).mode = .halted then .idle
            else (engineOf s e).mode
          invMark := (closeContext s e).history.length
          scopeMarks := []
          faulted := []
          phase := .available
          msgToGam := (engineOf s e).msgToGam &&& 0xFFFFFFFE
          msgToCs := (engineOf s e).msgToCs ||| 1 }
      else engineOf s e' := by
  have hx : ∀ (u : State) (l : List Input), engineOf { u with inputs := l } e' = engineOf u e' :=
    fun u l => engineOf_congr rfl e'
  have hun : contextAvailable s e = broadcastInvalidation
      { (updEngine (dropRetained (closeContext s e) e) e fun x =>
          { x with phase := .available, msgToGam := x.msgToGam &&& 0xFFFFFFFE, msgToCs := x.msgToCs ||| 1 }) with
        inputs := .message (receiveReadyMessage e) ::
          (updEngine (dropRetained (closeContext s e) e) e fun x =>
            { x with phase := .available, msgToGam := x.msgToGam &&& 0xFFFFFFFE, msgToCs := x.msgToCs ||| 1 }).inputs } := by
    unfold contextAvailable
    rw [if_neg (by simp [h, fenceBlocked, hf]), if_neg (by simp [hf])]
  rw [hun, broadcastInvalidation_eq]
  rw [hx, hx, engineOf_updEngine]
  split
  · rename_i he
    simp [engineOf_dropRetained, engineOf_closeContext]
  · rename_i he
    simp [engineOf_dropRetained, engineOf_closeContext, he]

/-- Context Launched in its place latches the five registers and counts the PASID (R850, R35); out of its place it does nothing. -/
theorem contextLaunched_out_of_place {s : State} {e : Engine} (h : (engineOf s e).phase ≠ .ready) :
    contextLaunched s e = s := by
  simp [contextLaunched, h]

/-- The command streamer's write to the descriptor registers, in its place (R850). -/
theorem writeDescriptors_ready {s : State} (d : QWord) {a : DescArgs} (h : (engineOf s a.eng).phase = .ready) :
    writeDescriptors d a s = updEngine s a.eng fun x => { x with regs := ⟨d, a.pdp0, a.pdp1, a.pdp2, a.pdp3⟩ } := by
  simp [writeDescriptors, h]

/-- Out of its place it does nothing. -/
theorem writeDescriptors_other {s : State} (d : QWord) {a : DescArgs} (h : (engineOf s a.eng).phase ≠ .ready) :
    writeDescriptors d a s = s := by
  simp [writeDescriptors, h]

/-- With nothing of an engine in flight its reset settles nothing (R871). -/
theorem settle_nil (s : State) : settle [] s = s := rfl

/-! ### Resets that wait -/

/-- The page requests at the MMIO registers that block a device reset are those of every engine (R871, R872). -/
theorem anyHeld_iff (s : State) : anyHeld s = true ↔ ∃ e, (engineOf s e).mmioRequests ≠ [] := by
  simp only [anyHeld, List.any_eq_true, Bool.not_eq_true', List.isEmpty_eq_false_iff]
  exact ⟨fun ⟨e, _, h⟩ => ⟨e, h⟩, fun ⟨e, h⟩ => ⟨e, by cases e <;> simp [allEngines], h⟩⟩

/-- A device reset that a page request blocks only marks itself and each engine's reset as waiting (R871, R872). -/
theorem requestFlr_held {s : State} (h : ∃ e, (engineOf s e).mmioRequests ≠ []) :
    (∀ e, engineOf (requestFlr s) e = { engineOf s e with resetting := true }) ∧
      requestFlr s = { s with engines := (requestFlr s).engines, flrPending := true } := by
  rw [requestFlr, if_pos ((anyHeld_iff s).2 h)]
  exact ⟨fun e => by cases e <;> rfl, by simp only [allEngines, List.foldl_cons, List.foldl_nil, updEngine, setEngine]⟩

/-- With no page request at the MMIO registers the device reset completes. -/
theorem requestFlr_free {s : State} (h : ∀ e, (engineOf s e).mmioRequests = []) : requestFlr s = flr s := by
  rw [requestFlr, if_neg]
  rw [anyHeld_iff]
  exact fun ⟨e, he⟩ => he (h e)

/-- What a word at a place of a list of numbered words is. -/
theorem mem_zipIdx_at {l : List Word} {n k : Nat} (h : k < l.length) : (l[k], n + k) ∈ l.zipIdx n := by
  rw [List.mk_add_mem_zipIdx_iff_getElem?, List.getElem?_eq_getElem h]

/-- The registers after a restore (R40, R52). -/
theorem restoreContext_regs (s : State) (e : Engine) (lrca : BitVec 20) :
    (restoreContext s e lrca).regs =
      { restoreTrtt s e lrca s.regs with gamMocs := s.regs.gamMocs.mapIdx (restoredMocs s e lrca) } := rfl

/-- The DWords of the TR-TT registers in the render engine's image. -/
theorem trtt_mem_imageWords (s : State) {k : Nat} (hk : k < 6) : ∃ w ∈ imageWords s .rcs, w.2 = s.params.imageTrtt + k :=
  ⟨_, List.mem_append.2 (.inl (mem_zipIdx_at (l := trttWords s.regs) (n := s.params.imageTrtt) (by simpa [trttWords] using hk))), rfl⟩

/-- The DWords of an engine's block of GAM_MOCS in its image. -/
theorem mocs_mem_imageWords (s : State) (e : Engine) {i : Nat} (hi : i < (mocsOfEngine s e).length) :
    ∃ w ∈ imageWords s e, w.2 = s.params.imageMocs + i :=
  ⟨_, List.mem_append.2 (.inr (mem_zipIdx_at hi)), rfl⟩

/-- A context none of whose image is mapped finds the registers as they are. -/
theorem restoreContext_unmapped {s : State} {e : Engine} {lrca : BitVec 20}
    (h : ∀ w ∈ imageWords s e, imageMapped s lrca w.2 = false) : (restoreContext s e lrca).regs = s.regs := by
  have ht : restoreTrtt s e lrca s.regs = s.regs := by
    unfold restoreTrtt
    split
    · rename_i he
      have hk : ∀ k, k < 6 → ∀ mask old, imageOr s e lrca (s.params.imageTrtt + k) mask old = old := by
        intro k hk mask old
        obtain ⟨w, hw, hw2⟩ := trtt_mem_imageWords s hk
        exact imageOr_unmapped _ _ (by rw [← hw2]; exact h w (by rw [he]; exact hw))
      have hj : s.regs.l3Ptr.extractLsb' 32 32 ++ s.regs.l3Ptr.extractLsb' 0 32 = s.regs.l3Ptr := by
        apply BitVec.eq_of_getLsbD_eq
        intro i hi
        rw [BitVec.getLsbD_append]
        split
        · simp_all
        · rename_i h32
          have h32 : 32 ≤ i := by simpa using h32
          simp [show i - 32 < 32 by omega, show 32 + (i - 32) = i by omega]
      simp only [hk 0 (by omega), hk 1 (by omega), hk 2 (by omega), hk 3 (by omega), hk 4 (by omega), hk 5 (by omega), hj]
    · rfl
  have hm : s.regs.gamMocs.mapIdx (restoredMocs s e lrca) = s.regs.gamMocs := by
    apply List.ext_getElem (by simp)
    intro j h1 h2
    rw [List.getElem_mapIdx]
    unfold restoredMocs
    dsimp only
    split
    · rename_i hb
      obtain ⟨w, hw, hw2⟩ := mocs_mem_imageWords s e (i := j - 64 * mocsBlock s.params e) (by
        simp only [mocsOfEngine, List.length_take, List.length_drop]; omega)
      exact imageOr_unmapped _ _ (by rw [← hw2]; exact h w hw)
    · rfl
  rw [restoreContext_regs, ht, hm]

/-- An entry of the engine's block of GAM_MOCS after a restore is what the mapped DWord of the image holds (R52). -/
theorem restoreContext_mocs {s : State} {e : Engine} {lrca : BitVec 20} {i : Nat} (hi : i < 64)
    (hl : 64 * mocsBlock s.params e + i < s.regs.gamMocs.length) (hm : imageMapped s lrca (s.params.imageMocs + i) = true)
    (hs : cpuSettled s = true) :
    (restoreContext s e lrca).regs.gamMocs.getD (64 * mocsBlock s.params e + i) 0 =
      (memReadLe s.mem (imageTarget s lrca (s.params.imageMocs + i)) 4).setWidth 32 := by
  rw [restoreContext_regs, List.getD_eq_getElem _ _ (by simpa using hl), List.getElem_mapIdx, restoredMocs, if_pos (by omega), show 64 * mocsBlock s.params e + i - 64 * mocsBlock s.params e = i by omega, imageOr_mapped _ _ hm hs]
  apply BitVec.eq_of_getLsbD_eq
  intro j hj
  have : ∀ j, j < 32 → (0xFFFFFFFF : Word).getLsbD j = true := by decide
  rw [BitVec.getLsbD_and, this j hj, Bool.and_true]
end Sys2Proof.Machine
end

