-- ==== Sys2Proof/Laws/Fault.lean ====
section
/-! SUPPORT. The laws of taking a page fault and of the response to it: which mode applies, and all that each mode does. -/

namespace Sys2Proof.Machine

open Sys2Proof

/-! ### Events -/

/-- The events of an engine with one more, unless it is there already (R810). -/
def addEvent (l : List Event) (v : Event) : List Event := if l.contains v then l else l ++ [v]

theorem mem_addEvent (l : List Event) (v : Event) : v ∈ addEvent l v := by
  unfold addEvent; split
  · rename_i h; simpa using h
  · simp

theorem subset_addEvent {l : List Event} {v w : Event} (h : w ∈ l) : w ∈ addEvent l v := by
  unfold addEvent; split
  · exact h
  · simp [h]

/-- Raising an event keeps the events a set. -/
theorem nodup_addEvent {l : List Event} (v : Event) (h : l.Nodup) : (addEvent l v).Nodup := by
  unfold addEvent; split
  · exact h
  · rename_i hc
    rw [List.nodup_append]
    refine ⟨h, by simp, ?_⟩
    intro a ha b hb
    simp only [List.mem_singleton] at hb
    subst hb
    rintro rfl
    exact hc (by simpa using ha)

/-- What an engine holds after an event of engine `e` was raised. -/
theorem engineOf_raiseEvent (s : State) (e e' : Engine) (v : Event) :
    engineOf (raiseEvent s e v) e' =
      if e' = e then { engineOf s e with events := addEvent (engineOf s e).events v } else engineOf s e' := by
  rw [raiseEvent, engineOf_updEngine]
  split
  · unfold addEvent; split <;> rfl
  · rfl

/-- What an engine holds after a request of engine `r.acc.eng` was kept waiting. -/
theorem engineOf_stall (s : State) (r : Request) (st : Status) (e' : Engine) :
    engineOf (stall s r st) e' =
      if e' = r.acc.eng then { engineOf s r.acc.eng with stalled := (engineOf s r.acc.eng).stalled ++ [r] }
      else engineOf s e' := by
  rw [stall, engineOf_complete, engineOf_updEngine]

/-- What an engine holds after a request of engine `r.acc.eng` was put behind one in Stream mode. -/
theorem engineOf_keepBehind (s : State) (r : Request) (e' : Engine) :
    engineOf (keepBehind s r) e' =
      if e' = r.acc.eng then { engineOf s r.acc.eng with behind := (engineOf s r.acc.eng).behind ++ [r] }
      else engineOf s e' := by
  rw [keepBehind, engineOf_complete, engineOf_updEngine]

/-! ### Which fault mode applies (R821) -/

/-- The request is not translated by the Global GTT. -/
theorem usesGgtt_false {r : Request} (h1 : r.acc.useGgtt = false) (h2 : r.acc.client ≠ .displayOverlay)
    (h3 : bit r.desc 3 = false) : usesGgtt r = false := by
  have : walkMode r.desc = .advanced := by simp [walkMode, h3]
  simp [usesGgtt, h1, h2, this]

/-- A legacy context hangs, and so does a Global GTT access. -/
theorem faultModeOf_hang (s : State) {r : Request} (h : usesGgtt r = true ∨ bit r.desc 3 = true) :
    faultModeOf s r = .ok .hang := by
  unfold faultModeOf
  split
  · rfl
  · rcases h with h | h
    · contradiction
    · simp [h]

/-- In an advanced context the GAM override makes every fault Fault-and-Halt (R822). -/
theorem faultModeOf_override {s : State} {r : Request} (h1 : usesGgtt r = false) (h2 : bit r.desc 3 = false)
    (h3 : bit s.regs.r404c 0 = true) : faultModeOf s r = .ok .halt := by
  simp [faultModeOf, h1, h2, h3]

/-- Without the override the Fault Model field decides (R821). -/
theorem faultModeOf_field {s : State} {r : Request} (h1 : usesGgtt r = false) (h2 : bit r.desc 3 = false)
    (h3 : bit s.regs.r404c 0 = false) :
    faultModeOf s r = match field r.desc 6 2 with
      | 0 => refuse .hangInAdvancedContext
      | 1 => .ok .halt
      | 2 => if streamCapable r.acc then .ok .stream else .ok .halt
      | _ => refuse .reservedFaultModel := by
  unfold faultModeOf
  simp only [h1, h2, h3, Bool.false_eq_true, if_false] <;>
    (generalize field r.desc 6 2 = k; rcases k with _ | _ | _ | k <;> rfl)

/-- A fault that hangs waits for no reset, and without one no fault does (R871). -/
theorem heldByReset_false {s : State} {e : Engine} {m : FaultMode} (h : m = .hang ∨ (engineOf s e).resetting = false) :
    heldByReset s e m = false := by
  rcases h with h | h <;> simp [heldByReset, h]

/-- Taking a fault in the mode that applies. -/
theorem takePageFault_of {s : State} {r : Request} {m : FaultMode} (va : QWord) (code : BitVec 2) (level : Nat)
    (h : faultModeOf s r = .ok m) (hr : m = .hang ∨ (engineOf s r.acc.eng).resetting = false) :
    takePageFault s r va code level = .ok (match m with
      | .hang => takeHang s r (faultRecord s r va code level) va
      | .halt => takeHalt s r (faultRecord s r va code level)
      | .stream => takeStream s r (faultRecord s r va code level)) := by
  simp only [takePageFault, h, bind, Except.bind, heldByReset_false hr, Bool.false_eq_true, if_false]
  cases m <;> rfl

/-- While a reset of the engine waits, a fault that would send a page request waits (R871). -/
theorem takePageFault_resetting {s : State} {r : Request} {m : FaultMode} (va : QWord) (code : BitVec 2) (level : Nat)
    (h : faultModeOf s r = .ok m) (hm : m ≠ .hang) (hr : (engineOf s r.acc.eng).resetting = true) :
    takePageFault s r va code level = .ok (stall s r .waiting) := by
  simp [takePageFault, h, bind, Except.bind, heldByReset, hr, hm, pure, Except.pure]

/-! ### All that each mode does -/

/-- A Hung or Wedged engine stays so (R832, R833). -/
theorem stick_of_stuck {x : EngineSt} (m : EngineMode) (h : x.stuck = true) : x.mode.stick m = x.mode := by
  simp only [EngineSt.stuck, Bool.or_eq_true, beq_iff_eq] at h
  rcases h with h | h <;> simp [h, EngineMode.stick]

/-- Any other engine takes the new mode. -/
theorem stick_of_not_stuck {x : EngineSt} (m : EngineMode) (h : x.stuck = false) : x.mode.stick m = m := by
  simp only [EngineSt.stuck, Bool.or_eq_false_iff, beq_eq_false_iff_ne, ne_eq] at h
  cases hm : x.mode <;> simp_all [EngineMode.stick]

/-- Fault-and-Hang (R820): the engine holds the request and the event, and hangs; nothing else but the completion changes. -/
theorem takeHang_eq {s : State} {r : Request} (f : PageFault) (va : QWord) (h : s.params.hangSkip = false) :
    (takeHang s r f va).completion = ⟨.never, 0, false, 0, 0, .wb, 0⟩ ∧
    engineOf (takeHang s r f va) r.acc.eng =
      { engineOf s r.acc.eng with
        stalled := (engineOf s r.acc.eng).stalled ++ [r]
        mode := (engineOf s r.acc.eng).mode.stick .hung
        events := addEvent (engineOf s r.acc.eng).events (.legacyPageFault va f.isWrite f.code) } ∧
    (∀ e, e ≠ r.acc.eng → engineOf (takeHang s r f va) e = engineOf s e) ∧
    takeHang s r f va = { s with
      engines := (takeHang s r f va).engines, completion := (takeHang s r f va).completion } := by
  have heq : takeHang s r f va = raiseEvent (updEngine (stall s r .never) r.acc.eng fun x =>
      { x with mode := x.mode.stick .hung }) r.acc.eng (.legacyPageFault va f.isWrite f.code) := by
    simp [takeHang, h]
  refine ⟨?_, ?_, ?_, ?_⟩
  · rw [heq]; rfl
  · rw [heq]; simp [engineOf_raiseEvent, engineOf_stall]
  · intro e he
    rw [heq]
    simp [engineOf_raiseEvent, engineOf_updEngine, engineOf_stall, he]
  · rw [heq]; rfl

/-- A fault that no faulted entry of its engine filters is reported under a new group index (R358). -/
theorem prgFor_new {s : State} {e : Engine} (f : PageFault) (h : filteringEntry s e f = none) : prgFor s e f = s.nextPrg := by
  simp [prgFor, h]

/-- No faulted entry of another page filters a fault. -/
theorem filteringEntry_other {s : State} {e : Engine} {f : PageFault}
    (h : ∀ p ∈ (engineOf s e).faulted, p.vaPage ≠ f.vaPage) : filteringEntry s e f = none := by
  rw [filteringEntry, List.find?_eq_none]
  intro p hp hc
  simp only [FaultedPage.covers, Bool.and_eq_true, beq_iff_eq] at hc
  exact h p hp hc.1.2

/-- Where no faulted entry filters a fault, none is lost before it (R358). -/
theorem loseVictims_none {s : State} {e : Engine} {f : PageFault} (h : filteringEntry s e f = none) : loseVictims s e f = s := by
  simp [loseVictims, h]

/-- The faulted entry of a fault reported under the next group index. -/
def newFaulted (s : State) (f : PageFault) : FaultedPage := ⟨f.pasid, f.vaPage, f.code, f.isWrite, f.er, s.nextPrg⟩

/-- Reporting a fault that no faulted entry filters: the page request is queued, its page is a faulted entry (R358, R825). -/
theorem reportFault_new {s : State} {e : Engine} (f : PageFault) (h : filteringEntry s e f = none) :
    reportFault s e f = updEngine (queuePageRequest s f) e fun x => { x with faulted := newFaulted s f :: x.faulted } := by
  simp [reportFault, h, newFaulted]

/-- Fault-and-Halt (R825) with no fault of the engine waiting: the page request is queued, the request waits at the top of the
miss queue, the engine halts. -/
theorem takeHalt_eq {s : State} {r : Request} (f : PageFault) (h : (engineOf s r.acc.eng).miss = none)
    (hf : filteringEntry s r.acc.eng f = none) :
    (takeHalt s r f).completion = ⟨.waiting, 0, false, 0, 0, .wb, 0⟩ ∧
    (takeHalt s r f).pageRequests = s.pageRequests ++ [⟨s.nextPrg, false, f⟩] ∧
    (takeHalt s r f).nextPrg = s.nextPrg + 1 ∧
    engineOf (takeHalt s r f) r.acc.eng =
      { engineOf s r.acc.eng with
        miss := some ⟨r, f, s.nextPrg⟩, mode := (engineOf s r.acc.eng).mode.stick .halted
        faulted := newFaulted s f :: (engineOf s r.acc.eng).faulted } ∧
    (∀ e, e ≠ r.acc.eng → engineOf (takeHalt s r f) e = engineOf s e) ∧
    takeHalt s r f = { s with
      engines := (takeHalt s r f).engines, pageRequests := (takeHalt s r f).pageRequests
      nextPrg := (takeHalt s r f).nextPrg, completion := (takeHalt s r f).completion } := by
  have heq : takeHalt s r f = complete (updEngine (updEngine (queuePageRequest s f) r.acc.eng fun x =>
      { x with faulted := newFaulted s f :: x.faulted }) r.acc.eng fun x =>
      { x with miss := some ⟨r, f, s.nextPrg⟩, mode := x.mode.stick .halted })
        ⟨.waiting, 0, false, 0, 0, .wb, 0⟩ := by
    simp [takeHalt, waitHalted, h, loseVictims_none hf, reportFault_new f hf, prgFor_new f hf]
  refine ⟨?_, ?_, ?_, ?_, ?_, ?_⟩
  · rw [heq]; rfl
  · rw [heq]; rfl
  · rw [heq]; rfl
  · rw [heq]; simp
  · intro e he
    rw [heq]
    simp [engineOf_updEngine, he]
  · rw [heq]; rfl

/-- Fault-and-Halt while another fault of the engine waits: the request waits behind it (R825). -/
theorem takeHalt_behind {s : State} {r : Request} {w : Waiting} (f : PageFault)
    (h : (engineOf s r.acc.eng).miss = some w) : takeHalt s r f = stall s r .waiting := by
  simp [takeHalt, h]

/-- An answer to a client without a translation draws three open values and changes nothing (R830). -/
theorem answerInvalid_client {s : State} {r : Request} (code : BitVec 2) (data : QWord) (h : r.origin = .client) :
    answerInvalid s r code data = s := by
  simp [answerInvalid, h]

/-- Fault-and-Stream (R829) of a client: the page request is queued, the request is outstanding, the fault counter rises, the
first fault is signalled, and the engine goes on. -/
theorem takeStream_eq {s : State} {r : Request} (f : PageFault) (h : r.origin = .client)
    (hf0 : filteringEntry s r.acc.eng f = none) :
    (takeStream s r f).completion.status = .faulted ∧ (takeStream s r f).completion.code = codeFor r f.code ∧
    (takeStream s r f).completion.nullIndicator = false ∧
    (takeStream s r f).pageRequests = s.pageRequests ++ [⟨s.nextPrg, false, f⟩] ∧
    (takeStream s r f).nextPrg = s.nextPrg + 1 ∧
    (takeStream s r f).regs = { s.regs with faultCount := s.regs.faultCount + 1 } ∧
    engineOf (takeStream s r f) r.acc.eng =
      { engineOf s r.acc.eng with
        outstanding := (engineOf s r.acc.eng).outstanding ++ [⟨r, f, s.nextPrg⟩]
        faulted := newFaulted s f :: (engineOf s r.acc.eng).faulted
        events := if (engineOf s r.acc.eng).outstanding = [] then
            addEvent (engineOf s r.acc.eng).events .streamFirstFault
          else (engineOf s r.acc.eng).events } ∧
    (∀ e, e ≠ r.acc.eng → engineOf (takeStream s r f) e = engineOf s e) ∧
    (takeStream s r f).mem = s.mem := by
  obtain ⟨x, hx⟩ : ∃ x, x = updEngine (updEngine (queuePageRequest s f) r.acc.eng fun y =>
    { y with faulted := newFaulted s f :: y.faulted }) r.acc.eng fun y =>
    { y with outstanding := y.outstanding ++ [⟨r, f, s.nextPrg⟩] } := ⟨_, rfl⟩
  obtain ⟨z, hz⟩ : ∃ z : State, z = { x with regs := { x.regs with faultCount := x.regs.faultCount + 1 } } := ⟨_, rfl⟩
  obtain ⟨y, hy⟩ : ∃ y, y = if (engineOf s r.acc.eng).outstanding = [] then raiseEvent z r.acc.eng .streamFirstFault else z :=
    ⟨_, rfl⟩
  have heq : takeStream s r f = advanceDraws (complete y
      ⟨.faulted, freeAt y 2, false, codeFor r f.code, 0, .wb, faultModeBits r.desc⟩) 3 := by
    by_cases hf : (engineOf s r.acc.eng).outstanding = [] <;>
      simp [takeStream, waitStreamed, answerFaulted, answerInvalid_client _ _ h, hf, hy, hz, hx, loseVictims_none hf0, prgFor_new f hf0,
        reportFault_new f hf0]
  have hze : ∀ e, engineOf z e = if e = r.acc.eng then { engineOf s r.acc.eng with
      outstanding := (engineOf s r.acc.eng).outstanding ++ [⟨r, f, s.nextPrg⟩]
      faulted := newFaulted s f :: (engineOf s r.acc.eng).faulted } else engineOf s e := by
    intro e
    rw [show engineOf z e = engineOf x e from engineOf_congr (by rw [hz]) e, hx, engineOf_updEngine]
    split
    · simp
    · rename_i he; simp [engineOf_updEngine, he]
  have hzr : z.regs = { s.regs with faultCount := s.regs.faultCount + 1 } := by rw [hz, hx]; rfl
  have hzp : z.pageRequests = s.pageRequests ++ [⟨s.nextPrg, false, f⟩] := by rw [hz, hx]; rfl
  have hzn : z.nextPrg = s.nextPrg + 1 := by rw [hz, hx]; rfl
  have hzm : z.mem = s.mem := by rw [hz, hx]; rfl
  have hye : ∀ e, engineOf y e = if e = r.acc.eng then { engineOf z r.acc.eng with
      events := if (engineOf s r.acc.eng).outstanding = [] then addEvent (engineOf z r.acc.eng).events .streamFirstFault
        else (engineOf z r.acc.eng).events } else engineOf z e := by
    intro e
    rw [hy]
    by_cases hf : (engineOf s r.acc.eng).outstanding = [] <;> by_cases he : e = r.acc.eng <;>
      simp [hf, he, engineOf_raiseEvent]
  have hys : y.regs = z.regs ∧ y.pageRequests = z.pageRequests ∧ y.nextPrg = z.nextPrg ∧ y.mem = z.mem := by
    rw [hy]; split <;> simp
  rw [heq]
  simp only [advanceDraws_completion, complete_completion, advanceDraws_pageRequests, complete_pageRequests, advanceDraws_nextPrg,
    complete_nextPrg, advanceDraws_regs, complete_regs, advanceDraws_mem, complete_mem, engineOf_advanceDraws, engineOf_complete,
    hys.1, hys.2.1, hys.2.2.1, hys.2.2.2, hzr, hzp, hzn, hzm, true_and, and_true]
  refine ⟨?_, ?_⟩
  · rw [hye, if_pos rfl, hze, if_pos rfl]
  · intro e he
    rw [hye, if_neg he, hze, if_neg he]

/-- An invalid access of a client (R832): the completion carries the code where the client takes one, and open values are drawn;
nothing else changes. -/
theorem invalidAccess_eq {s : State} {r : Request} (code : BitVec 2) (h : r.origin = .client) :
    invalidAccess s r code = { s with
      draws := s.draws + 3
      completion := ⟨.invalidAccess, if r.acc.kind = .write then 0 else Config.freeWord (s.draws + 2), false, codeFor r code, 0, .wb,
        faultModeBits r.desc⟩ } := by
  simp only [invalidAccess, answerInvalid_client _ _ h]
  rfl

/-- A catastrophic error of a client's request (R845): the event is pending, the engine is Wedged, its context in error. -/
theorem takeCatastrophic_eq {s : State} {r : Request} (cause : CatastrophicCause) (va : QWord) (h : r.origin = .client) :
    (takeCatastrophic s r cause va).completion.status = .invalidAccess ∧
    engineOf (takeCatastrophic s r cause va) r.acc.eng =
      { engineOf s r.acc.eng with
        events := addEvent (engineOf s r.acc.eng).events (.catastrophic cause (r.desc.extractLsb' 32 32) va)
        mode := (engineOf s r.acc.eng).mode.stick .wedged
        contextBad := true } ∧
    (∀ e, e ≠ r.acc.eng → engineOf (takeCatastrophic s r cause va) e = engineOf s e) ∧
    takeCatastrophic s r cause va = { s with
      engines := (takeCatastrophic s r cause va).engines
      completion := (takeCatastrophic s r cause va).completion
      draws := (takeCatastrophic s r cause va).draws } := by
  have hc : ∀ (x : State) (c : Completion) (n : Nat) (e : Engine),
      engineOf { x with draws := n, completion := c } e = engineOf x e := fun x c n e => engineOf_congr rfl e
  rw [takeCatastrophic, invalidAccess_eq _ h]
  refine ⟨rfl, ?_, ?_, rfl⟩
  · rw [hc]; simp [engineOf_raiseEvent]
  · intro e he
    rw [hc]; simp [engineOf_raiseEvent, engineOf_updEngine, he]

/-! ### The page response (R825, R841) -/

/-- The engine whose waiting request a page response matches. -/
theorem missMatches_iff (s : State) (prg : Nat) (e : Engine) :
    missMatches s prg e = true ↔ ∃ w, (engineOf s e).miss = some w ∧ w.prg = prg := by
  unfold missMatches
  split
  · rename_i w hw; simp [hw]
  · rename_i hn; simp [hn]

/-- An engine awaits a response exactly when a request of it waits for that group index. -/
theorem awaits_iff (s : State) (prg : Nat) (e : Engine) :
    awaits s prg e = true ↔
      (∃ w, (engineOf s e).miss = some w ∧ w.prg = prg) ∨ ∃ w ∈ (engineOf s e).outstanding, w.prg = prg := by
  simp only [awaits, Bool.or_eq_true, missMatches_iff]
  refine or_congr Iff.rfl ?_
  rw [outstandingMatches]
  cases hl : List.filter (fun w => w.prg == prg) (engineOf s e).outstanding with
  | nil =>
    simp only [List.isEmpty_nil, Bool.not_true, Bool.false_eq_true, false_iff, not_exists, not_and]
    intro w hw hp
    have : w ∈ List.filter (fun w => w.prg == prg) (engineOf s e).outstanding := by simp [hw, hp]
    rw [hl] at this; cases this
  | cons w l =>
    simp only [List.isEmpty_cons, Bool.not_false, true_iff]
    have : w ∈ List.filter (fun w => w.prg == prg) (engineOf s e).outstanding := by rw [hl]; simp
    simp only [List.mem_filter, beq_iff_eq] at this
    exact ⟨w, this⟩

/-- The one engine that awaits a response takes it. -/
theorem pageResponse_awaited {s : State} {e : Engine} {prg : Nat} (code : ResponseCode) (h : awaits s prg e = true)
    (hu : ∀ e', awaits s prg e' = true → e' = e) : pageResponse s prg code = endWaits s e prg code := by
  have hfind : allEngines.find? (awaits s prg) = some e := by
    cases hf : allEngines.find? (awaits s prg) with
    | none =>
      rw [List.find?_eq_none] at hf
      have : e ∈ allEngines := by cases e <;> simp [allEngines]
      exact absurd h (hf e this)
    | some e' => rw [hu e' (List.find?_some hf)]
  simp [pageResponse, hfind]

/-- What an engine holds after a page response dropped the faulted entries it answers: nothing else changes, on any engine (R370). -/
theorem engineOf_dropAnswered (s : State) (prg : Nat) (e : Engine) :
    engineOf (dropAnswered s prg) e =
      { engineOf s e with faulted := (engineOf s e).faulted.filter fun p => !p.answered prg (pagesOf s prg) } := by
  cases e <;> rfl

/-- The abandoned page requests stay when faulted entries are dropped. -/
theorem dropAnswered_detached (s : State) (prg : Nat) : (dropAnswered s prg).detached = s.detached := by
  simp only [dropAnswered, allEngines, List.foldl_cons, List.foldl_nil, updEngine_detached]

/-- What an engine holds after the retained translations of a page were dropped, on any engine (R370, R825). -/
theorem engineOf_dropPage (s : State) (w : Waiting) (e : Engine) :
    engineOf (dropPage s w) e =
      { engineOf s e with
        scopeMarks := ⟨some w.fault.pasid, some w.fault.vaPage, .all, s.history.length⟩ :: (engineOf s e).scopeMarks
        faulted := (engineOf s e).faulted.filter fun p =>
          !ScopeMark.coversFaulted ⟨some w.fault.pasid, some w.fault.vaPage, .all, s.history.length⟩ p } := by
  cases e <;> rfl

/-- A successful response to the request at the top of a miss queue, with none that waits in Stream mode (R825). -/
theorem endWaits_top {s : State} {e : Engine} {w : Waiting} (hw : (engineOf s e).miss = some w)
    (hs : outstandingMatches s w.prg e = []) :
    ∃ t, engineOf t e = clearWaits w.prg true (engineOf s e) ∧ (∀ e', e' ≠ e → engineOf t e' = engineOf s e') ∧
      t = { s with engines := t.engines, pageRequests := t.pageRequests, detached := t.detached } ∧
      t.pageRequests = s.pageRequests ∧
      endWaits s e w.prg .success =
        resumeStalled (dropPage { dropPageRequest (dropAnswered t w.prg) w.prg with
          detached := s.detached.filter (· != w.prg) } w) e [w.req] := by
  refine ⟨updEngine s e (clearWaits w.prg true), engineOf_updEngine_same s e _, fun e' he => engineOf_updEngine_other s _ he, rfl, rfl,
    ?_⟩
  have ht : topMatches s w.prg e = [w] := by simp [topMatches, hw]
  simp only [endWaits, ht, hs, failRequest, dropPageRequest_detached, dropAnswered_detached, updEngine_detached, reduceCtorEq, if_false, List.nil_append, List.foldl_cons, List.foldl_nil,
    List.filter_nil, List.map_cons, List.map_nil, decide_true]

/-- A response that matches nothing sets the UPRGI bit and is ignored. -/
theorem pageResponse_unexpected {s : State} {prg : Nat} (code : ResponseCode)
    (h : ∀ e, (∀ w, (engineOf s e).miss = some w → w.prg ≠ prg) ∧ ∀ w ∈ (engineOf s e).outstanding, w.prg ≠ prg)
    (hd : prg ∉ s.detached) (hl : ∀ q ∈ s.pageRequests, q.last = true → q.prg ≠ prg) :
    pageResponse s prg code = setUprgi s := by
  have h1 : allEngines.find? (awaits s prg) = none := by
    rw [List.find?_eq_none]
    intro e _ hm
    rcases (awaits_iff _ _ _).1 hm with ⟨w, hw, hp⟩ | ⟨w, hw, hp⟩
    · exact (h e).1 w hw hp
    · exact (h e).2 w hw hp
  have h3 : s.pageRequests.find? (fun q => q.last && q.prg == prg) = none := by
    rw [List.find?_eq_none]
    intro q hq hm
    simp only [Bool.and_eq_true, beq_iff_eq] at hm
    exact hl q hq hm.1 hm.2
  have h4 : s.detached.contains prg = false := by simpa using hd
  simp only [pageResponse, h1, h3, h4]
  rfl

end Sys2Proof.Machine
end

