-- ==== Sys2Proof/Laws/Frame.lean ====
section
/-! SUPPORT. What serving a request, taking a fault and walking tables can never change, said once for all of them: `Kept`. -/

namespace Sys2Proof.Machine

open Sys2Proof

/-- What no request and no fault changes of an engine: its registers, its context, the handshake, its caches; and the invariants
it keeps. -/
structure EngineKept (x y : EngineSt) : Prop where
  regs : y.regs = x.regs
  ctx : y.ctx = x.ctx
  phase : y.phase = x.phase
  msgToGam : y.msgToGam = x.msgToGam
  msgToCs : y.msgToCs = x.msgToCs
  pasidCache : y.pasidCache = x.pasidCache
  invMark : y.invMark = x.invMark
  halt : x.haltOk = true → y.haltOk = true
  events : x.eventsOk → y.eventsOk
  stuck : x.stuck = true → y.mode = x.mode

/-- What no request and no fault changes of the machine; memory keeps its canonical form. -/
structure Kept (s t : State) : Prop where
  params : t.params = s.params
  pci : t.pci = s.pci
  iommu : t.iommu = s.iommu
  pasidCounts : t.pasidCounts = s.pasidCounts
  memRanges : t.memRanges = s.memRanges
  lastQueued : t.lastQueued = s.lastQueued
  notifications : t.notifications = s.notifications
  palette : t.palette = s.palette
  regs : ∃ n f, t.regs = { s.regs with nullTileCount := n, faultCount := f }
  mem : Memory.wf s.mem = true → Memory.wf t.mem = true
  credits : ∀ src, creditsUsed t.hdc src = creditsUsed s.hdc src
  engines : ∀ e, EngineKept (engineOf s e) (engineOf t e)

theorem EngineKept.refl (x : EngineSt) : EngineKept x x :=
  ⟨rfl, rfl, rfl, rfl, rfl, rfl, rfl, id, id, fun _ => rfl⟩

theorem EngineKept.trans {x y z : EngineSt} (h : EngineKept x y) (g : EngineKept y z) : EngineKept x z where
  regs := g.regs.trans h.regs
  ctx := g.ctx.trans h.ctx
  phase := g.phase.trans h.phase
  msgToGam := g.msgToGam.trans h.msgToGam
  msgToCs := g.msgToCs.trans h.msgToCs
  pasidCache := g.pasidCache.trans h.pasidCache
  invMark := g.invMark.trans h.invMark
  halt := g.halt ∘ h.halt
  events := g.events ∘ h.events
  stuck := fun hs => by
    have h1 := h.stuck hs
    have h2 : y.stuck = true := by rw [EngineSt.stuck, h1]; exact hs
    rw [g.stuck h2, h1]

theorem Kept.refl (s : State) : Kept s s where
  params := rfl
  pci := rfl
  iommu := rfl
  pasidCounts := rfl
  memRanges := rfl
  lastQueued := rfl
  notifications := rfl
  palette := rfl
  regs := ⟨_, _, rfl⟩
  mem := id
  credits := fun _ => rfl
  engines := fun _ => EngineKept.refl _

theorem Kept.trans {s t u : State} (h : Kept s t) (g : Kept t u) : Kept s u where
  params := g.params.trans h.params
  pci := g.pci.trans h.pci
  iommu := g.iommu.trans h.iommu
  pasidCounts := g.pasidCounts.trans h.pasidCounts
  memRanges := g.memRanges.trans h.memRanges
  lastQueued := g.lastQueued.trans h.lastQueued
  notifications := g.notifications.trans h.notifications
  palette := g.palette.trans h.palette
  regs := by
    obtain ⟨n, f, hr⟩ := h.regs
    obtain ⟨n', f', gr⟩ := g.regs
    exact ⟨n', f', by rw [gr, hr]⟩
  mem := g.mem ∘ h.mem
  credits := fun src => (g.credits src).trans (h.credits src)
  engines := fun e => (h.engines e).trans (g.engines e)

/-- An update that leaves all of this alone keeps it. -/
theorem Kept.of_same {s t : State} (params : t.params = s.params) (mem : t.mem = s.mem) (engines : t.engines = s.engines)
    (regs : t.regs = s.regs) (pci : t.pci = s.pci) (iommu : t.iommu = s.iommu) (pasid : t.pasidCounts = s.pasidCounts)
    (ranges : t.memRanges = s.memRanges) (last : t.lastQueued = s.lastQueued) (notes : t.notifications = s.notifications)
    (palette : t.palette = s.palette) (hdc : t.hdc = s.hdc) : Kept s t where
  params := params
  pci := pci
  iommu := iommu
  pasidCounts := pasid
  memRanges := ranges
  lastQueued := last
  notifications := notes
  palette := palette
  regs := ⟨s.regs.nullTileCount, s.regs.faultCount, regs⟩
  mem := fun h => by rw [mem]; exact h
  credits := fun _ => by rw [hdc]
  engines := fun e => by rw [engineOf_congr engines e]; exact EngineKept.refl _

/-! ### The small operations -/

theorem kept_advanceDraws (s : State) (n : Nat) : Kept s (advanceDraws s n) :=
  .of_same rfl rfl rfl rfl rfl rfl rfl rfl rfl rfl rfl rfl

theorem kept_complete (s : State) (c : Completion) : Kept s (complete s c) :=
  .of_same rfl rfl rfl rfl rfl rfl rfl rfl rfl rfl rfl rfl

theorem kept_queuePageRequest (s : State) (f : PageFault) : Kept s (queuePageRequest s f) :=
  .of_same rfl rfl rfl rfl rfl rfl rfl rfl rfl rfl rfl rfl

theorem kept_inputs (s : State) (l : List Input) : Kept s { s with inputs := l } :=
  .of_same rfl rfl rfl rfl rfl rfl rfl rfl rfl rfl rfl rfl

theorem kept_store (s : State) (pa n : Nat) (v : QWord) (b : Writer) : Kept s (store s pa n v b) :=
  { Kept.refl s with
    mem := wf_store s pa n v b
    engines := fun e => by rw [engineOf_store]; exact EngineKept.refl _ }

/-- Changing one engine within what is kept. -/
theorem kept_updEngine (s : State) (e : Engine) {f : EngineSt → EngineSt} (h : EngineKept (engineOf s e) (f (engineOf s e))) :
    Kept s (updEngine s e f) :=
  { Kept.refl s with
    engines := fun e' => by
      rw [engineOf_updEngine]
      split
      · rename_i he; rw [he]; exact h
      · exact EngineKept.refl _ }

theorem kept_raiseEvent (s : State) (e : Engine) (v : Event) : Kept s (raiseEvent s e v) :=
  { Kept.refl s with
    engines := fun e' => by
      rw [engineOf_raiseEvent]
      split
      · rename_i he
        rw [he]
        exact { EngineKept.refl (engineOf s e) with events := nodup_addEvent v }
      · exact EngineKept.refl _ }

theorem kept_stall (s : State) (r : Request) (st : Status) : Kept s (stall s r st) :=
  { Kept.refl s with
    engines := fun e' => by
      rw [engineOf_stall]
      split
      · rename_i he
        rw [he]
        exact { EngineKept.refl (engineOf s r.acc.eng) with }
      · exact EngineKept.refl _ }

theorem kept_keepBehind (s : State) (r : Request) : Kept s (keepBehind s r) :=
  { Kept.refl s with
    engines := fun e' => by
      rw [engineOf_keepBehind]
      split
      · rename_i he
        rw [he]
        exact { EngineKept.refl (engineOf s r.acc.eng) with }
      · exact EngineKept.refl _ }

/-- Hung or Wedged is kept, and an engine that becomes either is not merely Halted. -/
theorem engineKept_stick (x : EngineSt) {m : EngineMode} (b : Bool) (h : m = .hung ∨ m = .wedged) :
    EngineKept x { x with mode := x.mode.stick m, contextBad := b } :=
  { EngineKept.refl x with
    halt := fun hh => by
      unfold EngineSt.haltOk at hh ⊢
      rcases h with rfl | rfl <;> cases hm : x.mode <;> cases hx : x.miss <;>
        simp_all [EngineMode.stick]
    events := id
    stuck := fun hs => stick_of_stuck m hs }

/-- The credits an HDC holds do not change where its response is sent or its request dropped. -/
theorem credits_drop (p d : List HdcRequest) (h : HdcRequest) (hp : p.contains h = true) (src : HdcId) :
    ((p.erase h ++ (d ++ [h])).filter fun r => r.src == src).length = ((p ++ d).filter fun r => r.src == src).length := by
  have hm : h ∈ p := by simpa using hp
  have hperm : (p.erase h ++ (d ++ [h])).Perm (p ++ d) := by
    have h1 : (h :: p.erase h).Perm p := (List.perm_cons_erase hm).symm
    calc (p.erase h ++ (d ++ [h])).Perm ((d ++ [h]) ++ p.erase h) := List.perm_append_comm
      _ = d ++ (h :: p.erase h) := by simp
      List.Perm _ (d ++ p) := List.Perm.append_left d h1
      List.Perm _ (p ++ d) := List.perm_append_comm
  exact (hperm.filter _).length_eq

theorem kept_sendHdcResponse (s : State) (h : HdcRequest) (g : GamResponse) : Kept s (sendHdcResponse s h g) := by
  unfold sendHdcResponse
  split
  · exact kept_inputs s _
  · split
    · rename_i hc
      exact { Kept.of_same (s := s) (t := s) rfl rfl rfl rfl rfl rfl rfl rfl rfl rfl rfl rfl with
        credits := fun src => credits_drop _ _ h hc src
        regs := ⟨_, _, rfl⟩
        engines := fun e => by rw [engineOf_congr (t := _) rfl e]; exact EngineKept.refl _ }
    · exact Kept.refl s

/-- Data that reaches the sampler is an input. -/
theorem kept_returnTexel (s : State) (r : Request) (t : TexelRead) (d : QWord) : Kept s (returnTexel s r t d) := by
  unfold returnTexel
  split
  · exact Kept.refl s
  · exact kept_inputs s _

theorem kept_answerInvalid (s : State) (r : Request) (c : BitVec 2) (d : QWord) : Kept s (answerInvalid s r c d) := by
  unfold answerInvalid
  split
  · exact Kept.refl s
  · exact kept_sendHdcResponse s _ _
  · exact kept_returnTexel s _ _ _

theorem kept_invalidAccess (s : State) (r : Request) (c : BitVec 2) : Kept s (invalidAccess s r c) :=
  ((kept_complete s _).trans (kept_answerInvalid _ r c _)).trans (kept_advanceDraws _ 3)

theorem kept_answerFaulted (s : State) (r : Request) (c : BitVec 2) : Kept s (answerFaulted s r c) :=
  ((kept_complete s _).trans (kept_answerInvalid _ r c _)).trans (kept_advanceDraws _ 3)

/-! ### Taking a fault -/

theorem kept_takeHang (s : State) (r : Request) (f : PageFault) (va : QWord) : Kept s (takeHang s r f va) := by
  unfold takeHang
  split
  · exact kept_invalidAccess s r _
  · exact ((kept_stall s r _).trans (kept_updEngine _ _ (engineKept_stick _ _ (.inl rfl)))).trans (kept_raiseEvent _ _ _)

theorem kept_reportFault (s : State) (e : Engine) (f : PageFault) : Kept s (reportFault s e f) := by
  unfold reportFault
  split
  · exact Kept.refl s
  · exact (kept_queuePageRequest s f).trans
      (kept_updEngine _ _ { EngineKept.refl (engineOf (queuePageRequest s f) e) with })

theorem kept_loseVictims (s : State) (e : Engine) (f : PageFault) : Kept s (loseVictims s e f) := by
  unfold loseVictims
  split
  · exact Kept.refl s
  · split
    · exact kept_advanceDraws s 1
    · exact (kept_advanceDraws s 1).trans (kept_updEngine _ _ { EngineKept.refl (engineOf (advanceDraws s 1) e) with })

theorem kept_waitHalted (s : State) (w : Waiting) : Kept s (waitHalted s w) := by
  refine (kept_updEngine s w.req.acc.eng ?_).trans (kept_complete _ _)
  exact { EngineKept.refl (engineOf s w.req.acc.eng) with
    halt := fun hh => by
      unfold EngineSt.haltOk at hh ⊢
      cases hm : (engineOf s w.req.acc.eng).mode <;> simp [EngineMode.stick]
    events := id
    stuck := fun hs => stick_of_stuck _ hs }

theorem kept_waitStreamed (s : State) (w : Waiting) : Kept s (waitStreamed s w) := by
  have h2 : ∀ u : State, Kept u (updEngine u w.req.acc.eng fun x => { x with outstanding := x.outstanding ++ [w] }) :=
    fun u => kept_updEngine u _ { EngineKept.refl (engineOf u w.req.acc.eng) with }
  have h3 : ∀ u : State, Kept u { u with regs := { u.regs with faultCount := u.regs.faultCount + 1 } } :=
    fun u => { Kept.refl u with
      regs := ⟨u.regs.nullTileCount, u.regs.faultCount + 1, rfl⟩
      engines := fun e => by rw [engineOf_congr (s := u) rfl e]; exact EngineKept.refl _ }
  have h4 : ∀ (u : State) (b : Bool), Kept u (if b then raiseEvent u w.req.acc.eng .streamFirstFault else u) := by
    intro u b
    cases b
    · exact Kept.refl u
    · exact kept_raiseEvent u _ _
  exact (((h2 s).trans (h3 _)).trans (h4 _ _)).trans (kept_answerFaulted _ w.req _)

theorem kept_takeHalt (s : State) (r : Request) (f : PageFault) : Kept s (takeHalt s r f) := by
  unfold takeHalt
  split
  · exact kept_stall s r _
  · exact ((kept_loseVictims s _ f).trans (kept_reportFault _ _ f)).trans (kept_waitHalted _ _)

theorem kept_takeStream (s : State) (r : Request) (f : PageFault) : Kept s (takeStream s r f) :=
  ((kept_loseVictims s _ f).trans (kept_reportFault _ _ f)).trans (kept_waitStreamed _ _)

/-- All that becomes of a request that faults behind others in Stream mode: it hangs, keeps behind, or waits for one of their responses
with the fault of its own walk (R805, R358). -/
theorem takeBehind_cases (m : FaultMode) (s : State) (r : Request) (f : PageFault) (va : QWord) (prgs : List Nat) :
    takeBehind m s r f va prgs = takeHang s r f va ∨ takeBehind m s r f va prgs = keepBehind s r ∨
    ∃ p, filteringEntry s r.acc.eng f = some p ∧ prgs.all (· == p.prg) = true ∧
      (takeBehind m s r f va prgs = waitStreamed s ⟨r, f, p.prg⟩ ∨
        takeBehind m s r f va prgs = waitHalted s ⟨r, f, p.prg⟩ ∧ (engineOf s r.acc.eng).miss = none) := by
  unfold takeBehind
  split
  · exact .inl rfl
  · split
    · exact .inr (.inl rfl)
    · rename_i p hp
      obtain ⟨h1, h2⟩ := Option.filter_eq_some_iff.1 hp
      split
      · exact .inr (.inr ⟨p, h1, h2, .inl rfl⟩)
      · split
        · exact .inr (.inl rfl)
        · rename_i hm
          exact .inr (.inr ⟨p, h1, h2, .inr ⟨rfl, by simpa using hm⟩⟩)

theorem kept_takeBehind (m : FaultMode) (s : State) (r : Request) (f : PageFault) (va : QWord) (prgs : List Nat) :
    Kept s (takeBehind m s r f va prgs) := by
  rcases takeBehind_cases m s r f va prgs with h | h | ⟨_, _, _, h | ⟨h, _⟩⟩ <;> rw [h]
  · exact kept_takeHang s r f va
  · exact kept_keepBehind s r
  · exact kept_waitStreamed s _
  · exact kept_waitHalted s _

theorem kept_takeFault (m : FaultMode) (s : State) (r : Request) (f : PageFault) (va : QWord) : Kept s (takeFault m s r f va) := by
  cases m
  · exact kept_takeHang s r f va
  · exact kept_takeHalt s r f
  · exact kept_takeStream s r f

theorem kept_takeUnrecoverable (s : State) (r : Request) (c : BitVec 2) : Kept s (takeUnrecoverable s r c) := by
  have h : EngineKept (engineOf s r.acc.eng)
      { engineOf s r.acc.eng with mode := (engineOf s r.acc.eng).mode.stick .wedged } :=
    engineKept_stick (engineOf s r.acc.eng) (m := .wedged) (engineOf s r.acc.eng).contextBad (.inr rfl)
  exact (kept_updEngine s r.acc.eng (f := fun x => { x with mode := x.mode.stick .wedged }) h).trans
    (kept_invalidAccess _ r c)

theorem kept_takeTableFault {s t : State} {r : Request} {va : QWord} {c : BitVec 2} {l : Nat}
    (h : takeTableFault s r va c l = .ok t) : Kept s t := by
  have held : ∀ (b : Bool) (f : PageFault), Kept s (if b then stall s r .waiting else takeHalt s r f) := by
    intro b f
    cases b
    · exact kept_takeHalt s r f
    · exact kept_stall s r _
  obtain ⟨m, _, h⟩ := bind_ok.1 h
  cases m <;> simp only [pure, Except.pure, Except.ok.injEq] at h <;> rw [← h]
  · exact kept_takeUnrecoverable s r c
  · exact held _ _
  · exact held _ _

theorem kept_takePageFault {s t : State} {r : Request} {va : QWord} {c : BitVec 2} {l : Nat}
    (h : takePageFault s r va c l = .ok t) : Kept s t := by
  obtain ⟨m, _, h⟩ := bind_ok.1 h
  simp only [pure, Except.pure, Except.ok.injEq] at h
  rw [← h]
  split
  · exact kept_stall s r _
  · exact kept_takeFault _ _ _ _ _

theorem kept_takeCatastrophic (s : State) (r : Request) (c : CatastrophicCause) (va : QWord) :
    Kept s (takeCatastrophic s r c va) := by
  unfold takeCatastrophic
  exact ((kept_raiseEvent s _ _).trans (kept_updEngine _ _ (engineKept_stick _ _ (.inr rfl)))).trans
    (kept_invalidAccess _ r 0)

/-! ### Walks -/

/-- Two operations in a row keep what each keeps. -/
theorem kept_bind {α β : Type} {x : Res (α × State)} {f : α × State → Res (β × State)} {s t : State} {b : β}
    (h : x.bind f = .ok (b, t)) (hx : ∀ a u, x = .ok (a, u) → Kept s u)
    (hf : ∀ a u, f (a, u) = .ok (b, t) → Kept u t) : Kept s t := by
  obtain ⟨⟨a, u⟩, h1, h2⟩ := bind_ok.1 h
  exact (hx a u h1).trans (hf a u h2)

/-- An operation that answers a state keeps what the two before it keep. -/
theorem kept_bind_state {α : Type} {x : Res (α × State)} {f : α × State → Res State} {s t : State}
    (h : x.bind f = .ok t) (hx : ∀ a u, x = .ok (a, u) → Kept s u)
    (hf : ∀ a u, f (a, u) = .ok t → Kept u t) : Kept s t := by
  obtain ⟨⟨a, u⟩, h1, h2⟩ := bind_ok.1 h
  exact (hx a u h1).trans (hf a u h2)

theorem kept_readEntry {s t : State} {e : Engine} {c : WalkCtl} {fresh : Bool} {va : QWord} {level : Nat} {ips : Bool} {pa : Nat}
    {q : Option QWord} (h : readEntry s e c fresh va level ips pa = .ok (q, t)) : Kept s t := by
  rcases (readEntry_cases h).2 with rfl | ⟨_, _, n, _, rfl⟩
  · exact Kept.refl _
  · exact kept_store s pa 8 n Writer.gam

theorem kept_walkFrom {e : Engine} {c : WalkCtl} {fresh : Bool} {va : QWord} {l base : Nat} {ips : Bool} {acc : Rights}
    {s t : State} {w : WalkEnd} (h : walkFrom e c fresh va l base ips acc s = .ok (w, t)) : Kept s t := by
  induction l generalizing base ips acc s with
  | zero =>
    simp only [walkFrom, pure, Except.pure, Except.ok.injEq, Prod.mk.injEq] at h
    rw [← h.2]; exact Kept.refl s
  | succ l ih =>
    rw [walkFrom] at h
    refine kept_bind h (fun a u hu => kept_readEntry hu) ?_
    intro q u hu
    dsimp only at hu
    split at hu
    · simp only [pure, Except.pure, Except.ok.injEq, Prod.mk.injEq] at hu
      rw [← hu.2]; exact Kept.refl _
    · split at hu
      · simp [refuse] at hu
      · split at hu
        · exact ih hu
        · simp only [pure, Except.pure, Except.ok.injEq, Prod.mk.injEq] at hu
          rw [← hu.2]; exact Kept.refl _

theorem kept_walkGgtt {e : Engine} {c : WalkCtl} {fresh : Bool} {va : QWord} {s t : State} {w : WalkEnd}
    (h : walkGgtt e c fresh va s = .ok (w, t)) : Kept s t := by
  simp only [walkGgtt] at h
  split at h
  · simp only [pure, Except.pure, Except.ok.injEq, Prod.mk.injEq] at h
    rw [← h.2]; exact Kept.refl s
  · refine kept_bind h (fun a u hu => kept_readEntry hu) ?_
    intro q u hu
    dsimp only at hu
    split at hu <;> simp only [pure, Except.pure, Except.ok.injEq, Prod.mk.injEq] at hu <;>
      (rw [← hu.2]; exact Kept.refl _)

theorem kept_walkOnce {s t : State} {r : Request} {va : QWord} {wr fresh : Bool} {w : WalkEnd}
    (h : walkOnce s r va wr fresh = .ok (w, t)) : Kept s t := by
  unfold walkOnce at h
  dsimp only at h
  split at h
  · exact kept_walkGgtt h
  · exact kept_walkFrom h
  · exact kept_walkFrom h
  · split at h
    · simp [refuse] at h
    · split at h
      · simp [refuse] at h
      · exact kept_walkFrom h

theorem kept_translate {s t : State} {r : Request} {va : QWord} {wr fresh : Bool} {w : WalkEnd}
    (h : translate s r va wr fresh = .ok (w, t)) : Kept s t := by
  unfold translate at h
  refine kept_bind h (fun a u hu => kept_walkOnce hu) ?_
  intro w1 u hu
  dsimp only at hu
  have hend : ∀ (w2 : WalkEnd) (v : State),
      (pure (w2, advanceDraws v 8) : Res (WalkEnd × State)) = Except.ok (w, t) → Kept v t := by
    intro w2 v hv
    simp only [pure, Except.pure, Except.ok.injEq, Prod.mk.injEq] at hv
    rw [← hv.2]; exact kept_advanceDraws v 8
  split at hu
  · refine kept_bind hu (fun a v hv => (kept_advanceDraws u 8).trans (kept_walkOnce hv)) ?_
    intro w2 v hv
    exact hend w2 v hv
  · exact hend w1 u hu

theorem kept_trRead {s t : State} {r : Request} {va : QWord} {level a n : Nat} {fresh : Bool} {x : TrRead}
    (h : trRead s r va level a n fresh = .ok (x, t)) : Kept s t := by
  have hc : ∀ (u : State) (k : CacheControls), Kept u { u with cache := k } :=
    fun u k => .of_same rfl rfl rfl rfl rfl rfl rfl rfl rfl rfl rfl rfl
  unfold trRead at h
  dsimp only at h
  split at h
  · simp [refuse] at h
  · split at h
    · simp [refuse] at h
    · refine kept_bind h (fun a u hu => kept_translate hu) ?_
      intro w u hu
      dsimp only at hu
      split at hu
      · obtain ⟨_, _, h2⟩ := bind_ok.1 hu
        simp only [pure, Except.pure, Except.ok.injEq, Prod.mk.injEq] at h2
        rw [← h2.2]; exact hc _ _
      · simp only [pure, Except.pure, Except.ok.injEq, Prod.mk.injEq] at hu
        rw [← hu.2]; exact Kept.refl _
      · simp only [pure, Except.pure, Except.ok.injEq, Prod.mk.injEq] at hu
        rw [← hu.2]; exact Kept.refl _

theorem kept_trWalk {s t : State} {r : Request} {va : QWord} {fresh : Bool} {x : TrOut}
    (h : trWalk s r va fresh = .ok (x, t)) : Kept s t := by
  have fin : ∀ {u : State} {o : TrOut}, (pure (o, u) : Res (TrOut × State)) = .ok (x, t) → Kept u t := by
    intro u o ho
    simp only [pure, Except.pure, Except.ok.injEq, Prod.mk.injEq] at ho
    rw [← ho.2]; exact Kept.refl _
  unfold trWalk at h
  refine kept_bind h (fun a u hu => kept_trRead hu) ?_
  intro x3 u hu
  dsimp only at hu
  split at hu
  · exact fin hu
  · split at hu
    · refine kept_bind hu (fun a v hv => kept_trRead hv) ?_
      intro x2 v hv
      dsimp only at hv
      split at hv
      · exact fin hv
      · split at hv
        · refine kept_bind hv (fun a v' hv' => kept_trRead hv') ?_
          intro x1 y hy
          dsimp only at hy
          split at hy
          · exact fin hy
          · exact fin hy
        · exact fin hv
    · exact fin hu

theorem kept_noteTile (s : State) (e : Engine) (x : TrEnd) : Kept s (noteTile s e x) := by
  unfold noteTile
  split
  · exact { Kept.refl s with
      regs := ⟨s.regs.nullTileCount + 1, s.regs.faultCount, rfl⟩
      engines := fun e => by rw [engineOf_congr (s := s) rfl e]; exact EngineKept.refl _ }
  · exact kept_raiseEvent s _ _
  · exact Kept.refl s

/-! ### Serving a request -/

theorem kept_resolveVa {s t : State} {r : Request} {va : QWord} {fresh : Bool} {x : Resolved}
    (h : resolveVa s r va fresh = .ok (x, t)) : Kept s t := by
  unfold resolveVa at h
  refine kept_bind h (fun a u hu => kept_translate hu) ?_
  intro w u hu
  simp only [pure, Except.pure, Except.ok.injEq, Prod.mk.injEq] at hu
  rw [← hu.2]; exact Kept.refl _

theorem kept_resolve {s t : State} {r : Request} {va : QWord} {fresh : Bool} {x : Resolved}
    (h : resolve s r va fresh = .ok (x, t)) : Kept s t := by
  unfold resolve at h
  obtain ⟨b, _, h⟩ := bind_ok.1 h
  split at h
  · refine kept_bind h (fun a u hu => kept_trWalk hu) ?_
    intro o u hu
    dsimp only at hu
    split at hu
    · simp only [pure, Except.pure, Except.ok.injEq, Prod.mk.injEq] at hu
      rw [← hu.2]; exact Kept.refl _
    · exact kept_resolveVa hu
    · split at hu
      · simp [refuse] at hu
      · simp only [pure, Except.pure, Except.ok.injEq, Prod.mk.injEq] at hu
        rw [← hu.2]; exact Kept.refl _
  · exact kept_resolveVa h

theorem kept_resolvePieces {s t : State} {r : Request} {fresh : Bool} {ps : List Piece}
    (h : resolvePieces s r fresh = .ok (ps, t)) : Kept s t := by
  have fin : ∀ {u : State} {o : List Piece}, (pure (o, u) : Res (List Piece × State)) = .ok (ps, t) → Kept u t := by
    intro u o ho
    simp only [pure, Except.pure, Except.ok.injEq, Prod.mk.injEq] at ho
    rw [← ho.2]; exact Kept.refl _
  unfold resolvePieces at h
  refine kept_bind h (fun a u hu => kept_resolve hu) ?_
  intro x u hu
  dsimp only at hu
  split at hu
  · exact fin hu
  · split at hu
    · exact fin hu
    · exact fin hu
    · exact fin hu
    · refine kept_bind hu (fun a v hv => kept_resolve hv) ?_
      intro y v hv
      exact fin hv

theorem kept_writePieces (s : State) (q : Request) (ps : List Piece) (v : QWord) : Kept s (writePieces s q ps v) := by
  induction ps generalizing s v with
  | nil => exact Kept.refl s
  | cons p ps ih =>
    rw [writePieces]
    refine Kept.trans ?_ (ih _ _)
    split
    · exact kept_store s _ _ _ _
    · exact Kept.refl s

/-- What is fetched beside an access is noted. -/
theorem kept_noteBeside (e : Engine) (ps : List Piece) (s : State) : Kept s (noteBeside e ps s) := by
  induction ps generalizing s with
  | nil => exact Kept.refl s
  | cons p r ih =>
    rw [noteBeside]
    refine Kept.trans ?_ (ih _)
    split
    · exact kept_noteTile s e _
    · exact Kept.refl s

theorem kept_noteTiles (s : State) (e : Engine) (ps : List Piece) : Kept s (noteTiles s e ps) := by
  have h : ∀ (u : State) (b : Bool) (x : TrEnd), Kept u (if b then noteTile u e x else u) := by
    intro u b x
    cases b
    · exact Kept.refl u
    · exact kept_noteTile u e x
  unfold noteTiles
  exact ((h s _ _).trans (h _ _ _)).trans (kept_noteBeside e ps _)

theorem kept_perform {s t : State} {r : Request} {ps : List Piece} (h : perform s r ps = .ok t) : Kept s t := by
  unfold perform at h
  obtain ⟨_, _, h⟩ := bind_ok.1 h
  dsimp only at h
  have hn := kept_noteTiles s r.acc.eng ps
  have hw : ∀ (u : State) (c : Completion),
      Kept u (advanceDraws (complete (writePieces u r ps r.acc.data) c) 8) :=
    fun u c => ((kept_writePieces u r ps _).trans (kept_complete _ c)).trans (kept_advanceDraws _ 8)
  have hr : ∀ (u : State) (c : Completion) (n : Nat), Kept u (advanceDraws (complete u c) n) :=
    fun u c n => (kept_complete u c).trans (kept_advanceDraws _ n)
  refine hn.trans ?_
  generalize noteTiles s r.acc.eng ps = u at h ⊢
  split at h
  · simp only [pure, Except.pure, Except.ok.injEq] at h
    rw [← h]
    exact (hr u _ 8).trans (kept_sendHdcResponse _ _ _)
  · split at h
    · split at h <;> simp only [pure, Except.pure, Except.ok.injEq] at h <;> rw [← h]
      · exact (hr u _ 16).trans (kept_returnTexel _ _ _ _)
      · exact hr u _ 16
    · simp only [pure, Except.pure, Except.ok.injEq] at h
      rw [← h]; exact hw u _
    · split at h <;> simp only [pure, Except.pure, Except.ok.injEq] at h <;> rw [← h]
      · exact kept_takeCatastrophic u r _ _
      · exact hw u _

theorem kept_setAside (f : OnFault) (s : State) (r : Request) : Kept s (setAside f s r) := by
  unfold setAside
  split
  · exact kept_keepBehind s r
  · exact kept_stall s r _

theorem kept_faultBehind (s : State) (r : Request) (m : FaultMode) (f : PageFault) (va : QWord) (prgs : List Nat) :
    Kept s (faultBehind s r m f va prgs) := by
  unfold faultBehind
  split
  · exact kept_invalidAccess s r _
  · exact kept_takeBehind m s r f va prgs

theorem kept_onFault {f : OnFault} {s t : State} {r : Request} {va : QWord} {c : BitVec 2} {l : Nat}
    (h : onFault f s r va c l = .ok t) : Kept s t := by
  cases f with
  | take => exact kept_takePageFault h
  | invalid =>
    simp only [onFault, Except.ok.injEq] at h
    rw [← h]; exact kept_invalidAccess s r _
  | behind prgs =>
    obtain ⟨m, _, h⟩ := bind_ok.1 h
    simp only [pure, Except.pure, Except.ok.injEq] at h
    rw [← h]; exact kept_faultBehind s r m _ va prgs
  | _ =>
    simp only [onFault, Except.ok.injEq] at h
    rw [← h]; exact kept_stall s r _

theorem kept_onTableFault {f : OnFault} {s t : State} {r : Request} {va : QWord} {c : BitVec 2} {l : Nat}
    (h : onTableFault f s r va c l = .ok t) : Kept s t := by
  cases f with
  | take => exact kept_takeTableFault h
  | invalid =>
    simp only [onTableFault, Except.ok.injEq] at h
    rw [← h]; exact kept_invalidAccess s r _
  | behind prgs =>
    obtain ⟨m, _, h⟩ := bind_ok.1 h
    cases m <;> simp only [pure, Except.pure, Except.ok.injEq] at h <;> rw [← h]
    · exact kept_takeUnrecoverable s r c
    · exact kept_faultBehind s r _ _ va prgs
    · exact kept_faultBehind s r _ _ va prgs
  | _ =>
    simp only [onTableFault, Except.ok.injEq] at h
    rw [← h]; exact kept_stall s r _

theorem kept_onNonWb (f : OnFault) (s : State) (r : Request) (va : QWord) : Kept s (onNonWb f s r va) := by
  cases f
  · exact kept_takeCatastrophic s r _ _
  · exact kept_setAside .wait s r
  · exact kept_takeCatastrophic s r _ _
  · exact kept_setAside .discard s r
  · rename_i prgs
    exact kept_setAside (.behind prgs) s r

/-- What follows for a resolved request. -/
theorem kept_conclude {s t : State} {r : Request} {f : OnFault} {ps : List Piece} (h : conclude s r f ps = .ok t) :
    Kept s t := by
  unfold conclude at h
  split at h
  · exact kept_onFault h
  · exact kept_onTableFault h
  · simp only [pure, Except.pure, Except.ok.injEq] at h
    rw [← h]; exact kept_onNonWb f _ r _
  · exact kept_perform h

theorem kept_auxPieces {s t : State} {r : Request} {ps qs : List Piece} {fresh : Bool}
    (h : auxPieces s r ps fresh = .ok (qs, t)) : Kept s t := by
  have fin : ∀ {u : State} {o : List Piece}, (pure (o, u) : Res (List Piece × State)) = .ok (qs, t) → Kept u t := by
    intro u o ho
    simp only [pure, Except.pure, Except.ok.injEq, Prod.mk.injEq] at ho
    rw [← ho.2]; exact Kept.refl _
  unfold auxPieces at h
  split at h
  · split at h
    · exact fin h
    · refine kept_bind h (fun a u hu => kept_resolve hu) ?_
      intro x u hu
      dsimp only at hu
      split at hu
      · exact fin hu
      · simp [refuse] at hu
      · exact fin hu
      · exact fin hu
  · exact fin h

theorem kept_touchPads {r : Request} {fresh : Bool} {vas : List QWord} {s t : State} {qs : List Piece}
    (h : touchPads r fresh vas s = .ok (qs, t)) : Kept s t := by
  induction vas generalizing s t qs with
  | nil =>
    simp only [touchPads, pure, Except.pure, Except.ok.injEq, Prod.mk.injEq] at h
    rw [← h.2]; exact Kept.refl _
  | cons va rest ih =>
    rw [touchPads] at h
    split at h
    · exact (kept_advanceDraws s 1).trans (ih h)
    · refine kept_bind h (fun a u hu => (kept_advanceDraws s 1).trans (kept_resolve hu)) ?_
      intro x u hu
      dsimp only at hu
      split at hu
      · exact ih hu
      · refine kept_bind hu (fun a v hv => ih hv) ?_
        intro x v hv
        simp only [pure, Except.pure, Except.ok.injEq, Prod.mk.injEq] at hv
        rw [← hv.2]; exact Kept.refl _
      · simp only [pure, Except.pure, Except.ok.injEq, Prod.mk.injEq] at hu
        rw [← hu.2]; exact Kept.refl _

theorem kept_padPieces {s t : State} {r : Request} {ps qs : List Piece} {fresh : Bool}
    (h : padPieces s r ps fresh = .ok (qs, t)) : Kept s t := by
  unfold padPieces at h
  split at h
  · refine kept_bind h (fun a u hu => kept_touchPads hu) ?_
    intro x u hu
    simp only [pure, Except.pure, Except.ok.injEq, Prod.mk.injEq] at hu
    rw [← hu.2]; exact Kept.refl _
  · simp only [pure, Except.pure, Except.ok.injEq, Prod.mk.injEq] at h
    rw [← h.2]; exact Kept.refl _

theorem kept_allPieces {s t : State} {r : Request} {qs : List Piece} {fresh : Bool}
    (h : allPieces s r fresh = .ok (qs, t)) : Kept s t := by
  unfold allPieces at h
  refine kept_bind h (fun a u hu => kept_resolvePieces hu) ?_
  intro ps u hu
  refine kept_bind hu (fun a v hv => kept_auxPieces hv) ?_
  intro ps v hv
  exact kept_padPieces hv

theorem kept_serveHere {s t : State} {r : Request} {fresh : Bool} {f : OnFault} (h : serveHere s r fresh f = .ok t) :
    Kept s t := by
  unfold serveHere at h
  split at h
  · simp [refuse] at h
  · obtain ⟨⟨ps, u⟩, h1, h⟩ := bind_ok.1 h
    dsimp only at h
    split at h
    · exact (kept_allPieces h1).trans (kept_conclude h)
    · simp only [Except.ok.injEq] at h
      rw [← h]; exact (kept_advanceDraws s _).trans (kept_setAside f _ r)

/-- A request that sees older control registers changes none of them (R901). -/
theorem kept_serveNow {s t : State} {r : Request} {fresh : Bool} {f : OnFault} (h : serveNow s r fresh f = .ok t) :
    Kept s t := by
  unfold serveNow at h
  split at h
  · exact kept_serveHere h
  · obtain ⟨u, hu, h⟩ := bind_ok.1 h
    simp only [pure, Except.pure, Except.ok.injEq] at h
    have k := kept_serveHere hu
    obtain ⟨n, m, hr⟩ := k.regs
    rw [← h]
    exact { k with
      regs := ⟨n, m, by rw [hr]; rfl⟩
      engines := fun e => by
        have he := k.engines e
        cases e <;> exact he }

/-- Serving a request behind others in Stream mode. -/
theorem kept_serveBehind {s t : State} {r : Request} {fresh : Bool} {prgs : List Nat} (h : serveBehind s r fresh prgs = .ok t) :
    Kept s t := by
  unfold serveBehind at h
  dsimp only at h
  split at h
  · simp only [Except.ok.injEq] at h
    rw [← h]
    split
    · exact (kept_advanceDraws s 1).trans (kept_invalidAccess _ r _)
    · exact (kept_advanceDraws s 1).trans (kept_keepBehind _ r)
  · split at h
    · simp only [Except.ok.injEq] at h
      rw [← h]; exact kept_keepBehind s r
    · exact kept_serveNow h

/-- Serving a request, whatever becomes of it. -/
theorem kept_serve {s t : State} {r : Request} {fresh : Bool} (h : serve s r fresh = .ok t) : Kept s t := by
  unfold serve at h
  dsimp only at h
  split at h
  · simp only [Except.ok.injEq] at h
    rw [← h]; exact kept_stall s r _
  · split at h
    · simp only [Except.ok.injEq] at h
      rw [← h]; exact kept_stall s r _
    · split at h
      · simp only [Except.ok.injEq] at h
        rw [← h]; exact kept_stall s r _
      · split at h
        · simp only [Except.ok.injEq] at h
          rw [← h]; exact kept_keepBehind s r
        · split at h
          · exact kept_serveBehind h
          · split at h
            · simp only [Except.ok.injEq] at h
              rw [← h]; exact (kept_advanceDraws s 1).trans (kept_stall _ r _)
            · exact (kept_advanceDraws s 1).trans (kept_serveNow h)
          · split at h
            · simp only [Except.ok.injEq] at h
              rw [← h]; exact (kept_advanceDraws s 1).trans (kept_invalidAccess _ r _)
            · exact (kept_advanceDraws s 1).trans (kept_serveNow h)
          · exact kept_serveNow h

/-- A request under the loaded context. -/
theorem kept_serveLoaded {s t : State} {a : Access} {o : Origin} {pads : List QWord} (h : serveLoaded s a o pads = .ok t) :
    Kept s t := by
  unfold serveLoaded at h
  dsimp only at h
  split at h
  · exact kept_serve h
  · split at h
    · exact kept_serve h
    · simp only [Except.ok.injEq] at h
      rw [← h]; exact kept_stall s _ _

/-- A request presented again. -/
theorem kept_presentAgain {s t : State} {r : Request} {fresh : Bool} (h : presentAgain s r fresh = .ok t) : Kept s t := by
  unfold presentAgain at h
  split at h
  · exact kept_serve h
  · split at h
    · exact kept_serve h
    · simp only [Except.ok.injEq] at h
      rw [← h]; exact kept_stall s r _

/-- A request that waited. -/
theorem kept_resume {s t : State} {r : Request} (h : resume s r = .ok t) : Kept s t := kept_presentAgain h

/-- A request whose page was repaired. -/
theorem kept_rewalk {s t : State} {r : Request} (h : rewalk s r = .ok t) : Kept s t := kept_presentAgain h

/-- The request that stands for a page-table atomic in a catastrophic error (R845). -/
def atomicRequest (s : State) (a : AtomicArgs) : Request :=
  ownRequest s ⟨a.eng, .coherentReadWrite, .atomic, false, false, false, false, false, true, 0, 7, a.pa, 0⟩
    (pointersOf (engineOf s a.eng)).desc

/-- A page-table atomic that changes nothing writes nothing and returns the entry (R420). -/
theorem entryAtomic_same {f : QWord → QWord} {a : AtomicArgs} {s : State} (hp : physExists s a.pa.toNat 8 = true)
    (hf : f (mem64 s a.pa.toNat) = mem64 s a.pa.toNat) :
    entryAtomic f a s = .ok { s with atomicReturn := mem64 s a.pa.toNat } := by
  simp [entryAtomic, checkPhys, hp, hf, bind, Except.bind, pure, Except.pure]

/-- One that changes the entry, where that is allowed, stores the new value and returns it (R420, R452). -/
theorem entryAtomic_store {f : QWord → QWord} {a : AtomicArgs} {s : State} (ha : atomicAllowed s a = true)
    (hf : f (mem64 s a.pa.toNat) ≠ mem64 s a.pa.toNat) :
    entryAtomic f a s = .ok { store s a.pa.toNat 8 (f (mem64 s a.pa.toNat)) Writer.gam with
      atomicReturn := f (mem64 s a.pa.toNat) } := by
  simp only [atomicAllowed, Bool.and_eq_true] at ha
  simp only [entryAtomic, checkPhys, ha.1, hf, bind, Except.bind, pure, Except.pure, if_true, if_false]
  rw [if_pos]
  · simp [applyAtomic, hf]
  · simpa [adUpdateAllowed] using ha.2

/-- One that must change an entry where that is not allowed is aborted with a catastrophic error (R452, R845). -/
theorem entryAtomic_abort {f : QWord → QWord} {a : AtomicArgs} {s : State} (hp : physExists s a.pa.toNat 8 = true)
    (ha : atomicAllowed s a = false) (hf : f (mem64 s a.pa.toNat) ≠ mem64 s a.pa.toNat) :
    entryAtomic f a s = .ok (takeCatastrophic s (atomicRequest s a) .adUpdateNonWb a.pa) := by
  simp only [atomicAllowed, hp, Bool.true_and] at ha
  simp only [entryAtomic, checkPhys, hp, hf, bind, Except.bind, pure, Except.pure, if_true, if_false]
  rw [if_neg]
  · rfl
  · simpa [adUpdateAllowed] using ha

/-- A page-table atomic presented as an object. -/
theorem kept_entryAtomic {f : QWord → QWord} {a : AtomicArgs} {s t : State} (h : entryAtomic f a s = .ok t) : Kept s t := by
  have hret : ∀ (u : State) (q : QWord), Kept u { u with atomicReturn := q } :=
    fun u q => .of_same rfl rfl rfl rfl rfl rfl rfl rfl rfl rfl rfl rfl
  by_cases hp : physExists s a.pa.toNat 8 = true
  · by_cases hf : f (mem64 s a.pa.toNat) = mem64 s a.pa.toNat
    · rw [entryAtomic_same hp hf, Except.ok.injEq] at h
      rw [← h]; exact hret s _
    · by_cases ha : atomicAllowed s a = true
      · rw [entryAtomic_store ha hf, Except.ok.injEq] at h
        rw [← h]; exact (kept_store s _ _ _ _).trans (hret _ _)
      · rw [entryAtomic_abort hp (by simpa using ha) hf, Except.ok.injEq] at h
        rw [← h]; exact kept_takeCatastrophic s _ _ _
  · simp [entryAtomic, checkPhys, hp, bind, Except.bind] at h

/-- The rights a walk has accumulated when it reads an entry of a level (R320). -/
def entryRights (s : State) (d : Dialect) (level : Nat) : Rights :=
  if isTopLevel d level then Rights.all else s.walk.rights

/-- What a paging entry presented as an object does (R311). -/
theorem walkEntry_eq (d : Dialect) (level : Nat) (ips : Bool) (e : QWord) (a : Access) (s : State) :
    walkEntry d level ips e a s =
      match entryStep s.params.haw (entryCtl s d a) level ips a.va (entryRights s d level) e with
      | .fault code l =>
        takePageFault { s with walk := ⟨Rights.all, false, .fault code l⟩ } (entryRequest s d a) a.va code l
      | .next l base ips' => .ok { s with walk := ⟨accumulateIn d (entryRights s d level) e, ips', .next l base ips'⟩ }
      | w => .ok { s with walk := ⟨Rights.all, false, w⟩ } := by
  unfold walkEntry entryRights
  rfl

/-- A paging entry presented as an object. -/
theorem kept_walkEntry {d : Dialect} {level : Nat} {ips : Bool} {e : QWord} {a : Access} {s t : State}
    (h : walkEntry d level ips e a s = .ok t) : Kept s t := by
  have hw : ∀ (u : State) (w : WalkLatch), Kept u { u with walk := w } :=
    fun u w => .of_same rfl rfl rfl rfl rfl rfl rfl rfl rfl rfl rfl rfl
  rw [walkEntry_eq] at h
  split at h
  · exact (hw s _).trans (kept_takePageFault h)
  · simp only [Except.ok.injEq] at h
    rw [← h]; exact hw s _
  · simp only [Except.ok.injEq] at h
    rw [← h]; exact hw s _

/-- A paging entry that the decoder rejects. -/
theorem kept_rejectedEntry {p : Port} {a : Access} {level : Nat} {s t : State} (h : rejectedEntry p a level s = .ok t) :
    Kept s t := by
  have hw : ∀ (u : State) (w : WalkLatch), Kept u { u with walk := w } :=
    fun u w => .of_same rfl rfl rfl rfl rfl rfl rfl rfl rfl rfl rfl rfl
  unfold rejectedEntry at h
  dsimp only at h
  exact (hw s _).trans (kept_takePageFault h)

/-- The requests that an engine reset discards: each happened or did not. -/
theorem kept_settle (rs : List Request) (s : State) : Kept s (settle rs s) := by
  induction rs generalizing s with
  | nil => exact Kept.refl s
  | cons r rs ih =>
    rw [settle]
    split
    · exact (kept_advanceDraws s 1).trans (ih _)
    · split
      · rename_i h
        exact ((kept_advanceDraws s 1).trans (kept_serveNow h)).trans (ih _)
      · exact (kept_advanceDraws s 1).trans (ih _)

end Sys2Proof.Machine
end

