-- ==== Sys2Proof/Laws/PerInstr.lean ====
section
/-! SUPPORT. One statement about every instruction as syntax: at its port an object has one of few lengths, so the decoder knows how
many bytes to take. One lemma per constructor. -/

namespace Sys2Proof.Laws

open Sys2Proof

/-! ### The lengths of operands -/

@[simp] theorem length_engine (x : Engine) : x.put.length = 1 := rfl
@[simp] theorem length_client (x : Client) : x.put.length = 1 := rfl
@[simp] theorem length_kind (x : AccessKind) : x.put.length = 1 := rfl
@[simp] theorem length_elem (x : ElemBits) : x.put.length = 1 := rfl
@[simp] theorem length_samples (x : Samples) : x.put.length = 1 := rfl
@[simp] theorem length_bool (x : Bool) : (putBool x).length = 1 := rfl
@[simp] theorem length_small {n : Nat} (x : BitVec n) : (putSmall x).length = 1 := rfl
@[simp] theorem length_atomic (x : AtomicArgs) : x.put.length = 9 := by simp [AtomicArgs.put]
@[simp] theorem length_access (x : Access) : x.put.length = 27 := by simp [Access.put]
@[simp] theorem length_desc (x : DescArgs) : x.put.length = 33 := by simp [DescArgs.put]
@[simp] theorem length_fault (x : FaultArgs) : x.put.length = 29 := by simp [FaultArgs.put]
@[simp] theorem length_gtt (x : GttUpdateArgs) : x.put.length = 8 := by simp [GttUpdateArgs.put]
@[simp] theorem length_hdcId (x : HdcId) : x.put.length = 2 := by simp [HdcId.put]
@[simp] theorem length_hdcRequest (x : HdcRequest) : x.put.length = 14 := by simp [HdcRequest.put]
@[simp] theorem length_hdcAck (x : HdcAck) : x.put.length = 3 := by simp [HdcAck.put]
@[simp] theorem length_responseKind (x : ResponseKind) : x.put.length = 1 := rfl
@[simp] theorem length_gamResponse (x : GamResponse) : x.put.length = 14 := by simp [GamResponse.put]
@[simp] theorem length_type (x : TypeArgs) : x.put.length = 1 := by simp [TypeArgs.put]
@[simp] theorem length_format (x : FormatFlags) : x.put.length = 2 := by simp [FormatFlags.put]
@[simp] theorem length_tile (x : TileArgs) : x.put.length = 23 := by simp [TileArgs.put]
@[simp] theorem length_mocsIndex (x : MocsIndex) : x.put.length = 1 := by simp [MocsIndex.put]
@[simp] theorem length_mocsSlot (x : MocsSlot) : x.put.length = 2 := by simp [MocsSlot.put]

/-- The lengths in bytes of the objects of a port, operands included (log entry 5). -/
def objectLengths : Port → List Nat
  | .atomicPage => [10]
  | .atomicA => [10]
  | .ctxMode => [35]
  | .elementDescriptor => [41]
  | .faultModel => [37]
  | .ia32ePml4 => [35]
  | .ia32ePdp => [35]
  | .ia32ePd => [35]
  | .ia32ePt64 => [35]
  | .ia32ePt4 => [35]
  | .legacy32Pd => [35]
  | .legacyPt64 => [35]
  | .legacyPt4 => [35]
  | .legacyPml4 => [35]
  | .legacyPdp => [35]
  | .legacyPd => [35]
  | .ggttPte => [35]
  | .trttL3 => [35]
  | .trttL2 => [35]
  | .trttL1 => [31]
  | .va4Level => [6]
  | .vaPpgtt32 => [4]
  | .vaGgtt => [4]
  | .vaTrtt => [6]
  | .miUpdateGtt => [12]
  | .hdcToGam => [15, 4]
  | .gamToHdc => [15, 2, 1]
  | .faultCode => [30]
  | .memType => [2]
  | .etc1 => [10]
  | .etc2 => [10]
  | .etc2Pta => [10]
  | .eacR11 => [10]
  | .etc2EacRgba8 => [18]
  | .eacRg11 => [18]
  | .fxt1 => [18]
  | .dxt1 => [10]
  | .dxt1Rgb => [10]
  | .dxt23 => [18]
  | .dxt45 => [18]
  | .bc4 => [10]
  | .bc5 => [18]
  | .bc6h => [18]
  | .bc7 => [18]
  | .astcMode => [16]
  | .astcCem => [16]
  | .astcFormat => [2]
  | .tile _ => [23]
  | .messageToGam _ => [4]
  | .messageToCs _ => [4]
  | .lncfcmocs => [3]
  | .gamMocs => [6]

/-- The bytes of an object have one of the lengths of its port. -/
def Codec.Statement (i : Instr) : Prop := (encode i).length ∈ objectLengths i.port

theorem Codec.atomicPageUpdate0000 (a : AtomicArgs) : Codec.Statement (.atomicPageUpdate0000 a) :=
  .head _
theorem Codec.atomicPageUpdate0001 (a : AtomicArgs) : Codec.Statement (.atomicPageUpdate0001 a) :=
  .head _
theorem Codec.atomicPageUpdate0010 (a : AtomicArgs) : Codec.Statement (.atomicPageUpdate0010 a) :=
  .head _
theorem Codec.atomicPageUpdate0011 (a : AtomicArgs) : Codec.Statement (.atomicPageUpdate0011 a) :=
  .head _
theorem Codec.atomicPageUpdate0100 (a : AtomicArgs) : Codec.Statement (.atomicPageUpdate0100 a) :=
  .head _
theorem Codec.atomicPageUpdate0101 (a : AtomicArgs) : Codec.Statement (.atomicPageUpdate0101 a) :=
  .head _
theorem Codec.atomicPageUpdate0110 (a : AtomicArgs) : Codec.Statement (.atomicPageUpdate0110 a) :=
  .head _
theorem Codec.atomicPageUpdate0111 (a : AtomicArgs) : Codec.Statement (.atomicPageUpdate0111 a) :=
  .head _
theorem Codec.atomicPageUpdate1000 (a : AtomicArgs) : Codec.Statement (.atomicPageUpdate1000 a) :=
  .head _
theorem Codec.atomicPageUpdate1001 (a : AtomicArgs) : Codec.Statement (.atomicPageUpdate1001 a) :=
  .head _
theorem Codec.atomicPageUpdate1010 (a : AtomicArgs) : Codec.Statement (.atomicPageUpdate1010 a) :=
  .head _
theorem Codec.atomicPageUpdate1011 (a : AtomicArgs) : Codec.Statement (.atomicPageUpdate1011 a) :=
  .head _
theorem Codec.atomicPageUpdate1100 (a : AtomicArgs) : Codec.Statement (.atomicPageUpdate1100 a) :=
  .head _
theorem Codec.atomicPageUpdate1101 (a : AtomicArgs) : Codec.Statement (.atomicPageUpdate1101 a) :=
  .head _
theorem Codec.atomicPageUpdate1110 (a : AtomicArgs) : Codec.Statement (.atomicPageUpdate1110 a) :=
  .head _
theorem Codec.atomicPageUpdate1111 (a : AtomicArgs) : Codec.Statement (.atomicPageUpdate1111 a) :=
  .head _
theorem Codec.atomicAUpdate000 (a : AtomicArgs) : Codec.Statement (.atomicAUpdate000 a) :=
  .head _
theorem Codec.atomicAUpdate001 (a : AtomicArgs) : Codec.Statement (.atomicAUpdate001 a) :=
  .head _
theorem Codec.atomicAUpdate010 (a : AtomicArgs) : Codec.Statement (.atomicAUpdate010 a) :=
  .head _
theorem Codec.atomicAUpdate011 (a : AtomicArgs) : Codec.Statement (.atomicAUpdate011 a) :=
  .head _
theorem Codec.atomicAUpdate100 (a : AtomicArgs) : Codec.Statement (.atomicAUpdate100 a) :=
  .head _
theorem Codec.atomicAdUpdate101 (a : AtomicArgs) : Codec.Statement (.atomicAdUpdate101 a) :=
  .head _
theorem Codec.atomicAdUpdate110 (a : AtomicArgs) : Codec.Statement (.atomicAdUpdate110 a) :=
  .head _
theorem Codec.atomicAdUpdate111 (a : AtomicArgs) : Codec.Statement (.atomicAdUpdate111 a) :=
  .head _
theorem Codec.ctxLegacyGgtt (d : QWord) (a : Access) : Codec.Statement (.ctxLegacyGgtt d a) :=
  .head _
theorem Codec.ctxLegacyPpgtt32 (d : QWord) (a : Access) : Codec.Statement (.ctxLegacyPpgtt32 d a) :=
  .head _
theorem Codec.ctxLegacyPpgtt48 (d : QWord) (a : Access) : Codec.Statement (.ctxLegacyPpgtt48 d a) :=
  .head _
theorem Codec.ctxAdvanced (d : QWord) (a : Access) : Codec.Statement (.ctxAdvanced d a) :=
  .head _
theorem Codec.elementDescriptor (d : QWord) (a : DescArgs) : Codec.Statement (.elementDescriptor d a) :=
  .head _
theorem Codec.faultModelHang (d : QWord) (a : FaultArgs) : Codec.Statement (.faultModelHang d a) :=
  .head _
theorem Codec.faultModelHalt (d : QWord) (a : FaultArgs) : Codec.Statement (.faultModelHalt d a) :=
  .head _
theorem Codec.faultModelStreamSwitch (d : QWord) (a : FaultArgs) : Codec.Statement (.faultModelStreamSwitch d a) :=
  .head _
theorem Codec.faultModelReserved (d : QWord) (a : FaultArgs) : Codec.Statement (.faultModelReserved d a) :=
  .head _
theorem Codec.ia32ePml4e (e : QWord) (a : Access) : Codec.Statement (.ia32ePml4e e a) :=
  .head _
theorem Codec.ia32ePdpePd (e : QWord) (a : Access) : Codec.Statement (.ia32ePdpePd e a) :=
  .head _
theorem Codec.ia32ePdpe1gb (e : QWord) (a : Access) : Codec.Statement (.ia32ePdpe1gb e a) :=
  .head _
theorem Codec.ia32ePdePt (e : QWord) (a : Access) : Codec.Statement (.ia32ePdePt e a) :=
  .head _
theorem Codec.ia32ePde2mb (e : QWord) (a : Access) : Codec.Statement (.ia32ePde2mb e a) :=
  .head _
theorem Codec.ia32ePte64kb (e : QWord) (a : Access) : Codec.Statement (.ia32ePte64kb e a) :=
  .head _
theorem Codec.ia32ePte4kb (e : QWord) (a : Access) : Codec.Statement (.ia32ePte4kb e a) :=
  .head _
theorem Codec.legacy32Pde (e : QWord) (a : Access) : Codec.Statement (.legacy32Pde e a) :=
  .head _
theorem Codec.legacyPte64kb (e : QWord) (a : Access) : Codec.Statement (.legacyPte64kb e a) :=
  .head _
theorem Codec.legacyPte4kb (e : QWord) (a : Access) : Codec.Statement (.legacyPte4kb e a) :=
  .head _
theorem Codec.legacy64Pml4e (e : QWord) (a : Access) : Codec.Statement (.legacy64Pml4e e a) :=
  .head _
theorem Codec.legacy64PdpePd (e : QWord) (a : Access) : Codec.Statement (.legacy64PdpePd e a) :=
  .head _
theorem Codec.legacy64Pdpe1gb (e : QWord) (a : Access) : Codec.Statement (.legacy64Pdpe1gb e a) :=
  .head _
theorem Codec.legacy64PdePt (e : QWord) (a : Access) : Codec.Statement (.legacy64PdePt e a) :=
  .head _
theorem Codec.legacy64Pde2mb (e : QWord) (a : Access) : Codec.Statement (.legacy64Pde2mb e a) :=
  .head _
theorem Codec.ggttPte (e : QWord) (a : Access) : Codec.Statement (.ggttPte e a) :=
  .head _
theorem Codec.trttL3e (e : QWord) (a : Access) : Codec.Statement (.trttL3e e a) :=
  .head _
theorem Codec.trttL2e (e : QWord) (a : Access) : Codec.Statement (.trttL2e e a) :=
  .head _
theorem Codec.trttL1e (e : Word) (a : Access) : Codec.Statement (.trttL1e e a) :=
  .head _
theorem Codec.vaIndex4level (v : BitVec 48) : Codec.Statement (.vaIndex4level v) :=
  .head _
theorem Codec.vaIndexPpgtt32 (v : Word) : Codec.Statement (.vaIndexPpgtt32 v) :=
  .head _
theorem Codec.vaIndexGgtt (v : Word) : Codec.Statement (.vaIndexGgtt v) :=
  .head _
theorem Codec.vaIndexTrtt (v : BitVec 48) : Codec.Statement (.vaIndexTrtt v) :=
  .head _
theorem Codec.miUpdateGttAddr (v : Word) (a : GttUpdateArgs) : Codec.Statement (.miUpdateGttAddr v a) :=
  .head _
theorem Codec.hdcPageRequest (a : HdcRequest) : Codec.Statement (.hdcPageRequest a) :=
  .head _
theorem Codec.hdcTlbInvResponse (a : HdcAck) : Codec.Statement (.hdcTlbInvResponse a) :=
  .tail _ (.head _)
theorem Codec.gamPageResponse (a : GamResponse) : Codec.Statement (.gamPageResponse a) :=
  .head _
theorem Codec.gamTlbInvStart : Codec.Statement .gamTlbInvStart :=
  .tail _ (.head _)
theorem Codec.gamTlbInvEnd : Codec.Statement .gamTlbInvEnd :=
  .tail _ (.head _)
theorem Codec.gamResponseOpcodeReserved : Codec.Statement .gamResponseOpcodeReserved :=
  .tail _ (.tail _ (.head _))
theorem Codec.faultCodeNone (a : FaultArgs) : Codec.Statement (.faultCodeNone a) :=
  .head _
theorem Codec.faultCodeNotPresentOrReserved (a : FaultArgs) : Codec.Statement (.faultCodeNotPresentOrReserved a) :=
  .head _
theorem Codec.faultCodePrivilege (a : FaultArgs) : Codec.Statement (.faultCodePrivilege a) :=
  .head _
theorem Codec.faultCodeWritePermission (a : FaultArgs) : Codec.Statement (.faultCodeWritePermission a) :=
  .head _
theorem Codec.memtypeUc (a : TypeArgs) : Codec.Statement (.memtypeUc a) :=
  .head _
theorem Codec.memtypeWc (a : TypeArgs) : Codec.Statement (.memtypeWc a) :=
  .head _
theorem Codec.memtypeWt (a : TypeArgs) : Codec.Statement (.memtypeWt a) :=
  .head _
theorem Codec.memtypeWp (a : TypeArgs) : Codec.Statement (.memtypeWp a) :=
  .head _
theorem Codec.memtypeWb (a : TypeArgs) : Codec.Statement (.memtypeWb a) :=
  .head _
theorem Codec.memtypeReserved2 (a : TypeArgs) : Codec.Statement (.memtypeReserved2 a) :=
  .head _
theorem Codec.memtypeReserved3 (a : TypeArgs) : Codec.Statement (.memtypeReserved3 a) :=
  .head _
theorem Codec.memtypeReserved7 (a : TypeArgs) : Codec.Statement (.memtypeReserved7 a) :=
  .head _
theorem Codec.etc1Individual (b : QWord) (f : FormatFlags) : Codec.Statement (.etc1Individual b f) :=
  .head _
theorem Codec.etc1Differential (b : QWord) (f : FormatFlags) : Codec.Statement (.etc1Differential b f) :=
  .head _
theorem Codec.etc2T (b : QWord) (f : FormatFlags) : Codec.Statement (.etc2T b f) :=
  .head _
theorem Codec.etc2H (b : QWord) (f : FormatFlags) : Codec.Statement (.etc2H b f) :=
  .head _
theorem Codec.etc2Planar (b : QWord) (f : FormatFlags) : Codec.Statement (.etc2Planar b f) :=
  .head _
theorem Codec.etc2Rgb8Pta (b : QWord) (f : FormatFlags) : Codec.Statement (.etc2Rgb8Pta b f) :=
  .head _
theorem Codec.eacR11 (b : QWord) (f : FormatFlags) : Codec.Statement (.eacR11 b f) :=
  .head _
theorem Codec.etc2EacRgba8 (b : Block) (f : FormatFlags) : Codec.Statement (.etc2EacRgba8 b f) :=
  .head _
theorem Codec.eacRg11 (b : Block) (f : FormatFlags) : Codec.Statement (.eacRg11 b f) :=
  .head _
theorem Codec.fxt1CcHi (b : Block) (f : FormatFlags) : Codec.Statement (.fxt1CcHi b f) :=
  .head _
theorem Codec.fxt1CcChroma (b : Block) (f : FormatFlags) : Codec.Statement (.fxt1CcChroma b f) :=
  .head _
theorem Codec.fxt1CcAlpha (b : Block) (f : FormatFlags) : Codec.Statement (.fxt1CcAlpha b f) :=
  .head _
theorem Codec.fxt1CcMixed (b : Block) (f : FormatFlags) : Codec.Statement (.fxt1CcMixed b f) :=
  .head _
theorem Codec.dxt1FourColour (b : QWord) (f : FormatFlags) : Codec.Statement (.dxt1FourColour b f) :=
  .head _
theorem Codec.dxt1ThreeColourTransparent (b : QWord) (f : FormatFlags) : Codec.Statement (.dxt1ThreeColourTransparent b f) :=
  .head _
theorem Codec.dxt1Rgb (b : QWord) (f : FormatFlags) : Codec.Statement (.dxt1Rgb b f) :=
  .head _
theorem Codec.dxt2Dxt3ExplicitAlpha (b : Block) (f : FormatFlags) : Codec.Statement (.dxt2Dxt3ExplicitAlpha b f) :=
  .head _
theorem Codec.dxt4Dxt5InterpolatedAlpha (b : Block) (f : FormatFlags) : Codec.Statement (.dxt4Dxt5InterpolatedAlpha b f) :=
  .head _
theorem Codec.bc4 (b : QWord) (f : FormatFlags) : Codec.Statement (.bc4 b f) :=
  .head _
theorem Codec.bc5 (b : Block) (f : FormatFlags) : Codec.Statement (.bc5 b f) :=
  .head _
theorem Codec.bc6hMode0 (b : Block) (f : FormatFlags) : Codec.Statement (.bc6hMode0 b f) :=
  .head _
theorem Codec.bc6hMode1 (b : Block) (f : FormatFlags) : Codec.Statement (.bc6hMode1 b f) :=
  .head _
theorem Codec.bc6hMode2 (b : Block) (f : FormatFlags) : Codec.Statement (.bc6hMode2 b f) :=
  .head _
theorem Codec.bc6hMode3 (b : Block) (f : FormatFlags) : Codec.Statement (.bc6hMode3 b f) :=
  .head _
theorem Codec.bc6hMode4 (b : Block) (f : FormatFlags) : Codec.Statement (.bc6hMode4 b f) :=
  .head _
theorem Codec.bc6hMode5 (b : Block) (f : FormatFlags) : Codec.Statement (.bc6hMode5 b f) :=
  .head _
theorem Codec.bc6hMode6 (b : Block) (f : FormatFlags) : Codec.Statement (.bc6hMode6 b f) :=
  .head _
theorem Codec.bc6hMode7 (b : Block) (f : FormatFlags) : Codec.Statement (.bc6hMode7 b f) :=
  .head _
theorem Codec.bc6hMode8 (b : Block) (f : FormatFlags) : Codec.Statement (.bc6hMode8 b f) :=
  .head _
theorem Codec.bc6hMode9 (b : Block) (f : FormatFlags) : Codec.Statement (.bc6hMode9 b f) :=
  .head _
theorem Codec.bc6hMode10 (b : Block) (f : FormatFlags) : Codec.Statement (.bc6hMode10 b f) :=
  .head _
theorem Codec.bc6hMode11 (b : Block) (f : FormatFlags) : Codec.Statement (.bc6hMode11 b f) :=
  .head _
theorem Codec.bc6hMode12 (b : Block) (f : FormatFlags) : Codec.Statement (.bc6hMode12 b f) :=
  .head _
theorem Codec.bc6hMode13 (b : Block) (f : FormatFlags) : Codec.Statement (.bc6hMode13 b f) :=
  .head _
theorem Codec.bc6hUndefined10011 (b : Block) (f : FormatFlags) : Codec.Statement (.bc6hUndefined10011 b f) :=
  .head _
theorem Codec.bc6hUndefined10111 (b : Block) (f : FormatFlags) : Codec.Statement (.bc6hUndefined10111 b f) :=
  .head _
theorem Codec.bc6hUndefined11011 (b : Block) (f : FormatFlags) : Codec.Statement (.bc6hUndefined11011 b f) :=
  .head _
theorem Codec.bc6hUndefined11111 (b : Block) (f : FormatFlags) : Codec.Statement (.bc6hUndefined11111 b f) :=
  .head _
theorem Codec.bc7Mode0 (b : Block) (f : FormatFlags) : Codec.Statement (.bc7Mode0 b f) :=
  .head _
theorem Codec.bc7Mode1 (b : Block) (f : FormatFlags) : Codec.Statement (.bc7Mode1 b f) :=
  .head _
theorem Codec.bc7Mode2 (b : Block) (f : FormatFlags) : Codec.Statement (.bc7Mode2 b f) :=
  .head _
theorem Codec.bc7Mode3 (b : Block) (f : FormatFlags) : Codec.Statement (.bc7Mode3 b f) :=
  .head _
theorem Codec.bc7Mode4 (b : Block) (f : FormatFlags) : Codec.Statement (.bc7Mode4 b f) :=
  .head _
theorem Codec.bc7Mode5 (b : Block) (f : FormatFlags) : Codec.Statement (.bc7Mode5 b f) :=
  .head _
theorem Codec.bc7Mode6 (b : Block) (f : FormatFlags) : Codec.Statement (.bc7Mode6 b f) :=
  .head _
theorem Codec.bc7Mode7 (b : Block) (f : FormatFlags) : Codec.Statement (.bc7Mode7 b f) :=
  .head _
theorem Codec.bc7Undefined (b : Block) (f : FormatFlags) : Codec.Statement (.bc7Undefined b f) :=
  .head _
theorem Codec.astcVoidExtent2d (b : Block) : Codec.Statement (.astcVoidExtent2d b) :=
  .head _
theorem Codec.astcReservedModeA (b : Block) : Codec.Statement (.astcReservedModeA b) :=
  .head _
theorem Codec.astcReservedModeB (b : Block) : Codec.Statement (.astcReservedModeB b) :=
  .head _
theorem Codec.astcModeWBp4HAp2 (b : Block) : Codec.Statement (.astcModeWBp4HAp2 b) :=
  .head _
theorem Codec.astcModeWBp8HAp2 (b : Block) : Codec.Statement (.astcModeWBp8HAp2 b) :=
  .head _
theorem Codec.astcModeWAp2HBp8 (b : Block) : Codec.Statement (.astcModeWAp2HBp8 b) :=
  .head _
theorem Codec.astcModeWAp2HBp6 (b : Block) : Codec.Statement (.astcModeWAp2HBp6 b) :=
  .head _
theorem Codec.astcModeWBp2HAp2 (b : Block) : Codec.Statement (.astcModeWBp2HAp2 b) :=
  .head _
theorem Codec.astcModeW12HAp2 (b : Block) : Codec.Statement (.astcModeW12HAp2 b) :=
  .head _
theorem Codec.astcModeWAp2H12 (b : Block) : Codec.Statement (.astcModeWAp2H12 b) :=
  .head _
theorem Codec.astcModeW6H10 (b : Block) : Codec.Statement (.astcModeW6H10 b) :=
  .head _
theorem Codec.astcModeW10H6 (b : Block) : Codec.Statement (.astcModeW10H6 b) :=
  .head _
theorem Codec.astcModeWAp6HBp6 (b : Block) : Codec.Statement (.astcModeWAp6HBp6 b) :=
  .head _
theorem Codec.astcCem0 (b : Block) : Codec.Statement (.astcCem0 b) :=
  .head _
theorem Codec.astcCem1 (b : Block) : Codec.Statement (.astcCem1 b) :=
  .head _
theorem Codec.astcCem2 (b : Block) : Codec.Statement (.astcCem2 b) :=
  .head _
theorem Codec.astcCem3 (b : Block) : Codec.Statement (.astcCem3 b) :=
  .head _
theorem Codec.astcCem4 (b : Block) : Codec.Statement (.astcCem4 b) :=
  .head _
theorem Codec.astcCem5 (b : Block) : Codec.Statement (.astcCem5 b) :=
  .head _
theorem Codec.astcCem6 (b : Block) : Codec.Statement (.astcCem6 b) :=
  .head _
theorem Codec.astcCem7 (b : Block) : Codec.Statement (.astcCem7 b) :=
  .head _
theorem Codec.astcCem8 (b : Block) : Codec.Statement (.astcCem8 b) :=
  .head _
theorem Codec.astcCem9 (b : Block) : Codec.Statement (.astcCem9 b) :=
  .head _
theorem Codec.astcCem10 (b : Block) : Codec.Statement (.astcCem10 b) :=
  .head _
theorem Codec.astcCem11 (b : Block) : Codec.Statement (.astcCem11 b) :=
  .head _
theorem Codec.astcCem12 (b : Block) : Codec.Statement (.astcCem12 b) :=
  .head _
theorem Codec.astcCem13 (b : Block) : Codec.Statement (.astcCem13 b) :=
  .head _
theorem Codec.astcCem14 (b : Block) : Codec.Statement (.astcCem14 b) :=
  .head _
theorem Codec.astcCem15 (b : Block) : Codec.Statement (.astcCem15 b) :=
  .head _
theorem Codec.astcLdr2d4x4U8srgb : Codec.Statement .astcLdr2d4x4U8srgb :=
  .head _
theorem Codec.astcLdr2d5x4U8srgb : Codec.Statement .astcLdr2d5x4U8srgb :=
  .head _
theorem Codec.astcLdr2d5x5U8srgb : Codec.Statement .astcLdr2d5x5U8srgb :=
  .head _
theorem Codec.astcLdr2d6x5U8srgb : Codec.Statement .astcLdr2d6x5U8srgb :=
  .head _
theorem Codec.astcLdr2d6x6U8srgb : Codec.Statement .astcLdr2d6x6U8srgb :=
  .head _
theorem Codec.astcLdr2d8x5U8srgb : Codec.Statement .astcLdr2d8x5U8srgb :=
  .head _
theorem Codec.astcLdr2d8x6U8srgb : Codec.Statement .astcLdr2d8x6U8srgb :=
  .head _
theorem Codec.astcLdr2d10x5U8srgb : Codec.Statement .astcLdr2d10x5U8srgb :=
  .head _
theorem Codec.astcLdr2d10x6U8srgb : Codec.Statement .astcLdr2d10x6U8srgb :=
  .head _
theorem Codec.astcLdr2d8x8U8srgb : Codec.Statement .astcLdr2d8x8U8srgb :=
  .head _
theorem Codec.astcLdr2d10x8U8srgb : Codec.Statement .astcLdr2d10x8U8srgb :=
  .head _
theorem Codec.astcLdr2d10x10U8srgb : Codec.Statement .astcLdr2d10x10U8srgb :=
  .head _
theorem Codec.astcLdr2d12x10U8srgb : Codec.Statement .astcLdr2d12x10U8srgb :=
  .head _
theorem Codec.astcLdr2d12x12U8srgb : Codec.Statement .astcLdr2d12x12U8srgb :=
  .head _
theorem Codec.astcLdr2d4x4Flt16 : Codec.Statement .astcLdr2d4x4Flt16 :=
  .head _
theorem Codec.astcLdr2d5x4Flt16 : Codec.Statement .astcLdr2d5x4Flt16 :=
  .head _
theorem Codec.astcLdr2d5x5Flt16 : Codec.Statement .astcLdr2d5x5Flt16 :=
  .head _
theorem Codec.astcLdr2d6x5Flt16 : Codec.Statement .astcLdr2d6x5Flt16 :=
  .head _
theorem Codec.astcLdr2d6x6Flt16 : Codec.Statement .astcLdr2d6x6Flt16 :=
  .head _
theorem Codec.astcLdr2d8x5Flt16 : Codec.Statement .astcLdr2d8x5Flt16 :=
  .head _
theorem Codec.astcLdr2d8x6Flt16 : Codec.Statement .astcLdr2d8x6Flt16 :=
  .head _
theorem Codec.astcLdr2d10x5Flt16 : Codec.Statement .astcLdr2d10x5Flt16 :=
  .head _
theorem Codec.astcLdr2d10x6Flt16 : Codec.Statement .astcLdr2d10x6Flt16 :=
  .head _
theorem Codec.astcLdr2d8x8Flt16 : Codec.Statement .astcLdr2d8x8Flt16 :=
  .head _
theorem Codec.astcLdr2d10x8Flt16 : Codec.Statement .astcLdr2d10x8Flt16 :=
  .head _
theorem Codec.astcLdr2d10x10Flt16 : Codec.Statement .astcLdr2d10x10Flt16 :=
  .head _
theorem Codec.astcLdr2d12x10Flt16 : Codec.Statement .astcLdr2d12x10Flt16 :=
  .head _
theorem Codec.astcLdr2d12x12Flt16 : Codec.Statement .astcLdr2d12x12Flt16 :=
  .head _
theorem Codec.astcFull2d4x4Flt16 : Codec.Statement .astcFull2d4x4Flt16 :=
  .head _
theorem Codec.astcFull2d5x4Flt16 : Codec.Statement .astcFull2d5x4Flt16 :=
  .head _
theorem Codec.astcFull2d5x5Flt16 : Codec.Statement .astcFull2d5x5Flt16 :=
  .head _
theorem Codec.astcFull2d6x5Flt16 : Codec.Statement .astcFull2d6x5Flt16 :=
  .head _
theorem Codec.astcFull2d6x6Flt16 : Codec.Statement .astcFull2d6x6Flt16 :=
  .head _
theorem Codec.astcFull2d8x5Flt16 : Codec.Statement .astcFull2d8x5Flt16 :=
  .head _
theorem Codec.astcFull2d8x6Flt16 : Codec.Statement .astcFull2d8x6Flt16 :=
  .head _
theorem Codec.astcFull2d10x5Flt16 : Codec.Statement .astcFull2d10x5Flt16 :=
  .head _
theorem Codec.astcFull2d10x6Flt16 : Codec.Statement .astcFull2d10x6Flt16 :=
  .head _
theorem Codec.astcFull2d8x8Flt16 : Codec.Statement .astcFull2d8x8Flt16 :=
  .head _
theorem Codec.astcFull2d10x8Flt16 : Codec.Statement .astcFull2d10x8Flt16 :=
  .head _
theorem Codec.astcFull2d10x10Flt16 : Codec.Statement .astcFull2d10x10Flt16 :=
  .head _
theorem Codec.astcFull2d12x10Flt16 : Codec.Statement .astcFull2d12x10Flt16 :=
  .head _
theorem Codec.astcFull2d12x12Flt16 : Codec.Statement .astcFull2d12x12Flt16 :=
  .head _
theorem Codec.tileLinear (a : TileArgs) : Codec.Statement (.tileLinear a) :=
  .head _
theorem Codec.tileX (a : TileArgs) : Codec.Statement (.tileX a) :=
  .head _
theorem Codec.tileY (a : TileArgs) : Codec.Statement (.tileY a) :=
  .head _
theorem Codec.tileW (a : TileArgs) : Codec.Statement (.tileW a) :=
  .head _
theorem Codec.tileYf (a : TileArgs) : Codec.Statement (.tileYf a) :=
  .head _
theorem Codec.tileYs (a : TileArgs) : Codec.Statement (.tileYs a) :=
  .head _
theorem Codec.msgRcsContextAvailable (w : Word) : Codec.Statement (.msgRcsContextAvailable w) :=
  .head _
theorem Codec.msgRcsContextReceiveReady (w : Word) : Codec.Statement (.msgRcsContextReceiveReady w) :=
  .head _
theorem Codec.msgRcsContextLaunched (w : Word) : Codec.Statement (.msgRcsContextLaunched w) :=
  .head _
theorem Codec.msgRcsContextConfirmed (w : Word) : Codec.Statement (.msgRcsContextConfirmed w) :=
  .head _
theorem Codec.msgBcsContextAvailable (w : Word) : Codec.Statement (.msgBcsContextAvailable w) :=
  .head _
theorem Codec.msgBcsContextReceiveReady (w : Word) : Codec.Statement (.msgBcsContextReceiveReady w) :=
  .head _
theorem Codec.msgBcsContextLaunched (w : Word) : Codec.Statement (.msgBcsContextLaunched w) :=
  .head _
theorem Codec.msgBcsContextConfirmed (w : Word) : Codec.Statement (.msgBcsContextConfirmed w) :=
  .head _
theorem Codec.msgVecsContextAvailable (w : Word) : Codec.Statement (.msgVecsContextAvailable w) :=
  .head _
theorem Codec.msgVecsContextReceiveReady (w : Word) : Codec.Statement (.msgVecsContextReceiveReady w) :=
  .head _
theorem Codec.msgVecsContextLaunched (w : Word) : Codec.Statement (.msgVecsContextLaunched w) :=
  .head _
theorem Codec.msgVecsContextConfirmed (w : Word) : Codec.Statement (.msgVecsContextConfirmed w) :=
  .head _
theorem Codec.msgVcs0ContextAvailable (w : Word) : Codec.Statement (.msgVcs0ContextAvailable w) :=
  .head _
theorem Codec.msgVcs0ContextReceiveReady (w : Word) : Codec.Statement (.msgVcs0ContextReceiveReady w) :=
  .head _
theorem Codec.msgVcs0ContextLaunched (w : Word) : Codec.Statement (.msgVcs0ContextLaunched w) :=
  .head _
theorem Codec.msgVcs0ContextConfirmed (w : Word) : Codec.Statement (.msgVcs0ContextConfirmed w) :=
  .head _
theorem Codec.msgVcs1ContextAvailable (w : Word) : Codec.Statement (.msgVcs1ContextAvailable w) :=
  .head _
theorem Codec.msgVcs1ContextReceiveReady (w : Word) : Codec.Statement (.msgVcs1ContextReceiveReady w) :=
  .head _
theorem Codec.msgVcs1ContextLaunched (w : Word) : Codec.Statement (.msgVcs1ContextLaunched w) :=
  .head _
theorem Codec.msgVcs1ContextConfirmed (w : Word) : Codec.Statement (.msgVcs1ContextConfirmed w) :=
  .head _
theorem Codec.lncfcmocsEntry (w : BitVec 16) (a : MocsIndex) : Codec.Statement (.lncfcmocsEntry w a) :=
  .head _
theorem Codec.gamMocsEntry (w : Word) (a : MocsSlot) : Codec.Statement (.gamMocsEntry w a) :=
  .head _

end Sys2Proof.Laws
end

