-- ==== Sys2Proof/Laws/Sampling.lean ====
section
/-! SUPPORT. What a transaction that names a texel of a surface can never change: it keeps what every request keeps (`Kept`). -/

namespace Sys2Proof.Machine

open Sys2Proof

theorem kept_latchTile (s : State) (base : QWord) (bx by_ : Nat) (o : Option Nat) : Kept s (latchTile s base bx by_ o) := by
  cases o <;> exact .of_same rfl rfl rfl rfl rfl rfl rfl rfl rfl rfl rfl rfl

/-- A layout query latches its result. -/
theorem kept_layoutQuery {f : Surface} {c : Coord} {s t : State} (h : layoutQuery f c s = .ok t) : Kept s t := by
  simp only [layoutQuery, bind, Except.bind, pure, Except.pure] at h
  split at h
  · cases h
  · cases h; exact kept_latchTile _ _ _ _ _

theorem kept_locate {a : Access} {f : Surface} {c : Coord} {s t : State} (h : locate a f c s = .ok t) : Kept s t := by
  unfold locate at h
  split at h
  · exact kept_layoutQuery h
  · cases h

theorem kept_requestOp {a : Access} {pads : List QWord} {s t : State} (h : requestOp a pads s = .ok t) : Kept s t := by
  unfold requestOp at h
  split at h
  · exact kept_serveLoaded h
  · cases h

theorem kept_surfaceRequest {a : Access} {f : Surface} {c : Coord} {va : QWord} {s t : State}
    (h : surfaceRequest a f c va s = .ok t) : Kept s t := kept_requestOp h

/-- An access to the bytes of a texel. -/
theorem kept_surfaceOp {a : Access} {f : Surface} {c : Coord} {high : Bool} {s t : State} (h : surfaceOp a f c high s = .ok t) :
    Kept s t := by
  unfold surfaceOp at h
  split at h
  · cases h
  · simp only [bind, Except.bind] at h
    split at h
    · cases h
    · rename_i hl
      exact (kept_locate hl).trans (kept_surfaceRequest h)

theorem kept_encodePixel {f : PixelFormat} {r g b a : Word} {s t : State} (h : encodePixel f r g b a s = .ok t) : Kept s t := by
  unfold encodePixel at h
  split at h <;> cases h <;> exact .of_same rfl rfl rfl rfl rfl rfl rfl rfl rfl rfl rfl rfl

theorem kept_fillElement (used n : Nat) (s : State) : Kept s (fillElement used n s) := by
  unfold fillElement
  split
  · exact Kept.refl s
  · exact .of_same rfl rfl rfl rfl rfl rfl rfl rfl rfl rfl rfl rfl

/-- A pixel write is encoded, located and stored as a request, with a second one after it for the upper half of an element of more than
8 bytes. -/
theorem kept_writePixelOp {a : Access} {f : Surface} {c : Coord} {how : PixelFormat} {r g b al : Word} {s t : State}
    (h : writePixelOp a f c how r g b al s = .ok t) : Kept s t := by
  unfold writePixelOp at h
  split at h
  · cases h
  · split at h
    · cases h
    · simp only [bind, Except.bind] at h
      split at h
      · cases h
      · rename_i hp
        split at h
        · cases h
        · rename_i hl
          refine (kept_encodePixel hp).trans ((kept_fillElement _ _ _).trans ((kept_locate hl).trans ?_))
          split at h
          · exact (kept_inputs _ _).trans (kept_surfaceRequest h)
          · exact kept_surfaceRequest h
          · cases h; exact Kept.refl _

end Sys2Proof.Machine
end

