-- ==== Sys2Proof/Laws/Tiling.lean ====
section
/-! SUPPORT. The laws of the tiling functions: the offset inside a tile, the tile, and when an offset is refused. -/

namespace Sys2Proof.Machine

open Sys2Proof

/-- A bit of a number is 0 or 1. -/
theorem nbit_lt (n i : Nat) : nbit n i < 2 := Nat.mod_lt _ (by omega)

/-- A source bit is 0 or 1. -/
theorem srcBit_lt (u v ss : Nat) (b : Src) : srcBit u v ss b < 2 := by
  cases b <;> exact nbit_lt _ _

/-- The offset inside a tile is below the tile's size (R261). -/
theorem offsetInTile_lt (u v ss : Nat) (bits : List Src) : offsetInTile u v ss bits < 2 ^ bits.length := by
  induction bits with
  | nil => simp [offsetInTile]
  | cons b r ih =>
    have := srcBit_lt u v ss b
    simp only [offsetInTile, List.length_cons, Nat.pow_succ]
    omega

/-- The tile of an offset is the one that TileID names (R261). -/
theorem swizzledOffset_tile (w : Swizzle) (u v ss pitch : Nat) :
    swizzledOffset w u v ss pitch / 2 ^ w.bits.length = tileId w.cv w.cu u v pitch := by
  have := offsetInTile_lt u v ss w.bits
  rw [swizzledOffset, Nat.add_comm, Nat.add_mul_div_right _ _ (Nat.two_pow_pos _), Nat.div_eq_of_lt this, Nat.zero_add]

/-- The position in the tile is the offset's remainder. -/
theorem swizzledOffset_inTile (w : Swizzle) (u v ss pitch : Nat) :
    swizzledOffset w u v ss pitch % 2 ^ w.bits.length = offsetInTile u v ss w.bits := by
  rw [swizzledOffset, Nat.add_comm, Nat.add_mul_mod_self_right, Nat.mod_eq_of_lt (offsetInTile_lt u v ss w.bits)]

/-- An offset inside the limit on a surface's size (R8). -/
theorem withinSurface_some {e : ElemBits} {o : Nat} (h : o + elemBitsOf e / 8 ≤ maxSurface) : withinSurface e o = some o := by
  rw [withinSurface, if_neg (by omega)]

/-- A linear surface has no preconditions (R243). -/
theorem tileOffset_linear {e : ElemBits} (sm : Samples) (ss : Nat) {u v pitch : Nat} (base : Nat)
    (ho : v * pitch + u + elemBitsOf e / 8 ≤ maxSurface) :
    tileOffset .linear e sm ss u v pitch base = .ok (some (v * pitch + u)) := by
  simp [tileOffset, checkedRow, swizzleOf, bind, Except.bind, withinSurface_some ho, pure, Except.pure]

/-- An aligned base and a pitch of whole tiles meet the preconditions (R244, R285). -/
theorem checkTiled_ok {m : TileMode} (e : ElemBits) (sm : Samples) {w : Swizzle} {pitch base : Nat}
    (hb : base % baseAlign m = 0) (hp : pitch % 2 ^ w.cu = 0) (hmax : pitch ≤ 262144) :
    checkTiled m e sm w pitch base = .ok () := by
  have h2 : ¬262144 < pitch := by omega
  simp [checkTiled, hb, hp, h2]

/-- A mode with rows of tiles has the preconditions of `checkTiled`, whether its row is printed or not (R244, R285). -/
theorem checkedRow_of {m : TileMode} {e : ElemBits} {sm : Samples} {w : Swizzle} {row : Row} (pitch base : Nat)
    (hw : swizzleOf m e sm = .ok row) (hr : row = .tiled w ∨ row = .unstated w) :
    checkedRow m e sm pitch base = (checkTiled m e sm w pitch base).bind fun _ => .ok row := by
  rcases hr with rfl | rfl <;> simp only [checkedRow, hw] <;> rfl

/-- A tiled surface whose preconditions hold (R244, R263, R285). -/
theorem tileOffset_ok {m : TileMode} {e : ElemBits} {sm : Samples} {w : Swizzle} {ss u v pitch : Nat} (base : Nat)
    (hw : swizzleOf m e sm = .ok (.tiled w)) (hb : base % baseAlign m = 0) (hp : pitch % 2 ^ w.cu = 0)
    (hmax : pitch ≤ 262144) (hs : ss < 2 ^ samplesLog sm)
    (ho : swizzledOffset w u v ss pitch + elemBitsOf e / 8 ≤ maxSurface) :
    tileOffset m e sm ss u v pitch base = .ok (some (swizzledOffset w u v ss pitch)) := by
  have h1 : ¬(m = .ys ∧ 2 ^ samplesLog sm ≤ ss) := fun h => by omega
  simp [tileOffset, checkedRow_of pitch base hw (.inl rfl), bind, Except.bind, checkTiled_ok e sm hb hp hmax, h1,
    withinSurface_some ho, pure, Except.pure]

/-- Where no row is stated the offset is open (R263; log entry 72), the preconditions holding (R244, R285). -/
theorem tileOffset_unstated {m : TileMode} {e : ElemBits} {sm : Samples} {w : Swizzle} (ss u v : Nat)
    {pitch base : Nat} (hw : swizzleOf m e sm = .ok (.unstated w)) (hb : base % baseAlign m = 0) (hp : pitch % 2 ^ w.cu = 0)
    (hmax : pitch ≤ 262144) : tileOffset m e sm ss u v pitch base = .ok none := by
  simp [tileOffset, checkedRow_of pitch base hw (.inr rfl), bind, Except.bind, checkTiled_ok e sm hb hp hmax, pure, Except.pure]

/-- Where the preconditions of a tiled surface refuse, so does its offset. -/
theorem tileOffset_stop {m : TileMode} {e : ElemBits} {sm : Samples} {w : Swizzle} (ss u v : Nat)
    {pitch base : Nat} {r : Refusal} (hw : swizzleOf m e sm = .ok (.tiled w) ∨ swizzleOf m e sm = .ok (.unstated w))
    (hc : checkTiled m e sm w pitch base = refuse r) : tileOffset m e sm ss u v pitch base = refuse r := by
  rcases hw with hw | hw
  · simp [tileOffset, checkedRow_of pitch base hw (.inl rfl), hc, refuse, bind, Except.bind]
  · simp [tileOffset, checkedRow_of pitch base hw (.inr rfl), hc, refuse, bind, Except.bind]

/-- A base that is not tile aligned, and not that of a level in a mip tail, is refused (R244, I23). -/
theorem tileOffset_misaligned {m : TileMode} {e : ElemBits} {sm : Samples} {w : Swizzle} (ss u v pitch : Nat)
    {base : Nat} (hw : swizzleOf m e sm = .ok (.tiled w) ∨ swizzleOf m e sm = .ok (.unstated w))
    (hb : base % baseAlign m ≠ 0) (ht : tailBase m e sm w base = false) :
    tileOffset m e sm ss u v pitch base = refuse .misalignedTileBase :=
  tileOffset_stop ss u v hw (by simp [checkTiled, hb, ht])

/-- No base of the legacy tiles is that of a level in a mip tail. -/
theorem tailBase_legacy {m : TileMode} (e : ElemBits) (sm : Samples) (w : Swizzle) (base : Nat) (h : m ≠ .ys)
    (h' : m ≠ .yf) : tailBase m e sm w base = false := by
  simp [tailBase, h, h']

/-- A pitch that is no whole number of tiles, or above 256 KB, is refused (R285, I26). -/
theorem tileOffset_badPitch {m : TileMode} {e : ElemBits} {sm : Samples} {w : Swizzle} (ss u v : Nat)
    {pitch base : Nat} (hw : swizzleOf m e sm = .ok (.tiled w) ∨ swizzleOf m e sm = .ok (.unstated w)) (hb : base % baseAlign m = 0)
    (hp : pitch % 2 ^ w.cu ≠ 0 ∨ 262144 < pitch) :
    tileOffset m e sm ss u v pitch base = refuse .badPitch :=
  tileOffset_stop ss u v hw (by simp [checkTiled, hb, hp])

/-- A tiling object latches the offset and the address (R283). -/
theorem tileObject_of {m : TileMode} {a : TileArgs} {s : State} {o : Nat}
    (h : tileOffset m a.elem a.samples a.ss.toNat a.u.toNat a.v.toNat a.pitch.toNat a.base.toNat = .ok (some o)) :
    tileObject m a s = .ok { s with tile := ⟨o, a.base + BitVec.ofNat 64 o, 0, 0⟩ } := by
  simp [tileObject, h, bind, Except.bind, pure, Except.pure, latchTile, latchOffset]

/-- A tiling object without a stated offset latches an open one (log entry 72). -/
theorem tileObject_open {m : TileMode} {a : TileArgs} {s : State}
    (h : tileOffset m a.elem a.samples a.ss.toNat a.u.toNat a.v.toNat a.pitch.toNat a.base.toNat = .ok none) :
    tileObject m a s = .ok (advanceDraws (latchOffset s a.base 0 0 ((freeAt s 0).toNat % maxSurface)) 1) := by
  simp [tileObject, h, bind, Except.bind, pure, Except.pure, latchTile]

/-- A tiling object whose preconditions fail stops as its offset does. -/
theorem tileObject_stop {m : TileMode} {a : TileArgs} {s : State} {r : Refusal}
    (h : tileOffset m a.elem a.samples a.ss.toNat a.u.toNat a.v.toNat a.pitch.toNat a.base.toNat = refuse r) :
    tileObject m a s = refuse r := by
  simp [tileObject, h, bind, Except.bind, refuse]

end Sys2Proof.Machine
end

