-- ==== Sys2Proof/Tests/Slice0.lean ====
section
/-! SUPPORT. Tests: every row decoded from a word written out from its encoding, an ill-formed term for each check of
WellFormed, worked values of the spec, and for every statement with hypotheses a state and operands that meet them. -/

namespace Sys2Proof.Tests

open Sys2Proof Sys2Proof.Machine

/-! ### Decoding: every row of the opcode table, from words written out from its encoding -/

/-- The bytes decode at the port to the object, and nothing is left. -/
def decodesTo (x : Port × List Byte × Instr) : Bool :=
  match decode x.1 x.2.1 with
  | .ok (i, []) => i == x.2.2
  | _ => false
/-- All of them do. -/
def decodesAll (l : List (Port × List Byte × Instr)) : Bool := l.all decodesTo
/-- A read of the render cache. -/
def anAccess : Access := ⟨.rcs, .renderCache, .read, false, false, false, false, false, false, 0, 3, 0x1234, 0⟩
/-- The operand of an atomic. -/
def anAtomic : AtomicArgs := ⟨.rcs, 0x2000⟩
/-- Four page-directory pointers. -/
def someDesc : DescArgs := ⟨.rcs, 0x5000, 0x6000, 0x7000, 0x8000⟩
/-- A fault of code 01 at level 1. -/
def aFault : FaultArgs := ⟨anAccess, 1, 1⟩
/-- A Global GTT entry. -/
def aGttUpdate : GttUpdateArgs := ⟨0x6001⟩
/-- An HDC. -/
def anHdc : HdcId := ⟨1, 2⟩
/-- A page-walk request of an HDC. -/
def anHdcRequest : HdcRequest := ⟨true, anHdc, 0x123456789, true, 0x5A, false⟩
/-- A page response. -/
def aResponse : GamResponse := ⟨true, anHdc, 0x1234567, true, false, 0, 6, 0x5A, 1, .translation⟩
/-- A write. -/
def aType : TypeArgs := ⟨true⟩
/-- A plain format. -/
def aFormat : FormatFlags := ⟨false, false⟩
/-- A coordinate of a surface. -/
def aTile : TileArgs := ⟨16, 2, 4096, 0x10000, .e32, .s1, 0⟩
/-- An index. -/
def aMocsIndex : MocsIndex := ⟨5⟩
/-- A block and an index. -/
def aMocsSlot : MocsSlot := ⟨2, 7⟩
theorem test_decode_atomics : decodesAll [
    (.atomicPage, [0xC0] ++ anAtomic.put, .atomicPageUpdate0000 anAtomic),
    (.atomicPage, [0xC1] ++ anAtomic.put, .atomicPageUpdate0001 anAtomic),
    (.atomicPage, [0xC2] ++ anAtomic.put, .atomicPageUpdate0010 anAtomic),
    (.atomicPage, [0xC3] ++ anAtomic.put, .atomicPageUpdate0011 anAtomic),
    (.atomicPage, [0xC4] ++ anAtomic.put, .atomicPageUpdate0100 anAtomic),
    (.atomicPage, [0xC5] ++ anAtomic.put, .atomicPageUpdate0101 anAtomic),
    (.atomicPage, [0xC6] ++ anAtomic.put, .atomicPageUpdate0110 anAtomic),
    (.atomicPage, [0xC7] ++ anAtomic.put, .atomicPageUpdate0111 anAtomic),
    (.atomicPage, [0xC8] ++ anAtomic.put, .atomicPageUpdate1000 anAtomic),
    (.atomicPage, [0xC9] ++ anAtomic.put, .atomicPageUpdate1001 anAtomic),
    (.atomicPage, [0xCA] ++ anAtomic.put, .atomicPageUpdate1010 anAtomic),
    (.atomicPage, [0xCB] ++ anAtomic.put, .atomicPageUpdate1011 anAtomic),
    (.atomicPage, [0xCC] ++ anAtomic.put, .atomicPageUpdate1100 anAtomic),
    (.atomicPage, [0xCD] ++ anAtomic.put, .atomicPageUpdate1101 anAtomic),
    (.atomicPage, [0xCE] ++ anAtomic.put, .atomicPageUpdate1110 anAtomic),
    (.atomicPage, [0xCF] ++ anAtomic.put, .atomicPageUpdate1111 anAtomic),
    (.atomicA, [0x00] ++ anAtomic.put, .atomicAUpdate000 anAtomic),
    (.atomicA, [0x01] ++ anAtomic.put, .atomicAUpdate001 anAtomic),
    (.atomicA, [0x02] ++ anAtomic.put, .atomicAUpdate010 anAtomic),
    (.atomicA, [0x03] ++ anAtomic.put, .atomicAUpdate011 anAtomic),
    (.atomicA, [0x04] ++ anAtomic.put, .atomicAUpdate100 anAtomic),
    (.atomicA, [0x05] ++ anAtomic.put, .atomicAdUpdate101 anAtomic),
    (.atomicA, [0x06] ++ anAtomic.put, .atomicAdUpdate110 anAtomic),
    (.atomicA, [0x07] ++ anAtomic.put, .atomicAdUpdate111 anAtomic)] = true := by decide

theorem test_decode_descriptors : decodesAll [
    (.ctxMode, [0x09, 0x10, 0x00, 0x00, 0x22, 0x00, 0x00, 0x00] ++ anAccess.put, .ctxLegacyGgtt 0x2200001009 anAccess),
    (.ctxMode, [0x09, 0x11, 0x00, 0x00, 0x22, 0x00, 0x00, 0x00] ++ anAccess.put, .ctxLegacyPpgtt32 0x2200001109 anAccess),
    (.ctxMode, [0x19, 0x11, 0x00, 0x00, 0x22, 0x00, 0x00, 0x00] ++ anAccess.put, .ctxLegacyPpgtt48 0x2200001119 anAccess),
    (.ctxMode, [0x51, 0x10, 0x00, 0x00, 0x22, 0x00, 0x00, 0x00] ++ anAccess.put, .ctxAdvanced 0x2200001051 anAccess),
    (.elementDescriptor, [0x59, 0x10, 0x00, 0x00, 0x22, 0x00, 0x00, 0x00] ++ someDesc.put, .elementDescriptor 0x2200001059 someDesc),
    (.faultModel, [0x19, 0x00, 0x00, 0x00, 0x22, 0x00, 0x00, 0x00] ++ aFault.put, .faultModelHang 0x2200000019 aFault),
    (.faultModel, [0x53, 0x00, 0x00, 0x00, 0x22, 0x00, 0x00, 0x00] ++ aFault.put, .faultModelHalt 0x2200000053 aFault),
    (.faultModel, [0x93, 0x00, 0x00, 0x00, 0x22, 0x00, 0x00, 0x00] ++ aFault.put, .faultModelStreamSwitch 0x2200000093 aFault),
    (.faultModel, [0xD3, 0x00, 0x00, 0x00, 0x22, 0x00, 0x00, 0x00] ++ aFault.put, .faultModelReserved 0x22000000D3 aFault)] = true := by decide

theorem test_decode_advanced_entries : decodesAll [
    (.ia32ePml4, [0x27, 0x30, 0x20, 0x40, 0x00, 0x00, 0x00, 0x00] ++ anAccess.put, .ia32ePml4e 0x40203027 anAccess),
    (.ia32ePdp, [0x27, 0x40, 0x20, 0x40, 0x00, 0x00, 0x00, 0x00] ++ anAccess.put, .ia32ePdpePd 0x40204027 anAccess),
    (.ia32ePdp, [0xE7, 0x00, 0x00, 0x40, 0x00, 0x00, 0x00, 0x00] ++ anAccess.put, .ia32ePdpe1gb 0x400000E7 anAccess),
    (.ia32ePd, [0x27, 0x50, 0x20, 0x40, 0x00, 0x00, 0x00, 0x00] ++ anAccess.put, .ia32ePdePt 0x40205027 anAccess),
    (.ia32ePd, [0xE7, 0x00, 0x20, 0x40, 0x00, 0x00, 0x00, 0x00] ++ anAccess.put, .ia32ePde2mb 0x402000E7 anAccess),
    (.ia32ePt64, [0x67, 0x00, 0x21, 0x40, 0x00, 0x00, 0x00, 0x00] ++ anAccess.put, .ia32ePte64kb 0x40210067 anAccess),
    (.ia32ePt4, [0x67, 0x60, 0x20, 0x40, 0x00, 0x00, 0x00, 0x00] ++ anAccess.put, .ia32ePte4kb 0x40206067 anAccess)] = true := by decide

theorem test_decode_legacy_entries : decodesAll [
    (.legacy32Pd, [0x03, 0x50, 0x20, 0x40, 0x00, 0x00, 0x00, 0x00] ++ anAccess.put, .legacy32Pde 0x40205003 anAccess),
    (.legacyPt64, [0x03, 0x00, 0x21, 0x40, 0x00, 0x00, 0x00, 0x00] ++ anAccess.put, .legacyPte64kb 0x40210003 anAccess),
    (.legacyPt4, [0x03, 0x62, 0x20, 0x40, 0x00, 0x00, 0x00, 0x00] ++ anAccess.put, .legacyPte4kb 0x40206203 anAccess),
    (.legacyPml4, [0x03, 0x30, 0x20, 0x40, 0x00, 0x00, 0x00, 0x00] ++ anAccess.put, .legacy64Pml4e 0x40203003 anAccess),
    (.legacyPdp, [0x03, 0x40, 0x20, 0x40, 0x00, 0x00, 0x00, 0x00] ++ anAccess.put, .legacy64PdpePd 0x40204003 anAccess),
    (.legacyPdp, [0x83, 0x00, 0x00, 0x40, 0x00, 0x00, 0x00, 0x00] ++ anAccess.put, .legacy64Pdpe1gb 0x40000083 anAccess),
    (.legacyPd, [0x03, 0x58, 0x20, 0x40, 0x00, 0x00, 0x00, 0x00] ++ anAccess.put, .legacy64PdePt 0x40205803 anAccess),
    (.legacyPd, [0x83, 0x00, 0x20, 0x40, 0x00, 0x00, 0x00, 0x00] ++ anAccess.put, .legacy64Pde2mb 0x40200083 anAccess),
    (.ggttPte, [0x01, 0x60, 0x20, 0x40, 0x00, 0x00, 0x00, 0x00] ++ anAccess.put, .ggttPte 0x40206001 anAccess)] = true := by decide

theorem test_decode_trtt_and_indices : decodesAll [
    (.trttL3, [0x00, 0x30, 0x20, 0x40, 0x00, 0x00, 0x00, 0x00] ++ anAccess.put, .trttL3e 0x40203000 anAccess),
    (.trttL2, [0x02, 0x40, 0x20, 0x40, 0x00, 0x00, 0x00, 0x00] ++ anAccess.put, .trttL2e 0x40204002 anAccess),
    (.trttL1, [0x21, 0x40, 0x00, 0x00] ++ anAccess.put, .trttL1e 0x4021 anAccess),
    (.va4Level, [0xBC, 0x1A, 0x20, 0x40, 0x80, 0x7F], .vaIndex4level 0x7F8040201ABC),
    (.vaPpgtt32, [0xBC, 0x1A, 0x20, 0xC0], .vaIndexPpgtt32 0xC0201ABC),
    (.vaGgtt, [0xBC, 0x3A, 0x12, 0x00], .vaIndexGgtt 0x123ABC),
    (.vaTrtt, [0x78, 0x56, 0x34, 0x12, 0x08, 0xF0], .vaIndexTrtt 0xF00812345678),
    (.miUpdateGtt, [0x00, 0x30, 0x12, 0x00] ++ aGttUpdate.put, .miUpdateGttAddr 0x123000 aGttUpdate)] = true := by decide

theorem test_decode_hdc_port : decodesAll [
    (.hdcToGam, [0x00] ++ anHdcRequest.put, .hdcPageRequest anHdcRequest),
    (.hdcToGam, [0x01, 0x01] ++ anHdc.put, .hdcTlbInvResponse ⟨true, anHdc⟩),
    (.gamToHdc, [0x00] ++ aResponse.put, .gamPageResponse aResponse),
    (.gamToHdc, [0x02, 0x00], .gamTlbInvStart),
    (.gamToHdc, [0x03, 0x00], .gamTlbInvEnd),
    (.gamToHdc, [0x01], .gamResponseOpcodeReserved)] = true := by decide

theorem test_decode_fault_codes_and_types : decodesAll [
    (.faultCode, [0x00] ++ aFault.put, .faultCodeNone aFault),
    (.faultCode, [0x01] ++ aFault.put, .faultCodeNotPresentOrReserved aFault),
    (.faultCode, [0x02] ++ aFault.put, .faultCodePrivilege aFault),
    (.faultCode, [0x03] ++ aFault.put, .faultCodeWritePermission aFault),
    (.memType, [0x00] ++ aType.put, .memtypeUc aType),
    (.memType, [0x01] ++ aType.put, .memtypeWc aType),
    (.memType, [0x04] ++ aType.put, .memtypeWt aType),
    (.memType, [0x05] ++ aType.put, .memtypeWp aType),
    (.memType, [0x06] ++ aType.put, .memtypeWb aType),
    (.memType, [0x02] ++ aType.put, .memtypeReserved2 aType),
    (.memType, [0x03] ++ aType.put, .memtypeReserved3 aType),
    (.memType, [0x07] ++ aType.put, .memtypeReserved7 aType)] = true := by decide

theorem test_decode_etc_fxt : decodesAll [
    (.etc1, [0x77, 0x88, 0x99, 0xFC, 0x78, 0x56, 0x34, 0x12] ++ aFormat.put, .etc1Individual 0x12345678FC998877 aFormat),
    (.etc1, [0x80, 0x80, 0x80, 0xFE, 0x78, 0x56, 0x34, 0x12] ++ aFormat.put, .etc1Differential 0x12345678FE808080 aFormat),
    (.etc2, [0xFB, 0x00, 0x00, 0x02, 0x78, 0x56, 0x34, 0x12] ++ aFormat.put, .etc2T 0x12345678020000FB aFormat),
    (.etc2, [0x80, 0xFB, 0x00, 0x02, 0x78, 0x56, 0x34, 0x12] ++ aFormat.put, .etc2H 0x123456780200FB80 aFormat),
    (.etc2, [0x80, 0x80, 0xFB, 0x02, 0x78, 0x56, 0x34, 0x12] ++ aFormat.put, .etc2Planar 0x1234567802FB8080 aFormat),
    (.etc2Pta, [0x80, 0x80, 0x80, 0x02, 0x78, 0x56, 0x34, 0x12] ++ aFormat.put, .etc2Rgb8Pta 0x1234567802808080 aFormat),
    (.eacR11, [0x80, 0xCD, 0xAB, 0x89, 0x67, 0x45, 0x23, 0x01] ++ aFormat.put, .eacR11 0x123456789ABCD80 aFormat),
    (.etc2EacRgba8, [0x80, 0xCD, 0xAB, 0x89, 0x67, 0x45, 0x23, 0x01, 0x80, 0x80, 0x80, 0x02, 0x78, 0x56, 0x34, 0x12] ++ aFormat.put, .etc2EacRgba8 0x12345678028080800123456789ABCD80 aFormat),
    (.eacRg11, [0x80, 0xCD, 0xAB, 0x89, 0x67, 0x45, 0x23, 0x01, 0x80, 0xCD, 0xAB, 0x89, 0x67, 0x45, 0x23, 0x01] ++ aFormat.put, .eacRg11 0x123456789ABCD800123456789ABCD80 aFormat),
    (.fxt1, [0x00, 0x00, 0x00, 0x00, 0x00, 0x00, 0x00, 0x00, 0x00, 0x00, 0x00, 0x00, 0x00, 0x00, 0x00, 0x03] ++ aFormat.put, .fxt1CcHi 0x3000000000000000000000000000000 aFormat),
    (.fxt1, [0x11, 0x00, 0x00, 0x00, 0x00, 0x00, 0x00, 0x00, 0x00, 0x00, 0x00, 0x00, 0x00, 0x00, 0x00, 0x40] ++ aFormat.put, .fxt1CcChroma 0x40000000000000000000000000000011 aFormat),
    (.fxt1, [0x11, 0x00, 0x00, 0x00, 0x00, 0x00, 0x00, 0x00, 0x00, 0x00, 0x00, 0x00, 0x00, 0x00, 0x00, 0x60] ++ aFormat.put, .fxt1CcAlpha 0x60000000000000000000000000000011 aFormat),
    (.fxt1, [0x11, 0x00, 0x00, 0x00, 0x00, 0x00, 0x00, 0x00, 0x00, 0x00, 0x00, 0x00, 0x00, 0x00, 0x00, 0x80] ++ aFormat.put, .fxt1CcMixed 0x80000000000000000000000000000011 aFormat)] = true := by decide

theorem test_decode_dxt_bc4 : decodesAll [
    (.dxt1, [0x00, 0xF8, 0x1F, 0x00, 0xE4, 0x00, 0x00, 0x00] ++ aFormat.put, .dxt1FourColour 0xE4001FF800 aFormat),
    (.dxt1, [0x1F, 0x00, 0x00, 0xF8, 0xE4, 0x00, 0x00, 0x00] ++ aFormat.put, .dxt1ThreeColourTransparent 0xE4F800001F aFormat),
    (.dxt1Rgb, [0x1F, 0x00, 0x00, 0xF8, 0xE4, 0x00, 0x00, 0x00] ++ aFormat.put, .dxt1Rgb 0xE4F800001F aFormat),
    (.dxt23, [0x10, 0x32, 0x54, 0x76, 0x98, 0xBA, 0xDC, 0xFE, 0x00, 0xF8, 0x1F, 0x00, 0xE4, 0x00, 0x00, 0x00] ++ aFormat.put, .dxt2Dxt3ExplicitAlpha 0xE4001FF800FEDCBA9876543210 aFormat),
    (.dxt45, [0xFF, 0x88, 0xC6, 0xFA, 0x00, 0x00, 0x00, 0x00, 0x00, 0xF8, 0x1F, 0x00, 0xE4, 0x00, 0x00, 0x00] ++ aFormat.put, .dxt4Dxt5InterpolatedAlpha 0xE4001FF80000000000FAC688FF aFormat),
    (.bc4, [0xFF, 0x88, 0xC6, 0xFA, 0x00, 0x00, 0x00, 0x00] ++ aFormat.put, .bc4 0xFAC688FF aFormat),
    (.bc5, [0xFF, 0x88, 0xC6, 0xFA, 0x00, 0x00, 0x00, 0x00, 0xFF, 0x88, 0xC6, 0xFA, 0x00, 0x00, 0x00, 0x00] ++ aFormat.put, .bc5 0xFAC688FF00000000FAC688FF aFormat)] = true := by decide

theorem test_decode_bc6h : decodesAll [
    (.bc6h, [0x00, 0x00, 0x00, 0x00, 0x00, 0x00, 0x00, 0x00, 0x00, 0x00, 0x00, 0x00, 0x10, 0x00, 0x00, 0x00] ++ aFormat.put, .bc6hMode0 0x10000000000000000000000000 aFormat),
    (.bc6h, [0x01, 0x00, 0x00, 0x00, 0x00, 0x00, 0x00, 0x00, 0x00, 0x00, 0x00, 0x00, 0x10, 0x00, 0x00, 0x00] ++ aFormat.put, .bc6hMode1 0x10000000000000000000000001 aFormat),
    (.bc6h, [0x02, 0x00, 0x00, 0x00, 0x00, 0x00, 0x00, 0x00, 0x00, 0x00, 0x00, 0x00, 0x10, 0x00, 0x00, 0x00] ++ aFormat.put, .bc6hMode2 0x10000000000000000000000002 aFormat),
    (.bc6h, [0x06, 0x00, 0x00, 0x00, 0x00, 0x00, 0x00, 0x00, 0x00, 0x00, 0x00, 0x00, 0x10, 0x00, 0x00, 0x00] ++ aFormat.put, .bc6hMode3 0x10000000000000000000000006 aFormat),
    (.bc6h, [0x0A, 0x00, 0x00, 0x00, 0x00, 0x00, 0x00, 0x00, 0x00, 0x00, 0x00, 0x00, 0x10, 0x00, 0x00, 0x00] ++ aFormat.put, .bc6hMode4 0x1000000000000000000000000A aFormat),
    (.bc6h, [0x0E, 0x00, 0x00, 0x00, 0x00, 0x00, 0x00, 0x00, 0x00, 0x00, 0x00, 0x00, 0x10, 0x00, 0x00, 0x00] ++ aFormat.put, .bc6hMode5 0x1000000000000000000000000E aFormat),
    (.bc6h, [0x12, 0x00, 0x00, 0x00, 0x00, 0x00, 0x00, 0x00, 0x00, 0x00, 0x00, 0x00, 0x10, 0x00, 0x00, 0x00] ++ aFormat.put, .bc6hMode6 0x10000000000000000000000012 aFormat),
    (.bc6h, [0x16, 0x00, 0x00, 0x00, 0x00, 0x00, 0x00, 0x00, 0x00, 0x00, 0x00, 0x00, 0x10, 0x00, 0x00, 0x00] ++ aFormat.put, .bc6hMode7 0x10000000000000000000000016 aFormat),
    (.bc6h, [0x1A, 0x00, 0x00, 0x00, 0x00, 0x00, 0x00, 0x00, 0x00, 0x00, 0x00, 0x00, 0x10, 0x00, 0x00, 0x00] ++ aFormat.put, .bc6hMode8 0x1000000000000000000000001A aFormat),
    (.bc6h, [0x1E, 0x00, 0x00, 0x00, 0x00, 0x00, 0x00, 0x00, 0x00, 0x00, 0x00, 0x00, 0x10, 0x00, 0x00, 0x00] ++ aFormat.put, .bc6hMode9 0x1000000000000000000000001E aFormat),
    (.bc6h, [0x03, 0x00, 0x00, 0x00, 0x00, 0x00, 0x00, 0x00, 0x00, 0x00, 0x00, 0x00, 0x10, 0x00, 0x00, 0x00] ++ aFormat.put, .bc6hMode10 0x10000000000000000000000003 aFormat),
    (.bc6h, [0x07, 0x00, 0x00, 0x00, 0x00, 0x00, 0x00, 0x00, 0x00, 0x00, 0x00, 0x00, 0x10, 0x00, 0x00, 0x00] ++ aFormat.put, .bc6hMode11 0x10000000000000000000000007 aFormat),
    (.bc6h, [0x0B, 0x00, 0x00, 0x00, 0x00, 0x00, 0x00, 0x00, 0x00, 0x00, 0x00, 0x00, 0x10, 0x00, 0x00, 0x00] ++ aFormat.put, .bc6hMode12 0x1000000000000000000000000B aFormat),
    (.bc6h, [0x0F, 0x00, 0x00, 0x00, 0x00, 0x00, 0x00, 0x00, 0x00, 0x00, 0x00, 0x00, 0x10, 0x00, 0x00, 0x00] ++ aFormat.put, .bc6hMode13 0x1000000000000000000000000F aFormat),
    (.bc6h, [0x13, 0x00, 0x00, 0x00, 0x00, 0x00, 0x00, 0x00, 0x00, 0x00, 0x00, 0x00, 0x10, 0x00, 0x00, 0x00] ++ aFormat.put, .bc6hUndefined10011 0x10000000000000000000000013 aFormat),
    (.bc6h, [0x17, 0x00, 0x00, 0x00, 0x00, 0x00, 0x00, 0x00, 0x00, 0x00, 0x00, 0x00, 0x10, 0x00, 0x00, 0x00] ++ aFormat.put, .bc6hUndefined10111 0x10000000000000000000000017 aFormat),
    (.bc6h, [0x1B, 0x00, 0x00, 0x00, 0x00, 0x00, 0x00, 0x00, 0x00, 0x00, 0x00, 0x00, 0x10, 0x00, 0x00, 0x00] ++ aFormat.put, .bc6hUndefined11011 0x1000000000000000000000001B aFormat),
    (.bc6h, [0x1F, 0x00, 0x00, 0x00, 0x00, 0x00, 0x00, 0x00, 0x00, 0x00, 0x00, 0x00, 0x10, 0x00, 0x00, 0x00] ++ aFormat.put, .bc6hUndefined11111 0x1000000000000000000000001F aFormat)] = true := by decide

theorem test_decode_bc7 : decodesAll [
    (.bc7, [0x01, 0x00, 0x00, 0x00, 0x00, 0x00, 0x00, 0x00, 0x00, 0x00, 0x00, 0x00, 0x10, 0x00, 0x00, 0x00] ++ aFormat.put, .bc7Mode0 0x10000000000000000000000001 aFormat),
    (.bc7, [0x02, 0x00, 0x00, 0x00, 0x00, 0x00, 0x00, 0x00, 0x00, 0x00, 0x00, 0x00, 0x10, 0x00, 0x00, 0x00] ++ aFormat.put, .bc7Mode1 0x10000000000000000000000002 aFormat),
    (.bc7, [0x04, 0x00, 0x00, 0x00, 0x00, 0x00, 0x00, 0x00, 0x00, 0x00, 0x00, 0x00, 0x10, 0x00, 0x00, 0x00] ++ aFormat.put, .bc7Mode2 0x10000000000000000000000004 aFormat),
    (.bc7, [0x08, 0x00, 0x00, 0x00, 0x00, 0x00, 0x00, 0x00, 0x00, 0x00, 0x00, 0x00, 0x10, 0x00, 0x00, 0x00] ++ aFormat.put, .bc7Mode3 0x10000000000000000000000008 aFormat),
    (.bc7, [0x10, 0x00, 0x00, 0x00, 0x00, 0x00, 0x00, 0x00, 0x00, 0x00, 0x00, 0x00, 0x10, 0x00, 0x00, 0x00] ++ aFormat.put, .bc7Mode4 0x10000000000000000000000010 aFormat),
    (.bc7, [0x20, 0x00, 0x00, 0x00, 0x00, 0x00, 0x00, 0x00, 0x00, 0x00, 0x00, 0x00, 0x10, 0x00, 0x00, 0x00] ++ aFormat.put, .bc7Mode5 0x10000000000000000000000020 aFormat),
    (.bc7, [0x40, 0x00, 0x00, 0x00, 0x00, 0x00, 0x00, 0x00, 0x00, 0x00, 0x00, 0x00, 0x10, 0x00, 0x00, 0x00] ++ aFormat.put, .bc7Mode6 0x10000000000000000000000040 aFormat),
    (.bc7, [0x80, 0x00, 0x00, 0x00, 0x00, 0x00, 0x00, 0x00, 0x00, 0x00, 0x00, 0x00, 0x10, 0x00, 0x00, 0x00] ++ aFormat.put, .bc7Mode7 0x10000000000000000000000080 aFormat),
    (.bc7, [0x00, 0x00, 0x00, 0x00, 0x00, 0x00, 0x00, 0x00, 0x00, 0x00, 0x00, 0x00, 0x10, 0x00, 0x00, 0x00] ++ aFormat.put, .bc7Undefined 0x10000000000000000000000000 aFormat)] = true := by decide

theorem test_decode_astc_modes : decodesAll [
    (.astcMode, [0xA1, 0x00, 0x00, 0x00, 0x00, 0x00, 0x00, 0x00, 0x00, 0x00, 0x00, 0x00, 0x10, 0x00, 0x00, 0x00], .astcModeWBp4HAp2 0x100000000000000000000000A1),
    (.astcMode, [0xA5, 0x00, 0x00, 0x00, 0x00, 0x00, 0x00, 0x00, 0x00, 0x00, 0x00, 0x00, 0x10, 0x00, 0x00, 0x00], .astcModeWBp8HAp2 0x100000000000000000000000A5),
    (.astcMode, [0xA9, 0x00, 0x00, 0x00, 0x00, 0x00, 0x00, 0x00, 0x00, 0x00, 0x00, 0x00, 0x10, 0x00, 0x00, 0x00], .astcModeWAp2HBp8 0x100000000000000000000000A9),
    (.astcMode, [0xAD, 0x00, 0x00, 0x00, 0x00, 0x00, 0x00, 0x00, 0x00, 0x00, 0x00, 0x00, 0x10, 0x00, 0x00, 0x00], .astcModeWAp2HBp6 0x100000000000000000000000AD),
    (.astcMode, [0xAD, 0x01, 0x00, 0x00, 0x00, 0x00, 0x00, 0x00, 0x00, 0x00, 0x00, 0x00, 0x10, 0x00, 0x00, 0x00], .astcModeWBp2HAp2 0x100000000000000000000001AD),
    (.astcMode, [0x24, 0x00, 0x00, 0x00, 0x00, 0x00, 0x00, 0x00, 0x00, 0x00, 0x00, 0x00, 0x10, 0x00, 0x00, 0x00], .astcModeW12HAp2 0x10000000000000000000000024),
    (.astcMode, [0xA4, 0x00, 0x00, 0x00, 0x00, 0x00, 0x00, 0x00, 0x00, 0x00, 0x00, 0x00, 0x10, 0x00, 0x00, 0x00], .astcModeWAp2H12 0x100000000000000000000000A4),
    (.astcMode, [0x84, 0x01, 0x00, 0x00, 0x00, 0x00, 0x00, 0x00, 0x00, 0x00, 0x00, 0x00, 0x10, 0x00, 0x00, 0x00], .astcModeW6H10 0x10000000000000000000000184),
    (.astcMode, [0xA4, 0x01, 0x00, 0x00, 0x00, 0x00, 0x00, 0x00, 0x00, 0x00, 0x00, 0x00, 0x10, 0x00, 0x00, 0x00], .astcModeW10H6 0x100000000000000000000001A4),
    (.astcMode, [0x24, 0x03, 0x00, 0x00, 0x00, 0x00, 0x00, 0x00, 0x00, 0x00, 0x00, 0x00, 0x10, 0x00, 0x00, 0x00], .astcModeWAp6HBp6 0x10000000000000000000000324),
    (.astcMode, [0xFC, 0x05, 0x00, 0x00, 0x00, 0x00, 0x00, 0x00, 0x00, 0x00, 0x00, 0x00, 0x10, 0x00, 0x00, 0x00], .astcVoidExtent2d 0x100000000000000000000005FC),
    (.astcMode, [0xC4, 0x01, 0x00, 0x00, 0x00, 0x00, 0x00, 0x00, 0x00, 0x00, 0x00, 0x00, 0x10, 0x00, 0x00, 0x00], .astcReservedModeA 0x100000000000000000000001C4),
    (.astcMode, [0x20, 0x00, 0x00, 0x00, 0x00, 0x00, 0x00, 0x00, 0x00, 0x00, 0x00, 0x00, 0x10, 0x00, 0x00, 0x00], .astcReservedModeB 0x10000000000000000000000020)] = true := by decide

theorem test_decode_astc_cems : decodesAll [
    (.astcCem, [0x00, 0x00, 0x00, 0x00, 0x00, 0x00, 0x00, 0x00, 0x00, 0x00, 0x00, 0x00, 0x10, 0x00, 0x00, 0x00], .astcCem0 0x10000000000000000000000000),
    (.astcCem, [0x00, 0x20, 0x00, 0x00, 0x00, 0x00, 0x00, 0x00, 0x00, 0x00, 0x00, 0x00, 0x10, 0x00, 0x00, 0x00], .astcCem1 0x10000000000000000000002000),
    (.astcCem, [0x00, 0x40, 0x00, 0x00, 0x00, 0x00, 0x00, 0x00, 0x00, 0x00, 0x00, 0x00, 0x10, 0x00, 0x00, 0x00], .astcCem2 0x10000000000000000000004000),
    (.astcCem, [0x00, 0x60, 0x00, 0x00, 0x00, 0x00, 0x00, 0x00, 0x00, 0x00, 0x00, 0x00, 0x10, 0x00, 0x00, 0x00], .astcCem3 0x10000000000000000000006000),
    (.astcCem, [0x00, 0x80, 0x00, 0x00, 0x00, 0x00, 0x00, 0x00, 0x00, 0x00, 0x00, 0x00, 0x10, 0x00, 0x00, 0x00], .astcCem4 0x10000000000000000000008000),
    (.astcCem, [0x00, 0xA0, 0x00, 0x00, 0x00, 0x00, 0x00, 0x00, 0x00, 0x00, 0x00, 0x00, 0x10, 0x00, 0x00, 0x00], .astcCem5 0x1000000000000000000000A000),
    (.astcCem, [0x00, 0xC0, 0x00, 0x00, 0x00, 0x00, 0x00, 0x00, 0x00, 0x00, 0x00, 0x00, 0x10, 0x00, 0x00, 0x00], .astcCem6 0x1000000000000000000000C000),
    (.astcCem, [0x00, 0xE0, 0x00, 0x00, 0x00, 0x00, 0x00, 0x00, 0x00, 0x00, 0x00, 0x00, 0x10, 0x00, 0x00, 0x00], .astcCem7 0x1000000000000000000000E000),
    (.astcCem, [0x00, 0x00, 0x01, 0x00, 0x00, 0x00, 0x00, 0x00, 0x00, 0x00, 0x00, 0x00, 0x10, 0x00, 0x00, 0x00], .astcCem8 0x10000000000000000000010000),
    (.astcCem, [0x00, 0x20, 0x01, 0x00, 0x00, 0x00, 0x00, 0x00, 0x00, 0x00, 0x00, 0x00, 0x10, 0x00, 0x00, 0x00], .astcCem9 0x10000000000000000000012000),
    (.astcCem, [0x00, 0x40, 0x01, 0x00, 0x00, 0x00, 0x00, 0x00, 0x00, 0x00, 0x00, 0x00, 0x10, 0x00, 0x00, 0x00], .astcCem10 0x10000000000000000000014000),
    (.astcCem, [0x00, 0x60, 0x01, 0x00, 0x00, 0x00, 0x00, 0x00, 0x00, 0x00, 0x00, 0x00, 0x10, 0x00, 0x00, 0x00], .astcCem11 0x10000000000000000000016000),
    (.astcCem, [0x00, 0x80, 0x01, 0x00, 0x00, 0x00, 0x00, 0x00, 0x00, 0x00, 0x00, 0x00, 0x10, 0x00, 0x00, 0x00], .astcCem12 0x10000000000000000000018000),
    (.astcCem, [0x00, 0xA0, 0x01, 0x00, 0x00, 0x00, 0x00, 0x00, 0x00, 0x00, 0x00, 0x00, 0x10, 0x00, 0x00, 0x00], .astcCem13 0x1000000000000000000001A000),
    (.astcCem, [0x00, 0xC0, 0x01, 0x00, 0x00, 0x00, 0x00, 0x00, 0x00, 0x00, 0x00, 0x00, 0x10, 0x00, 0x00, 0x00], .astcCem14 0x1000000000000000000001C000),
    (.astcCem, [0x00, 0xE0, 0x01, 0x00, 0x00, 0x00, 0x00, 0x00, 0x00, 0x00, 0x00, 0x00, 0x10, 0x00, 0x00, 0x00], .astcCem15 0x1000000000000000000001E000)] = true := by decide

theorem test_decode_astc_formats_ldr : decodesAll [
    (.astcFormat, [0x00, 0x00], .astcLdr2d4x4U8srgb),
    (.astcFormat, [0x08, 0x00], .astcLdr2d5x4U8srgb),
    (.astcFormat, [0x09, 0x00], .astcLdr2d5x5U8srgb),
    (.astcFormat, [0x11, 0x00], .astcLdr2d6x5U8srgb),
    (.astcFormat, [0x12, 0x00], .astcLdr2d6x6U8srgb),
    (.astcFormat, [0x21, 0x00], .astcLdr2d8x5U8srgb),
    (.astcFormat, [0x22, 0x00], .astcLdr2d8x6U8srgb),
    (.astcFormat, [0x31, 0x00], .astcLdr2d10x5U8srgb),
    (.astcFormat, [0x32, 0x00], .astcLdr2d10x6U8srgb),
    (.astcFormat, [0x24, 0x00], .astcLdr2d8x8U8srgb),
    (.astcFormat, [0x34, 0x00], .astcLdr2d10x8U8srgb),
    (.astcFormat, [0x36, 0x00], .astcLdr2d10x10U8srgb),
    (.astcFormat, [0x3E, 0x00], .astcLdr2d12x10U8srgb),
    (.astcFormat, [0x3F, 0x00], .astcLdr2d12x12U8srgb),
    (.astcFormat, [0x40, 0x00], .astcLdr2d4x4Flt16),
    (.astcFormat, [0x48, 0x00], .astcLdr2d5x4Flt16),
    (.astcFormat, [0x49, 0x00], .astcLdr2d5x5Flt16),
    (.astcFormat, [0x51, 0x00], .astcLdr2d6x5Flt16),
    (.astcFormat, [0x52, 0x00], .astcLdr2d6x6Flt16),
    (.astcFormat, [0x61, 0x00], .astcLdr2d8x5Flt16),
    (.astcFormat, [0x62, 0x00], .astcLdr2d8x6Flt16),
    (.astcFormat, [0x71, 0x00], .astcLdr2d10x5Flt16),
    (.astcFormat, [0x72, 0x00], .astcLdr2d10x6Flt16),
    (.astcFormat, [0x64, 0x00], .astcLdr2d8x8Flt16),
    (.astcFormat, [0x74, 0x00], .astcLdr2d10x8Flt16),
    (.astcFormat, [0x76, 0x00], .astcLdr2d10x10Flt16),
    (.astcFormat, [0x7E, 0x00], .astcLdr2d12x10Flt16),
    (.astcFormat, [0x7F, 0x00], .astcLdr2d12x12Flt16)] = true := by decide

theorem test_decode_astc_formats_full : decodesAll [
    (.astcFormat, [0x40, 0x01], .astcFull2d4x4Flt16),
    (.astcFormat, [0x48, 0x01], .astcFull2d5x4Flt16),
    (.astcFormat, [0x49, 0x01], .astcFull2d5x5Flt16),
    (.astcFormat, [0x51, 0x01], .astcFull2d6x5Flt16),
    (.astcFormat, [0x52, 0x01], .astcFull2d6x6Flt16),
    (.astcFormat, [0x61, 0x01], .astcFull2d8x5Flt16),
    (.astcFormat, [0x62, 0x01], .astcFull2d8x6Flt16),
    (.astcFormat, [0x71, 0x01], .astcFull2d10x5Flt16),
    (.astcFormat, [0x72, 0x01], .astcFull2d10x6Flt16),
    (.astcFormat, [0x64, 0x01], .astcFull2d8x8Flt16),
    (.astcFormat, [0x74, 0x01], .astcFull2d10x8Flt16),
    (.astcFormat, [0x76, 0x01], .astcFull2d10x10Flt16),
    (.astcFormat, [0x7E, 0x01], .astcFull2d12x10Flt16),
    (.astcFormat, [0x7F, 0x01], .astcFull2d12x12Flt16)] = true := by decide

theorem test_decode_tiles_and_mocs : decodesAll [
    ((.tile .linear), aTile.put, .tileLinear aTile),
    ((.tile .x), aTile.put, .tileX aTile),
    ((.tile .y), aTile.put, .tileY aTile),
    ((.tile .w), aTile.put, .tileW aTile),
    ((.tile .yf), aTile.put, .tileYf aTile),
    ((.tile .ys), aTile.put, .tileYs aTile),
    (.lncfcmocs, [0x37, 0x00] ++ aMocsIndex.put, .lncfcmocsEntry 0x37 aMocsIndex),
    (.gamMocs, [0x3B, 0x00, 0x00, 0x00] ++ aMocsSlot.put, .gamMocsEntry 0x3B aMocsSlot)] = true := by decide

theorem test_decode_messages : decodesAll [
    ((.messageToGam .rcs), [0x01, 0x00, 0x01, 0x00], .msgRcsContextAvailable 0x10001),
    ((.messageToCs .rcs), [0x01, 0x00, 0x01, 0x00], .msgRcsContextReceiveReady 0x10001),
    ((.messageToGam .rcs), [0x02, 0x00, 0x02, 0x00], .msgRcsContextLaunched 0x20002),
    ((.messageToCs .rcs), [0x02, 0x00, 0x02, 0x00], .msgRcsContextConfirmed 0x20002),
    ((.messageToGam .bcs), [0x01, 0x00, 0x01, 0x00], .msgBcsContextAvailable 0x10001),
    ((.messageToCs .bcs), [0x01, 0x00, 0x01, 0x00], .msgBcsContextReceiveReady 0x10001),
    ((.messageToGam .bcs), [0x02, 0x00, 0x02, 0x00], .msgBcsContextLaunched 0x20002),
    ((.messageToCs .bcs), [0x02, 0x00, 0x02, 0x00], .msgBcsContextConfirmed 0x20002),
    ((.messageToGam .vecs), [0x01, 0x00, 0x01, 0x00], .msgVecsContextAvailable 0x10001),
    ((.messageToCs .vecs), [0x01, 0x00, 0x01, 0x00], .msgVecsContextReceiveReady 0x10001),
    ((.messageToGam .vecs), [0x02, 0x00, 0x02, 0x00], .msgVecsContextLaunched 0x20002),
    ((.messageToCs .vecs), [0x02, 0x00, 0x02, 0x00], .msgVecsContextConfirmed 0x20002),
    ((.messageToGam .vcs0), [0x01, 0x00, 0x01, 0x00], .msgVcs0ContextAvailable 0x10001),
    ((.messageToCs .vcs0), [0x01, 0x00, 0x01, 0x00], .msgVcs0ContextReceiveReady 0x10001),
    ((.messageToGam .vcs0), [0x02, 0x00, 0x02, 0x00], .msgVcs0ContextLaunched 0x20002),
    ((.messageToCs .vcs0), [0x02, 0x00, 0x02, 0x00], .msgVcs0ContextConfirmed 0x20002),
    ((.messageToGam .vcs1), [0x01, 0x00, 0x01, 0x00], .msgVcs1ContextAvailable 0x10001),
    ((.messageToCs .vcs1), [0x01, 0x00, 0x01, 0x00], .msgVcs1ContextReceiveReady 0x10001),
    ((.messageToGam .vcs1), [0x02, 0x00, 0x02, 0x00], .msgVcs1ContextLaunched 0x20002),
    ((.messageToCs .vcs1), [0x02, 0x00, 0x02, 0x00], .msgVcs1ContextConfirmed 0x20002)] = true := by decide

/-! ### Helpers -/

/-- The object completes in a state of which `p` holds. -/
def after (i : Instr) (s : State) (p : State → Bool) : Bool :=
  match exec i s with
  | .next t => p t
  | _ => false

/-- The step completes in a state of which `p` holds. -/
def afterStep (s : State) (p : State → Bool) : Bool :=
  match step s with
  | .next t => p t
  | _ => false

theorem exists_next {s : State} (h : afterStep s (fun _ => true) = true) : ∃ t, step s = .next t := by
  unfold afterStep at h
  split at h
  · exact ⟨_, by assumption⟩
  · cases h

/-- Memory holding QWords at addresses. -/
def qwords (l : List (Nat × QWord)) : List Host.Cell := l.foldl (fun m x => memWriteLe m x.1 8 x.2) []

/-- A machine after reset whose render engine has these descriptor registers, over this memory, all of it write-back. -/
def machine (d : DescRegs) (l : List (Nat × QWord)) : State :=
  { State.reset with
    mem := qwords l, memRanges := [⟨0, 2 ^ 39, .wb⟩], engines := { Engines.reset with rcs := { EngineSt.reset with regs := d } } }

/-- A data access of the render engine's render cache. -/
def access (k : AccessKind) (va : QWord) (size : BitVec 3) (data : QWord) : Access :=
  ⟨.rcs, .renderCache, k, false, false, false, false, false, false, 0, size, va, data⟩

/-- The QWord at address 2000h, and the render engine's atomic on it. -/
def entryAt (q : QWord) : State := machine DescRegs.zero [(0x2000, q)]

/-- The atomic leaves `q` in memory and returns it. -/
def leaves (i : Instr) (before q : QWord) : Bool :=
  after i (entryAt before) fun t => mem64 t 0x2000 == q && t.atomicReturn == q

/-- The texel is (r, g, b, a), each over 255. -/
def isRgba (x : Texel) (r g b a : Nat) : Bool :=
  x == ⟨.unorm r 255, .unorm g 255, .unorm b 255, .unorm a 255⟩

/-- The texel is the FP16 patterns (r, g, b), whatever its alpha. -/
def isHalf (x : Texel) (r g b : BitVec 16) : Bool := x.r == .half r && x.g == .half g && x.b == .half b

/-- A block of 16 bytes, the first byte the least significant. -/
def block (l : List Byte) : Block := ofLeBytes 128 l

/-- A block of 8 bytes. -/
def half (l : List Byte) : QWord := ofLeBytes 64 l

/-- A plain texture format. -/
def plain : FormatFlags := ⟨false, false⟩

/-- The machine with an ASTC surface format in force. -/
def withFormat (w h : Nat) (p : AstcProfile) : State := { State.reset with astcFormat := ⟨w, h, p⟩ }

/-! ### Well-formedness: an ill-formed term for each check -/

/-- Every term is refused. -/
def allRefused (l : List Instr) : Bool := l.all fun i => !i.wf

/-- A write by a client that only reads (R101), a fetch that is no read of the instruction cache (R855), an address whose upper
bits do not repeat bit 47 (R302). -/
theorem test_wf_access : allRefused [
    .trttL3e 0 { anAccess with client := .samplerCache, kind := .write },
    .trttL3e 0 { anAccess with client := .commandStream, kind := .atomic },
    .trttL3e 0 { anAccess with ifetch := true },
    .trttL3e 0 { anAccess with va := 0x0000800000000000 }] = true := by decide

theorem test_wf_operands : allRefused [
    .atomicPageUpdate0000 ⟨.rcs, 0x2004⟩, .atomicAdUpdate111 ⟨.rcs, 0x2001⟩,
    .hdcPageRequest { anHdcRequest with src := ⟨2, 0⟩ }, .hdcPageRequest { anHdcRequest with vaPage := 0x1000000000 },
    .gamPageResponse { aResponse with pa := 0x08000000 },
    .faultCodeNone { aFault with acc := { anAccess with ifetch := true } }] = true := by decide

/-- The atomics take a naturally aligned QWord (R131). -/
theorem test_wf_atomics : allRefused [
    .atomicPageUpdate0001 ⟨.rcs, 1⟩, .atomicPageUpdate0010 ⟨.rcs, 1⟩, .atomicPageUpdate0011 ⟨.rcs, 1⟩,
    .atomicPageUpdate0100 ⟨.rcs, 1⟩, .atomicPageUpdate0101 ⟨.rcs, 1⟩, .atomicPageUpdate0110 ⟨.rcs, 1⟩,
    .atomicPageUpdate0111 ⟨.rcs, 1⟩, .atomicPageUpdate1000 ⟨.rcs, 1⟩, .atomicPageUpdate1001 ⟨.rcs, 1⟩,
    .atomicPageUpdate1010 ⟨.rcs, 1⟩, .atomicPageUpdate1011 ⟨.rcs, 1⟩, .atomicPageUpdate1100 ⟨.rcs, 1⟩,
    .atomicPageUpdate1101 ⟨.rcs, 1⟩, .atomicPageUpdate1110 ⟨.rcs, 1⟩, .atomicPageUpdate1111 ⟨.rcs, 1⟩,
    .atomicAUpdate000 ⟨.rcs, 2⟩, .atomicAUpdate001 ⟨.rcs, 2⟩, .atomicAUpdate010 ⟨.rcs, 2⟩, .atomicAUpdate011 ⟨.rcs, 2⟩,
    .atomicAUpdate100 ⟨.rcs, 4⟩, .atomicAdUpdate101 ⟨.rcs, 4⟩, .atomicAdUpdate110 ⟨.rcs, 4⟩] = true := by decide

/-- The mode bits of a descriptor (R300) and its Fault Model (R31) are those of the row. -/
theorem test_wf_descriptors : allRefused [
    .ctxLegacyGgtt 0x108 anAccess, .ctxLegacyPpgtt32 0x118 anAccess, .ctxLegacyPpgtt48 0x108 anAccess,
    .ctxAdvanced 0x008 anAccess, .faultModelHang 0x40 aFault, .faultModelHalt 0x80 aFault,
    .faultModelStreamSwitch 0xC0 aFault, .faultModelReserved 0x00 aFault] = true := by decide

/-- P and PS are those of the row (R171-R187). -/
theorem test_wf_entries : allRefused [
    .ia32ePml4e 0x0 anAccess, .ia32ePml4e 0x81 anAccess, .ia32ePdpePd 0x81 anAccess, .ia32ePdpe1gb 0x01 anAccess,
    .ia32ePdePt 0x80 anAccess, .ia32ePde2mb 0x80 anAccess, .ia32ePte64kb 0x2 anAccess, .ia32ePte4kb 0x2 anAccess,
    .legacy32Pde 0x0 anAccess, .legacyPte64kb 0x0 anAccess, .legacyPte4kb 0x0 anAccess, .legacy64Pml4e 0x0 anAccess,
    .legacy64PdpePd 0x81 anAccess, .legacy64Pdpe1gb 0x01 anAccess, .legacy64PdePt 0x81 anAccess,
    .legacy64Pde2mb 0x01 anAccess, .ggttPte 0x2 anAccess] = true := by decide

/-- The block modes of the texture formats (R541-R545, R560, R593, R606, R620). -/
theorem test_wf_texture_modes : allRefused [
    .etc1Individual 0x02000000 aFormat, .etc1Differential 0 aFormat, .etc2T 0 aFormat, .etc2H 0 aFormat,
    .etc2Planar 0 aFormat, .fxt1CcHi (1 <<< 127) aFormat, .fxt1CcChroma 0 aFormat, .fxt1CcAlpha (2 <<< 125) aFormat,
    .fxt1CcMixed 0 aFormat, .dxt1FourColour 0 aFormat, .dxt1ThreeColourTransparent 1 aFormat,
    .bc6hMode0 1 aFormat, .bc6hMode1 0 aFormat, .bc6hMode2 6 aFormat, .bc6hMode3 2 aFormat, .bc6hMode4 2 aFormat,
    .bc6hMode5 2 aFormat, .bc6hMode6 2 aFormat, .bc6hMode7 2 aFormat, .bc6hMode8 2 aFormat, .bc6hMode9 2 aFormat,
    .bc6hMode10 2 aFormat, .bc6hMode11 2 aFormat, .bc6hMode12 2 aFormat, .bc6hMode13 2 aFormat,
    .bc6hUndefined10011 3 aFormat, .bc6hUndefined10111 3 aFormat, .bc6hUndefined11011 3 aFormat,
    .bc6hUndefined11111 3 aFormat, .bc7Mode0 2 aFormat, .bc7Mode1 1 aFormat, .bc7Mode2 1 aFormat, .bc7Mode3 1 aFormat,
    .bc7Mode4 1 aFormat, .bc7Mode5 1 aFormat, .bc7Mode6 1 aFormat, .bc7Mode7 1 aFormat, .bc7Undefined 1 aFormat] = true := by
  decide

/-- The index mode (R657) and the endpoint mode (R662) are those of the row. -/
theorem test_wf_astc : allRefused [
    .astcVoidExtent2d 0, .astcReservedModeA 0, .astcReservedModeB 0x1FC, .astcModeWBp4HAp2 0x1FC, .astcModeWBp8HAp2 0,
    .astcModeWAp2HBp8 0, .astcModeWAp2HBp6 0, .astcModeWBp2HAp2 0, .astcModeW12HAp2 0, .astcModeWAp2H12 0,
    .astcModeW6H10 0, .astcModeW10H6 0, .astcModeWAp6HBp6 0,
    .astcCem0 0x2000, .astcCem1 0, .astcCem2 0, .astcCem3 0, .astcCem4 0, .astcCem5 0, .astcCem6 0, .astcCem7 0,
    .astcCem8 0, .astcCem9 0, .astcCem10 0, .astcCem11 0, .astcCem12 0, .astcCem13 0, .astcCem14 0, .astcCem15 0] = true := by
  decide

/-- A message bit needs its mask bit (R34). -/
theorem test_wf_messages : allRefused [
    .msgRcsContextAvailable 0x00000001, .msgRcsContextReceiveReady 0x00010000, .msgRcsContextLaunched 0x00030003,
    .msgRcsContextConfirmed 0x00000002, .msgBcsContextAvailable 1, .msgBcsContextReceiveReady 1, .msgBcsContextLaunched 2,
    .msgBcsContextConfirmed 2, .msgVecsContextAvailable 1, .msgVecsContextReceiveReady 1, .msgVecsContextLaunched 2,
    .msgVecsContextConfirmed 2, .msgVcs0ContextAvailable 1, .msgVcs0ContextReceiveReady 1, .msgVcs0ContextLaunched 2,
    .msgVcs0ContextConfirmed 2, .msgVcs1ContextAvailable 1, .msgVcs1ContextReceiveReady 1, .msgVcs1ContextLaunched 2,
    .msgVcs1ContextConfirmed 2] = true := by decide

/-! ### Worked values, from 95_test_vectors.md (their numbers are named) and hand calculation from the rules -/

/-- B7-1, B7-4, B7-6, B7-7. -/
theorem test_leaf_atomics :
    (leaves (.atomicPageUpdate0000 anAtomic) 0x12345003 0x12345023 && leaves (.atomicPageUpdate0001 anAtomic) 0x5001 0x5061
      && leaves (.atomicPageUpdate0011 anAtomic) 0x5003 0x5463 && leaves (.atomicPageUpdate0101 anAtomic) 0x5001 0x5021)
      = true := by decide

/-- B7-8, B7-9, B7-10, B7-11. -/
theorem test_intermediate_atomics :
    (leaves (.atomicPageUpdate1001 anAtomic) 0x40000083 0x400000E3 && leaves (.atomicPageUpdate1001 anAtomic) 0x0003 0x0023
      && leaves (.atomicPageUpdate1101 anAtomic) 0x0001 0x0001 && leaves (.atomicPageUpdate1111 anAtomic) 0x0081 0x04A1)
      = true := by decide

/-- R443, R447, R448 on a read-only entry. -/
theorem test_second_family :
    (leaves (.atomicAUpdate010 anAtomic) 0x5001 0x5021 && leaves (.atomicAdUpdate110 anAtomic) 0x5001 0x5001
      && leaves (.atomicAdUpdate111 anAtomic) 0x5001 0x5061) = true := by decide

/-- B5-1, with the table of this machine: entry 123h maps ABCD_E000h. -/
theorem test_ggtt_walk :
    after (.ctxLegacyGgtt 0x9 (access .read 0x123456 0 0)) (machine DescRegs.zero [(0x7F800918, 0xABCDE001)])
      (fun t => t.completion.pa == 0xABCDE456 && t.completion.status == .done) = true := by decide

/-- B5-3. -/
theorem test_ppgtt32_walk :
    after (.ctxLegacyPpgtt32 0x109 (access .read 0xFFFFFFFF80403ABC 0 0))
      (machine ⟨0, 0, 0, 0x100000000, 0⟩ [(0x100000010, 0x200000003), (0x200000018, 0x345678003)])
      (fun t => t.completion.pa == 0x345678ABC) = true := by decide

/-- B5-7, B5-8, B5-9: a Null page, and the leaf's R/W alone, in a legacy 48-bit context. -/
theorem test_legacy_leaf_checks :
    (after (.legacyPte4kb 0x203 (access .write 0x1234 0 0)) State.reset (fun t => t.walk.result == .nullPage)
      && after (.legacyPte4kb 0x5003 (access .write 0x1234 0 0)) { State.reset with walk := ⟨⟨false, false, true⟩, false, .none⟩ }
        (fun t => t.walk.result == .translated ⟨0x5234, 12, ⟨true, true, false⟩, false, 0⟩)
      && after (.legacyPte4kb 0x5001 (access .write 0x1234 0 0)) State.reset
        (fun t => (engineOf t .rcs).events == [.legacyPageFault 0x1234 true 3])) = true := by decide

/-- B5-5, B5-6. -/
theorem test_large_pages :
    (after (.ia32ePde2mb 0x40200083 (access .read 0x12345 0 0)) (machine ⟨0x100, 0, 0, 0, 0⟩ [])
        (fun t => match t.walk.result with | .translated x => x.pa == 0x40212345 | _ => false)
      && after (.legacy64Pdpe1gb 0xC0000083 (access .read 0x01234567 0 0)) State.reset
        (fun t => match t.walk.result with | .translated x => x.pa == 0xC1234567 | _ => false)) = true := by decide

/-- B3-11, B3-12, B6-8. -/
theorem test_trtt_entries :
    (after (.trttL3e 0x201000 anAccess) State.reset (fun t => t.trWalk == .next 0x201000)
      && after (.trttL3e 0x201003 anAccess) State.reset (fun t => t.trWalk == .invalidTile)
      && after (.trttL2e 0x201002 anAccess) State.reset (fun t => t.trWalk == .nullTile && t.regs.nullTileCount == 1)
      && after (.trttL1e 0x30 { anAccess with va := 0x2345 }) State.reset (fun t => t.trWalk == .newVa 0x302345)
      && after (.trttL1e 0 anAccess) State.reset (fun t => t.trWalk == .invalidTile)) = true := by decide

/-- B3-14, B3-15. -/
theorem test_index_splits :
    (after (.vaIndex4level 0x7F1234567ABC) State.reset (fun t => t.indices == ⟨0xFE, 0x48, 0x1A2, 0x167, 0x160, 0xABC⟩)
      && after (.vaIndexTrtt 0xE123456789AB) State.reset
        (fun t => t.indices.pdp == 0x24 && t.indices.pd == 0xD1 && t.indices.pt == 0x167 && t.indices.offset == 0x89AB))
      = true := by decide

/-- A5: page address 0020_3000h names the QWord at 1018h. -/
theorem test_update_gtt :
    after (.miUpdateGttAddr 0x203000 ⟨0x6001⟩) State.reset
      (fun t => t.ggttOffset == 0x1018 && mem64 t 0x7F801018 == 0x6001) = true := by decide

/-- B4-1, B4-2, B4-3: bytes 600 of row 10, 300 of row 40, 13 of row 27. -/
theorem test_legacy_tiles :
    (after (.tileX ⟨600, 10, 4096, 0x10000, .e8, .s1, 0⟩) State.reset (fun t => t.tile.offset == 37976)
      && after (.tileY ⟨300, 40, 1024, 0x10000, .e8, .s1, 0⟩) State.reset (fun t => t.tile.offset == 42124)
      && after (.tileW ⟨13, 27, 128, 0x10000, .e8, .s1, 0⟩) State.reset (fun t => t.tile.offset == 731)) = true := by decide

/-- B4-4, B4-6, B4-7. -/
theorem test_standard_tiles :
    (after (.tileYf ⟨0x55, 0x15, 512, 0x10000, .e32, .s1, 0⟩) State.reset (fun t => t.tile.offset == 0xCD5)
      && after (.tileYs ⟨0x200, 0, 1024, 0x10000, .e64, .s1, 0⟩) State.reset (fun t => t.tile.offset == 0x8000)
      && after (.tileYs ⟨0, 0, 512, 0x10000, .e32, .s4, 3⟩) State.reset (fun t => t.tile.offset == 0xC000)) = true := by decide

/-- R244, R744: the base of slot 4 of the tail of a surface with 64-bit elements of 4 by 4 texels, and a base that is no slot's. -/
theorem test_tail_base :
    (after (.tileYs ⟨0, 0, 1024, 0x10080, .e64, .s1, 0⟩) State.reset (fun t => t.tile.gva == 0x10080)
      && !after (.tileYs ⟨0, 0, 1024, 0x10088, .e64, .s1, 0⟩) State.reset (fun _ => true)) = true := by decide

/-- B10-1, B10-3, B10-5: the first texels. -/
theorem test_etc_blocks :
    (after (.etc1Individual (half [0xF0, 0x0F, 0x80, 0x28, 0, 0, 0xFF, 0]) plain) State.reset
        (fun t => isRgba (t.texels.at 0 0) 255 5 141 255 && isRgba (t.texels.at 0 2) 29 255 29 255)
      && after (.etc2T (half [0xF2, 0x5C, 0x37, 0x9B, 0, 0x0F, 0, 0xFF]) plain) State.reset
        (fun t => isRgba (t.texels.at 0 0) 19 87 121 255 && isRgba (t.texels.at 0 2) 170 85 204 255)
      && after (.etc2Planar (half [0x40, 0x21, 0x0E, 0xFF, 0, 1, 0x1F, 0xD5]) plain) State.reset
        (fun t => isRgba (t.texels.at 0 1) 161 24 137 255 && isRgba (t.texels.at 3 0) 57 199 109 255)) = true := by decide

/-- B10-7: row 0 of an EAC block. -/
theorem test_eac_block :
    after (.eacR11 (half [0x80, 0x37, 5, 0x39, 0x77, 0xFA, 0xC6, 0x88]) plain) State.reset
      (fun t => [0, 1, 2, 3].map (fun c => (t.texels.at 0 c).r) == [.unorm 956 2047, .unorm 1076 2047, .unorm 1268 2047, .unorm 764 2047])
      = true := by decide

/-- B10-12, B10-14. -/
theorem test_fxt1_blocks :
    (after (.fxt1CcHi (block [0x88, 0xC6, 0xFA, 0x88, 0xC6, 0xFA, 0x88, 0xC6, 0xFA, 0x88, 0xC6, 0xFA, 0x1F, 0, 0, 0x3E]) plain)
        State.reset (fun t => isRgba (t.texels.at 0 1) 43 0 213 255 && isRgba (t.texels.at 1 3) 0 0 0 0)
      && after (.fxt1CcMixed (block (List.replicate 8 0xE4 ++ [0x8A, 0x7A, 0x4F, 0x15, 0, 0xE0, 0xFF, 0xCF])) plain)
        State.reset (fun t => isRgba (t.texels.at 0 1) 192 162 137 255 && isRgba (t.texels.at 0 5) 85 88 85 255)) = true := by
  decide

/-- B11-1, B11-2, B11-4. -/
theorem test_dxt1_blocks :
    (after (.dxt1FourColour (half [0, 0xF8, 0, 0, 0xE4, 0xE4, 0xE4, 0xE4]) plain) State.reset
        (fun t => isRgba (t.texels.at 0 2) 170 0 0 255 && isRgba (t.texels.at 3 3) 85 0 0 255)
      && after (.dxt1ThreeColourTransparent (half [0, 0, 0xE0, 7, 0xE4, 0xE4, 0xE4, 0xE4]) plain) State.reset
        (fun t => isRgba (t.texels.at 0 2) 0 127 0 255 && isRgba (t.texels.at 0 3) 0 0 0 0)
      && after (.dxt1Rgb (half [0, 0, 0xE0, 7, 0xE4, 0xE4, 0xE4, 0xE4]) plain) State.reset
        (fun t => isRgba (t.texels.at 0 2) 0 85 0 255 && isRgba (t.texels.at 0 3) 0 170 0 255)) = true := by decide

/-- B11-5, row 0. -/
theorem test_bc4_block :
    after (.bc4 (half [0xFF, 0, 0x88, 0xC6, 0xFA, 0x77, 0x39, 5]) plain) State.reset
      (fun t => [0, 1, 2, 3].map (fun c => (t.texels.at 0 c).r) == [.unorm 255 255, .unorm 0 255, .unorm 218 255, .unorm 182 255])
      = true := by decide

/-- B11-10, texels 0 and 15. -/
theorem test_bc7_block :
    after (.bc7Mode6 (block [0xC0, 0x3F, 0, 0xF0, 7, 2, 0xFF, 0xFF, 0x10, 0x32, 0x54, 0x76, 0x98, 0xBA, 0xDC, 0xFE]) plain)
      State.reset (fun t => isRgba (t.texels.at 0 0) 255 1 129 255 && isRgba (t.texels.at 3 3) 0 254 128 254) = true := by
  decide +kernel

/-- B11-16, texels 1 and 15. -/
theorem test_bc6h_block :
    after (.bc6hMode10 (block [0xE3, 0x7F, 0, 0, 4, 0xE0, 0x7F, 0, 0x11, 0x32, 0x54, 0x76, 0x98, 0xBA, 0xDC, 0xFE]) plain)
      State.reset (fun t => isHalf (t.texels.at 0 1) 0x743F 0x07C0 0x3E0F && isHalf (t.texels.at 3 3) 0 0x7BFF 0x3E0F) = true := by
  decide +kernel

/-- B12-2, B12-4, B12-18: a void-extent block in the LDR profile, an HDR one in the Full profile, endpoint mode 11. -/
theorem test_astc_blocks :
    (after (.astcVoidExtent2d (block [0xFC, 0xFD, 0xFF, 0xFF, 0xFF, 0xFF, 0xFF, 0xFF, 0xFF, 0xFF, 0, 0x80, 0, 0, 0xFF, 0xFF]))
        (withFormat 4 4 .ldrFlt16) (fun t => isHalf (t.texels.at 2 1) 0x3C00 0x3800 0)
      && after (.astcVoidExtent2d (block [0xFC, 0xFF, 0xFF, 0xFF, 0xFF, 0xFF, 0xFF, 0xFF, 0, 0x3C, 0, 0x3C, 0, 0x3C, 0, 0x3C]))
        (withFormat 4 4 .fullFlt16) (fun t => isHalf (t.texels.at 0 0) 0x3C00 0x3C00 0x3C00)
      && after (.astcCem11 (block [0x42, 0x60, 0x25, 0x68, 0xAC, 0xF0, 0x34, 0x79, 1, 0, 0, 0, 0x27, 0x27, 0x27, 0x27]))
        (withFormat 4 4 .fullFlt16) (fun t => isHalf (t.texels.at 0 1) 0x0E54 0x306F 0x24E8)) = true := by
  decide +kernel

/-- R651: the code 1_49h = 5 by 5, Full profile. -/
theorem test_astc_format :
    after .astcFull2d5x5Flt16 State.reset (fun t => t.astcFormat == ⟨5, 5, .fullFlt16⟩) = true := by decide

/-- B8-9 in the L3 table, and the WT code of R199. -/
theorem test_cache_controls :
    (l3Cacheability 0x37 0x1200 false false 0 == .uncacheable && l3Cacheability 0x37 0x1800 false false 0 == .writeBack
      && after (.memtypeWt aType) State.reset (fun t => t.memType == ⟨.wt, 2⟩)) = true := by decide

/-- D23: (1 * 10 + 6 * -5) / 7 rounds toward minus infinity, to -3. -/
theorem test_bc4_snorm :
    after (.bc4 0x7FB0A ⟨true, false⟩) State.reset (fun t => (t.texels.at 0 0).r == .snorm (-3) 127) = true := by decide

/-- B9-3, B9-5, B9-7. -/
theorem test_pixels :
    (pixelTexels State.reset .p4a4 0xC3 == [⟨.unorm 0 255, .unorm 0 255, .unorm 0 255, .unorm 204 255⟩]
      && pixelTexels State.reset .yuyv 0x90208010
        == [⟨.raw 0x90 8, .raw 0x10 8, .raw 0x80 8, .unorm 255 255⟩, ⟨.raw 0x90 8, .raw 0x20 8, .raw 0x80 8, .unorm 255 255⟩]
      && pixelTexels State.reset .d24s8 0xFF123456 == [⟨.raw 0x123456 24, .raw 0xFF 8, .unorm 0 255, .unorm 255 255⟩]) = true := by decide

/-- R523: the stencil format is R8_UINT, its byte the red channel when it is read and when it is written. -/
theorem test_stencil_is_red :
    (pixelTexels State.reset .stencil8 0x5A == [⟨.raw 0x5A 8, .unorm 0 255, .unorm 0 255, .unorm 255 255⟩]
      && packPixel .stencil8 0x5A 1 2 3 0 == .bits 0x5A) = true := by decide

/-- The surface of B13-1. -/
def surface : Surface :=
  ⟨.s2d, .y, 0x10000, 100, 60, 1, .e32, 1, 1, 1024, 96, 4, 4, .given, 4, 0, 0, 0, .s1, .none, 0, 0, false, .none, nullTexel, .clientOnly, none⟩

/-- B13-1: the corner of level 3, and texel (3, 2) of level 3 in slice 2: byte 220 of row 270. -/
theorem test_surface_layout :
    (lodCorner surface 3 == (52, 76) && alignedWidth surface 2 == 28
      && (match pos2d surface ⟨3, 2, 2, 3, 0, 0, 0, 0, .y⟩ with | .ok (some p) => p.u == 220 && p.v == 270 | _ => false)) = true := by
  decide

/-- R285: a tiled pitch above 256 KB is refused though the surface is larger than R8 allows. -/
theorem test_huge_pitch :
    (match layoutOf [] { surface with pitch := 2 ^ 31, height := 256 } ⟨0, 0, 0, 0, 0, 0, 0, 0, .y⟩ with
      | .error (.refuse .badPitch) => true
      | _ => false) = true := by decide

/-- R763, R285: the CCS of a 3D surface is TileY, so that a width above its pitch is refused, whatever its tile field. -/
theorem test_ccs3d_pitch :
    (match layoutOf [] { surface with kind := .ccs3d, tile := .linear, width := 2048 } ⟨0, 0, 0, 0, 0, 0, 0, 0, .y⟩ with
      | .error (.refuse .badPitch) => true
      | _ => false) = true := by decide

/-- R286, R735: the blitter reaches a 1D surface in TileYS, which is linear, and no TileY surface, as a CCS is. -/
theorem test_stream_tilings :
    let a : Access := { anAccess with eng := .bcs }
    (streamSupports a (asLaidOut { surface with kind := .s1d, tile := .ys })
      && !streamSupports a (asLaidOut { surface with kind := .ccs3d, tile := .linear })
      && !streamSupports a (asLaidOut surface)) = true := by decide

/-- R464, R465: an HDC access is L3 coherent in an advanced context only. R466: the mode bits are the descriptor's. -/
theorem test_hdc_modes :
    (!l3Coherent ⟨.rcs, 0, 0, 0, true, true, false, none⟩ && l3Coherent ⟨.rcs, 0, 0, 0, false, true, false, some 1⟩
      && faultModeBits 0x91 == 2) = true := by decide

/-- R244: a 64-bit surface of single pixels may have as its base a level in the mip tail of a surface of 4 by 4 blocks: slot 4, at 80h. -/
theorem test_foreign_tail_base :
    (match layoutOf [] { surface with tile := .ys, elemBits := .e64, base := 0x10080, width := 4, height := 4, mipCount := 1, mipTailStart := 15 }
        ⟨0, 0, 0, 0, 0, 0, 0, 0, .y⟩ with
      | .ok p => p.offset == some 0
      | _ => false) = true := by decide +kernel

/-- R244: a surface of several levels may not have the base of a level in another surface's mip tail; a single MIP may. -/
theorem test_tail_base_single_mip :
    let s : Surface := { surface with tile := .ys, elemBits := .e64, base := 0x10080, width := 4, height := 4, mipTailStart := 15 }
    (match checkTiling { s with mipCount := 2 }, checkTiling { s with mipCount := 1 } with
      | .error (.refuse .misalignedTileBase), .ok () => true
      | _, _ => false) = true := by decide +kernel

/-- R372: after the wait for an invalidation the processor sees what a GPU write coherent at LLC stored; R186: the GPU's writes of Global GTT
entries do not wait in LLC. -/
theorem test_invalidation_wait :
    let w : Writer := ⟨true, false, true, .atLlc, none⟩
    let s := store State.reset 0x1000 8 5 w
    (cpuStale s 0x1000 8 == [0] && afterStep { s with inputs := [.op .invalidationWait] } (fun t => cpuStale t 0x1000 8 == [])
      && !Writer.ggtt.writeBack) = true := by decide +kernel

/-- B13-6: D9h names planes 0, 1, 0 and clear; E4h is the uncompressed case. -/
theorem test_mcs :
    ([0, 1, 2, 3].map (mcsSlice .s4 0xD9) == [.slice 0, .slice 1, .slice 0, .clear]
      && [0, 1, 2, 3].map (mcsSlice .s4 0xE4) == [.slice 0, .slice 1, .slice 2, .slice 3]
      && [0, 1, 2, 3].map (mcsSlice .s4 0xFF) == [.clear, .clear, .clear, .clear]) = true := by decide

/-- R189, R321: the ignored bits 2 and 63 of a legacy pointer entry leave the rights of the walk as they are. -/
theorem test_legacy_pointer_rights :
    (after (.legacy64PdpePd 0x8000000000003001 anAccess) State.reset (fun t => t.walk.rights == State.reset.walk.rights)
      && after (.ia32ePml4e 0x8000000000003005 { anAccess with va := 0 }) (machine ⟨0x101, 0, 0, 0, 0⟩ [])
        (fun t => t.walk.rights == ⟨false, true, true⟩)) = true := by decide

/-- R402, R403: a fetch beside an access that meets a Null tile is counted, one that meets an Invalid tile raises its interrupt. -/
theorem test_beside_tiles :
    let t := noteTiles State.reset .rcs [⟨.beside .nullTile, 0⟩, ⟨.beside .invalidTile, 0⟩, ⟨.beside .nullPage, 0⟩]
    (t.regs.nullTileCount == 1 && (engineOf t .rcs).events == [.trttInvalidTile]) = true := by decide

/-- B1-8 and R850: Context Launched latches the registers and answers Context Confirmed. -/
theorem test_context_launched :
    after (.msgBcsContextLaunched 0x20002)
      { State.reset with engines := { Engines.reset with bcs := { EngineSt.reset with phase := .ready, regs := ⟨0x1B, 5, 6, 7, 8⟩ } } }
      (fun t => (engineOf t .bcs).ctx == some ⟨0x1B, 5, 6, 7, 8⟩ && t.inputs == [.message (.msgBcsContextConfirmed 0x20002)]) = true := by
  decide

/-- B1-11: clearing Page Request Enable sets Stopped. -/
theorem test_page_request_control :
    afterStep { State.reset with pci := { PciCaps.reset with priControl := 1, priStatus := 3 }, inputs := [.op (.pciWrite .priControl 0)] }
      (fun t => t.pci.priControl == 0 && t.pci.priStatus == 0x0103) = true := by decide

/-- R376: a response releases the credit of the request it answers. -/
theorem test_hdc_response :
    after (.gamPageResponse aResponse) { State.reset with hdc := { HdcPort.reset with pending := [anHdcRequest] } }
      (fun t => t.hdc.pending == [] && t.hdc.miniTlb.length == 1) = true := by decide

/-! ### Witnesses: for each statement of Certificates/Slice0/Obligations.lean with hypotheses, states and operands that meet them -/

/-- A four-level table at 1000h to 4000h that maps the first page to 5000h, and a Global GTT that maps it to 1000h. -/
def tables : State :=
  machine ⟨0, 0x1000, 0, 0, 0⟩
    [(0x1000, 0x2007), (0x2000, 0x3007), (0x3000, 0x4007), (0x4000, 0x5007), (0x7F800000, 0x1001)]

/-- The same with another entry in the last table. -/
def tablesWith (leaf : QWord) : State :=
  machine ⟨0, 0x1000, 0, 0, 0⟩ [(0x1000, 0x2007), (0x2000, 0x3007), (0x3000, 0x4007), (0x4000, leaf)]

/-- The machine with an input presented. -/
def presents (s : State) (i : Input) : State := { s with inputs := [i] }

/-- The machine with the render engine in a mode and a phase of the handshake. -/
def engineIn (m : EngineMode) (p : Phase) : State :=
  { State.reset with engines := { Engines.reset with rcs := { EngineSt.reset with mode := m, phase := p } } }

/-- The machine with GAM's option register set to treat every advanced fault as Fault-and-Halt. -/
def halting (s : State) : State := { s with regs := { s.regs with r404c := 1 } }

/-- The machine whose memory is uncacheable everywhere. -/
def uncached (s : State) : State := { s with memRanges := [⟨0, 2 ^ 39, .uc⟩] }

/-- A read that ends at the last byte of its page. -/
def lastRead : Access := access .read 0xFFC 3 0

/-- A write that begins at the first byte of its page. -/
def firstWrite : Access := access .write 0x0 7 0x1122334455667788

/-- The machine with 64 KB pages enabled. -/
def with64k (s : State) : State := { s with params := { s.params with page64k := true } }

/-- A request of the render engine that waits at the top of its miss queue. -/
def waiting : Waiting := ⟨⟨lastRead, 0, .client, false, 0, []⟩, ⟨1, .rcs, 0, 0, 0, false, false, false, 1⟩, 7⟩

/-- The render engine Halted on that request. -/
def halted : State :=
  { State.reset with
    engines := { Engines.reset with rcs := { EngineSt.reset with mode := .halted, miss := some waiting } }
    pageRequests := [⟨7, false, waiting.fault⟩]
    nextPrg := 8 }

/-- A reset of the engine waits. -/
def resettingIn (s : State) (e : Engine) : State := updEngine s e fun x => { x with resetting := true }

/-- The page request 7 is at the MMIO registers of the render engine. -/
def heldIn (s : State) : State := updEngine s .rcs fun x => { x with mmioRequests := [⟨7, false, waiting.fault⟩] }

theorem test_witness_DecodeOfEncode :
    (Instr.ctxAdvanced 0x93 anAccess).wf = true ∧ (Instr.bc7Mode7 0x80 aFormat).wf = true
      ∧ (Instr.msgVcs1ContextConfirmed 0x20002).wf = true := by decide

theorem test_witness_SpecWordsDecode : anAtomic.wf = true ∧ aFault.wf = true ∧ anAccess.wf = true := by decide

theorem test_witness_StepRunsTheDecodedObject :
    ((presents State.reset (.object .memType [5, 1])).inputs = .object .memType [5, 1] :: [] ∧
      decode .memType [5, 1] = .ok (.memtypeWp ⟨true⟩, [])) ∧
    (presents State.reset (.message (.gamTlbInvEnd))).inputs = .message (.gamTlbInvEnd) :: [] := by decide

/-- P = 0 at the first and the last port, bit 7 of a PML4 entry, and an engine whose reset waits. -/
theorem test_witness_RejectedEntryIsAPageFault :
    let s := halting (presents State.reset (.object .ia32ePml4 ([0, 0, 0, 0, 0, 0, 0, 0] ++ anAccess.put)))
    decode .ia32ePml4 ([0, 0, 0, 0, 0, 0, 0, 0] ++ anAccess.put) = .error (.entryFault anAccess 4) ∧
      decode .ia32ePml4 ([0x81, 0, 0, 0, 0, 0, 0, 0] ++ anAccess.put) = .error (.entryFault anAccess 4) ∧
      decode .ia32ePt4 ([0, 0, 0, 0, 0, 0, 0, 0] ++ anAccess.put) = .error (.entryFault anAccess 1) ∧ anAccess.wf = true ∧
      bit s.regs.r404c 0 = true ∧ anAccess.useGgtt = false ∧ anAccess.client ≠ .displayOverlay ∧
      (engineOf s anAccess.eng).miss = none ∧ (engineOf s anAccess.eng).stuck = false ∧
      (∀ p ∈ (engineOf s anAccess.eng).faulted, p.vaPage ≠ anAccess.va.extractLsb' 12 36) ∧
      (engineOf s anAccess.eng).resetting = false ∧ (engineOf (resettingIn s .rcs) anAccess.eng).resetting = true ∧
      bit (resettingIn s .rcs).regs.r404c 0 = true := by decide

theorem test_witness_StepKeepsMemoryCanonical :
    Memory.wf (presents (entryAt 0x5003) (.message (.atomicPageUpdate0001 anAtomic))).mem = true ∧
      ∃ t, step (presents (entryAt 0x5003) (.message (.atomicPageUpdate0001 anAtomic))) = .next t :=
  ⟨by decide, exists_next (by decide)⟩

theorem test_witness_StepKeepsReservedBits :
    (presents State.reset (.op (.mmioWrite 0x4DF0 0xFFFFFFFF))).regs.trttReservedOk = true ∧
      (presents State.reset (.op (.mmioWrite 0x4DF0 0xFFFFFFFF))).pci.reservedOk = true ∧
      (presents State.reset (.op (.mmioWrite 0x4DF0 0xFFFFFFFF))).regs.banksOk = true ∧
      ∃ t, step (presents State.reset (.op (.mmioWrite 0x4DF0 0xFFFFFFFF))) = .next t :=
  ⟨by decide, by decide, by decide +kernel, exists_next (by decide +kernel)⟩

theorem test_witness_StepKeepsEngineInvariants :
    (∀ e, (engineOf (presents halted (.op (.pageResponse 7 .success))) e).haltOk = true) ∧
      (∀ e, (engineOf (presents halted (.op (.pageResponse 7 .success))) e).eventsOk) ∧
      ∃ t, step (presents halted (.op (.pageResponse 7 .success))) = .next t :=
  ⟨fun e => by cases e <;> decide, fun e => by cases e <;> exact List.nodup_nil, exists_next (by decide)⟩

/-- One HDC holds both of its credits. -/
theorem test_witness_StepKeepsHdcCredits :
    (presents { State.reset with hdc := { HdcPort.reset with pending := [anHdcRequest, anHdcRequest] } }
        (.message (.gamPageResponse aResponse))).hdc.creditsOk ∧
      ∃ t, step (presents { State.reset with hdc := { HdcPort.reset with pending := [anHdcRequest, anHdcRequest] } }
        (.message (.gamPageResponse aResponse))) = .next t :=
  ⟨fun _ => List.length_filter_le _ _, exists_next (by decide)⟩

theorem test_witness_OnlyResetUnsticksAnEngine :
    let s := presents (engineIn .wedged .quiet) (.op .invalidationWait)
    s.inputs = .op .invalidationWait :: [] ∧ (Input.op .invalidationWait).resetsEngine .rcs = false ∧
      (engineOf s .rcs).stuck = true ∧ afterStep s (fun _ => true) = true := by decide

theorem test_witness_StoreThenLoad : Memory.wf tables.mem = true := by decide

theorem test_witness_ResetL3ControlTable : 0 < 64 ∧ 63 < 64 := by decide

theorem test_witness_DeviceResetLeaves :
    ((presents tables (.op .flr)).inputs = .op .flr :: [] ∧ (∀ e, (engineOf (presents tables (.op .flr)) e).mmioRequests = []) ∧
      nothingInFlight { presents tables (.op .flr) with inputs := [] } = true ∧ 7 < 8 ∧ 31 < 32) ∧
    ((presents (heldIn tables) (.op .flr)).inputs = .op .flr :: [] ∧
      ∃ e, (engineOf (presents (heldIn tables) (.op .flr)) e).mmioRequests ≠ []) :=
  ⟨⟨by decide, fun e => by cases e <;> decide, by decide⟩, by decide, .rcs, by decide⟩

/-- The device reset waits for the page request at the MMIO registers, and is presented again when software has serviced it (R872). -/
theorem test_device_reset_waits :
    let asked := requestFlr (heldIn (engineIn .hung .quiet))
    ((engineOf asked .rcs).mode == .hung && asked.flrPending && (servicePageRequest asked 7).inputs == [.op .flr]
      && (engineOf (requestFlr (servicePageRequest asked 7)) .rcs).mode == .idle) = true := by decide +kernel

theorem test_witness_EngineResetLeaves :
    let s := presents (engineIn .hung .quiet) (.op (.engineReset .rcs))
    let held := heldIn s
    (s.inputs = .op (.engineReset .rcs) :: [] ∧ (engineOf s .rcs).mmioRequests = [] ∧ inFlight { s with inputs := [] } .rcs = []) ∧
    (held.inputs = .op (.engineReset .rcs) :: [] ∧ (engineOf held .rcs).mmioRequests ≠ []) := by decide

/-- The reset waits for the page request at the MMIO registers, and is presented again when software has serviced it (R871). -/
theorem test_reset_waits :
    let held := heldIn (engineIn .hung .quiet)
    let asked := requestReset held .rcs
    ((engineOf asked .rcs).mode == .hung && (engineOf asked .rcs).resetting
      && (servicePageRequest asked 7).inputs == [.op (.engineReset .rcs)]
      && (engineOf (requestReset (servicePageRequest asked 7) .rcs) .rcs).mode == .idle) = true := by decide +kernel

/-- A leaf, a pointer whose write is refused, and an entry that is not present. -/
theorem test_witness_PageAtomicSetsFlags :
    (Memory.wf (entryAt 0x83).mem = true ∧ atomicAllowed (entryAt 0x83) anAtomic = true ∧ bit (mem64 (entryAt 0x83) 0x2000) 0 = true) ∧
    (Memory.wf (entryAt 0x01).mem = true ∧ atomicAllowed (entryAt 0x01) anAtomic = true ∧ bit (mem64 (entryAt 0x01) 0x2000) 1 = false) ∧
    (Memory.wf (entryAt 0x82).mem = true ∧ atomicAllowed (entryAt 0x82) anAtomic = true ∧ bit (mem64 (entryAt 0x82) 0x2000) 0 = false)
      := by decide

theorem test_witness_AccessedDirtyUpdates :
    Memory.wf (entryAt 0x5001).mem = true ∧ atomicAllowed (entryAt 0x5001) anAtomic = true := by decide

theorem test_witness_AtomicInNonWbMemoryAborts :
    let s := uncached (entryAt 0x5003)
    physExists s anAtomic.pa.toNat 8 = true ∧ atomicAllowed s anAtomic = false ∧
      pageAtomic false false false true (mem64 s anAtomic.pa.toNat) ≠ mem64 s anAtomic.pa.toNat ∧
      (engineOf s anAtomic.eng).stuck = false := by decide

/-- A read up to the last byte of a page, a write from its first byte, and an entry that is not present: the last of the table. -/
theorem test_witness_GgttAccess :
    (Memory.wf tables.mem = true ∧ plainRequest tables lastRead = true ∧ ggttPresent tables lastRead.va = true ∧
      physExists tables (ggttTarget tables lastRead.va) (accessSize lastRead) = true ∧ lastRead.kind = .read) ∧
    (plainRequest tables firstWrite = true ∧ ggttPresent tables firstWrite.va = true ∧
      physExists tables (ggttTarget tables firstWrite.va) (accessSize firstWrite) = true ∧ firstWrite.kind = .write) ∧
    (plainRequest tables { lastRead with va := 0xFFFFFFFC } = true ∧ tables.params.hangSkip = false ∧
      8 * field (0xFFFFFFFC : QWord) 12 20 + 8 ≤ tables.params.gsmSize ∧
      physExists tables (ggttSlot tables 0xFFFFFFFC) 8 = true ∧ bit (mem64 tables (ggttSlot tables 0xFFFFFFFC)) 0 = false) := by
  decide

/-- R500: a pixel is encoded and stored, R8G8B8A8 at byte 12 of a buffer; a compressed surface is not written. -/
theorem test_pixel_write :
    let buffer : Surface := { surface with kind := .typedBuffer, tile := .linear, base := 0, width := 64, height := 1, mipCount := 1 }
    let rgba : PixelFormat := .channels [(.r, 8), (.g, 8), (.b, 8), (.a, 8)]
    let a : Access := { firstWrite with useGgtt := true }
    let c : Coord := ⟨12, 0, 0, 0, 0, 0, 0, 0, .y⟩
    (afterStep (presents tables (.op (.writePixel a buffer c rgba 0x11 0x22 0x33 0x44)))
        (fun t => t.completion.status == .done && memReadLe t.mem 0x100C 4 == 0x44332211 && memRead t.mem 0x1010 == 0)
      && (match step (presents tables (.op (.writePixel a { surface with blockW := 4, blockH := 4 } c rgba 0 0 0 0))) with
        | .refused .notARenderDestination => true
        | _ => false)) = true := by decide +kernel

/-- The machine with a MOCS entry 0 of the render engine, and a QWord at the end of the mapped page that the processor has overwritten
since the last flush; the engine's translations were invalidated after that. -/
def overwritten (mocs : Word) : State :=
  { updEngine tables .rcs fun x => { x with invMark := 1 } with
    regs := { tables.regs with gamMocs := tables.regs.gamMocs.set (64 * mocsBlock tables.params .rcs) mocs }
    history := [⟨0xBFF, 0x99, 0xFF, Writer.cpu⟩] }

/-- R154, R157, R470: a coherent access of a write-back surface that LLC caches sees what the processor wrote (the premise of the legacy
statements on reads); one that is uncacheable, or that skip caching keeps out of LLC, may be shown the older value. -/
theorem test_coherency_needs_llc :
    let r : Request := ownRequest tables { lastRead with coherent := true } 0x118
    let t : Translation := ⟨0x5FF8, 12, ⟨true, true, false⟩, false, 0⟩
    (coherencyOf (overwritten 0x7) r t = .full ∧ staleBytes (overwritten 0x7) r t 0x5FF8 4 = []) ∧
    (coherencyOf (overwritten 0x5) r t = .none ∧ staleBytes (overwritten 0x5) r t 0x5FF8 4 = [0x99]) ∧
    coherencyOf (overwritten 0x107) r { t with pa := 0x5E00 } = .none ∧
    (plainRequest (overwritten 0x7) r.acc = true ∧ cpuSettled (overwritten 0x7) = false ∧
      plainRequest (overwritten 0x5) r.acc = false) := by decide +kernel

/-- The aperture without a fence, and its byte 4097 under an X-major fence of one tile: byte 1 of row 8, in the second tile; both
through the present entry. -/
theorem test_witness_GgttAccess_aperture :
    let f : Fence := ⟨true, 0, 0x1FFF, 1, false⟩
    let s : State := machine ⟨0, 0x1000, 0, 0, 0⟩ [(0x7F800000, 0x1001), (0x7F800008, 0x2001)]
    let fenced : State := { s with regs := { s.regs with fences := [f] } }
    (5 < s.params.gmadrSize ∧ (∀ e, nothingRetained s e = true) ∧ nothingStale s = true ∧
      s.regs.fences.filter (fenceCovers 5) = [] ∧ ggttPresent s (BitVec.ofNat 64 5) = true ∧
      physExists s (ggttTarget s (BitVec.ofNat 64 5)) 1 = true) ∧
    (4097 < fenced.params.gmadrSize ∧ fenced.regs.fences.filter (fenceCovers 4097) = [f] ∧ 0 < f.pitch ∧ f.pitch * 512 ≤ 262144 ∧
      f.base + 4096 * (f.pitch * (4097 / 512 / 8) + 1 / 512) + (512 * (8 % 8) + 1) = 4097 ∧
      ggttPresent fenced (BitVec.ofNat 64 4097) = true ∧ physExists fenced (ggttTarget fenced (BitVec.ofNat 64 4097)) 1 = true) :=
  ⟨⟨by decide, fun e => by cases e <;> decide, by decide, by decide +kernel, by decide, by decide⟩, by decide +kernel⟩

/-- The host reads and writes a byte through the aperture. -/
theorem test_aperture :
    (afterStep (presents tables (.op (.hostAccess false (tables.params.gmadrBase + 1) 1 0)))
        (fun t => t.completion.status == .done && t.completion.data == 0x20)
      && afterStep (presents tables (.op (.hostAccess true (tables.params.gmadrBase + 1) 1 0x55)))
        (fun t => memRead t.mem 0x1001 == 0x55)) = true := by decide +kernel

/-- The page directory at 3000h: a page of 4 KB, one of 64 KB, and one that refuses writes. -/
theorem test_witness_Ppgtt32Access :
    let s := machine ⟨0, 0x3000, 0, 0, 0⟩ [(0x3000, 0x4003), (0x4000, 0x5003)]
    let s64 := with64k (machine ⟨0, 0x3000, 0, 0, 0⟩ [(0x3000, 0x4803), (0x4000, 0x50001)])
    (Memory.wf s.mem = true ∧ plainRequest s lastRead = true ∧ lastRead.useGgtt = false ∧ maps32 s .rcs lastRead.va 12 = true ∧
      addrField s.params.haw 12 (mem64 s (leafSlot32 s .rcs lastRead.va 12)) = 0x5000 ∧
      physExists s (0x5000 + lastRead.va.toNat % 2 ^ 12) (accessSize lastRead) = true ∧ lastRead.kind = .read) ∧
    (plainRequest s firstWrite = true ∧ maps32 s .rcs firstWrite.va 12 = true ∧ firstWrite.kind = .write ∧
      bit (mem64 s (leafSlot32 s .rcs firstWrite.va 12)) 1 = true) ∧
    (plainRequest s64 firstWrite = true ∧ maps32 s64 .rcs firstWrite.va 16 = true ∧ s64.params.hangSkip = false ∧
      bit (mem64 s64 (leafSlot32 s64 .rcs firstWrite.va 16)) 1 = false) := by decide

/-- The outcomes of the witness: the 64 KB page is read, and its write hangs the engine with code 11. -/
theorem test_ppgtt32_64k :
    let s := with64k (machine ⟨0, 0x3000, 0, 0, 0⟩ [(0x3000, 0x4803), (0x4000, 0x50001)])
    (after (.ctxLegacyPpgtt32 0x108 { lastRead with va := 0xFFF8 }) s (fun t => t.completion.pa == 0x5FFF8)
      && after (.ctxLegacyPpgtt32 0x108 firstWrite) s (fun t => (engineOf t .rcs).mode == .hung
        && (engineOf t .rcs).events == [.legacyPageFault 0 true 3])) = true := by decide +kernel

/-- Pages of 4 KB, 64 KB, 2 MB and 1 GB, the last of which refuses writes. -/
theorem test_witness_Ppgtt48Access :
    let s64 := with64k (machine ⟨0, 0x1000, 0, 0, 0⟩ [(0x1000, 0x2001), (0x2000, 0x3001), (0x3000, 0x4801), (0x4000, 0x50003)])
    let s2m := machine ⟨0, 0x1000, 0, 0, 0⟩ [(0x1000, 0x2001), (0x2000, 0x3001), (0x3000, 0x400083)]
    let s1g := machine ⟨0, 0x1000, 0, 0, 0⟩ [(0x1000, 0x2081), (0x2000, 0x40000081)]
    (Memory.wf tables.mem = true ∧ plainRequest tables lastRead = true ∧ lastRead.useGgtt = false ∧
      addrField tables.params.haw 12 (pointersOf (engineOf tables .rcs)).pdp0 = 0x1000 ∧
      maps48 tables 0x1000 lastRead.va 12 = true ∧ physExists tables (0x5000 + lastRead.va.toNat % 2 ^ 12) 4 = true ∧
      lastRead.kind = .read) ∧
    (plainRequest tables firstWrite = true ∧ maps48 tables 0x1000 firstWrite.va 12 = true ∧ firstWrite.kind = .write ∧
      bit (mem64 tables (leafSlot tables 0x1000 firstWrite.va 12)) 1 = true) ∧
    (plainRequest s64 firstWrite = true ∧ maps48 s64 0x1000 firstWrite.va 16 = true ∧
      bit (mem64 s64 (leafSlot s64 0x1000 firstWrite.va 16)) 1 = true) ∧
    (plainRequest s2m lastRead = true ∧ maps48 s2m 0x1000 lastRead.va 21 = true) ∧
    (plainRequest s1g firstWrite = true ∧ maps48 s1g 0x1000 firstWrite.va 30 = true ∧ s1g.params.hangSkip = false ∧
      bit (mem64 s1g (leafSlot s1g 0x1000 firstWrite.va 30)) 1 = false) := by decide

/-- The outcomes of the witness: a write into the 64 KB page, a read of the 2 MB one, a write that hangs the engine with code 11. -/
theorem test_ppgtt48_pages :
    let s64 := with64k (machine ⟨0, 0x1000, 0, 0, 0⟩ [(0x1000, 0x2001), (0x2000, 0x3001), (0x3000, 0x4801), (0x4000, 0x50003)])
    let s2m := machine ⟨0, 0x1000, 0, 0, 0⟩ [(0x1000, 0x2001), (0x2000, 0x3001), (0x3000, 0x400083)]
    let s1g := machine ⟨0, 0x1000, 0, 0, 0⟩ [(0x1000, 0x2081), (0x2000, 0x40000081)]
    (after (.ctxLegacyPpgtt48 0x118 firstWrite) s64 (fun t => mem64 t 0x50000 == firstWrite.data)
      && after (.ctxLegacyPpgtt48 0x118 { lastRead with va := 0x1FFFF8 }) s2m (fun t => t.completion.pa == 0x5FFFF8)
      && after (.ctxLegacyPpgtt48 0x118 firstWrite) s1g (fun t => (engineOf t .rcs).mode == .hung
        && (engineOf t .rcs).events == [.legacyPageFault 0 true 3])) = true := by decide +kernel

/-- PASID 1000h of function 0, whose tables begin at 1000h. -/
def advancedTables (x : IommuCtx) (leaves : List (Nat × QWord)) : State :=
  { machine ⟨0, 0x1000, 0, 0, 0⟩ ([(0x1000, 0x2027), (0x2000, 0x3027)] ++ leaves) with iommu := [x] }

/-- A context without controls, and one with WPE and extended-accessed flags. -/
def plainContext : IommuCtx := ⟨0, 0x1000, false, false, false, false, false, false, false, 0x1000⟩

/-- A read and a write of a 4 KB page in user mode; a 64 KB, a 2 MB and a 1 GB page; supervisor mode; A/D management with settled
flags, with a leaf whose Accessed flag must be set, and with no flag set yet. -/
theorem test_witness_AdvancedRead :
    let s := advancedTables plainContext [(0x3000, 0x4027), (0x4000, 0x5067)]
    let s64 := advancedTables { plainContext with fl64kpe := true } [(0x3000, 0x4827), (0x4000, 0x50067)]
    let s2m := advancedTables plainContext [(0x3000, 0x4000E7)]
    let s1g := { machine ⟨0, 0x1000, 0, 0, 0⟩ [(0x1000, 0x2027), (0x2000, 0x400000E7)] with iommu := [plainContext] }
    let ad := advancedTables plainContext [(0x3000, 0x4027), (0x4000, 0x5007)]
    let cold := { tables with iommu := [{ plainContext with eafe := true }] }
    let coldSlots := leafSlot cold 0x1000 firstWrite.va 12 :: pointerSlots cold 0x1000 firstWrite.va 12
    (Memory.wf s.mem = true ∧ plainRequest s lastRead = true ∧ lastRead.useGgtt = false ∧ cpuSettled s = true ∧
      onlyContext s .rcs ((0x41 : QWord).extractLsb' 9 3) (pasidOf (engineOf s .rcs)) plainContext ∧
      mapsAdvanced s 0x41 plainContext false 0x1000 lastRead.va 12 = true ∧
      physExists s (0x5000 + lastRead.va.toNat % 2 ^ 12) 4 = true ∧
      (pointerSlots s 0x1000 lastRead.va 12).all (flagsSettled s 0x41 plainContext false) = true ∧
      flagsSettled s 0x41 plainContext false (leafSlot s 0x1000 lastRead.va 12) = true ∧ lastRead.kind = .read) ∧
    (plainRequest s firstWrite = true ∧ mapsAdvanced s 0x151 plainContext true 0x1000 firstWrite.va 12 = true ∧
      flagsSettled s 0x151 plainContext true (leafSlot s 0x1000 firstWrite.va 12) = true ∧
      (pointerSlots s 0x1000 firstWrite.va 12).all (flagsSettled s 0x151 plainContext false) = true ∧ firstWrite.kind = .write) ∧
    (plainRequest s64 lastRead = true ∧ cpuSettled s64 = true ∧
      mapsAdvanced s64 0x41 { plainContext with fl64kpe := true } false 0x1000 lastRead.va 16 = true) ∧
    (plainRequest s2m lastRead = true ∧ cpuSettled s2m = true ∧ mapsAdvanced s2m 0x41 plainContext false 0x1000 lastRead.va 21 = true) ∧
    (plainRequest s1g lastRead = true ∧ cpuSettled s1g = true ∧ mapsAdvanced s1g 0x41 plainContext false 0x1000 lastRead.va 30 = true ∧
      physExists s1g (0x40000000 + lastRead.va.toNat % 2 ^ 30) 4 = true) ∧
    (plainRequest ad lastRead = true ∧ cpuSettled ad = true ∧
      mapsAdvanced ad 0x51 plainContext false 0x1000 lastRead.va 12 = true ∧
      (pointerSlots ad 0x1000 lastRead.va 12).all (flagsSettled ad 0x51 plainContext false) = true ∧
      flagsSettled ad 0x51 plainContext false (leafSlot ad 0x1000 lastRead.va 12) = false ∧
      adUpdateAllowed ad (leafSlot ad 0x1000 lastRead.va 12) plainContext.cd = true) ∧
    (plainRequest cold firstWrite = true ∧ firstWrite.kind = .write ∧ bit (0x51 : QWord) 4 = true ∧
      mapsAdvanced cold 0x51 { plainContext with eafe := true } true 0x1000 firstWrite.va 12 = true ∧ coldSlots.Nodup ∧
      (∀ slot ∈ coldSlots, adUpdateAllowed cold slot plainContext.cd = true) ∧
      (∀ slot ∈ coldSlots, 0x5000 + 8 ≤ slot ∨ slot + 8 ≤ 0x5000)) := by
  unfold onlyContext; decide +kernel

/-- The walks of the witness: the pages they reach, and the flag they set. -/
theorem test_advanced_walks :
    let run (s : State) (d va : QWord) (p : State → Bool) : Bool :=
      after (.ctxAdvanced d { lastRead with va := va }) s p
    (run (advancedTables { plainContext with fl64kpe := true } [(0x3000, 0x4827), (0x4000, 0x50067)]) 0x41 0xFFF8
        (fun t => t.completion.pa == 0x5FFF8)
      && run (advancedTables plainContext [(0x3000, 0x4000E7)]) 0x41 0x1FFFF8 (fun t => t.completion.pa == 0x5FFFF8)
      && run (advancedTables plainContext [(0x3000, 0x4027), (0x4000, 0x5007)]) 0x51 0xFF8
        (fun t => t.completion.pa == 0x5FF8 && mem64 t 0x4000 == 0x5027)
      && after (.ctxAdvanced 0x51 firstWrite) { tables with iommu := [{ plainContext with eafe := true }] }
        (fun t => mem64 t 0x1000 == 0x2427 && mem64 t 0x3000 == 0x4427 && mem64 t 0x4000 == 0x5467
          && mem64 t 0x5000 == firstWrite.data)) = true := by decide +kernel

/-- A Null page of each size, in tables that begin at 1000h. -/
theorem test_witness_NullPageReadsZeroAndDropsWrites :
    let s := tablesWith 0x5203
    let s64 := with64k (machine ⟨0, 0x1000, 0, 0, 0⟩ [(0x1000, 0x2001), (0x2000, 0x3001), (0x3000, 0x4801), (0x4000, 0x50203)])
    let s2m := machine ⟨0, 0x1000, 0, 0, 0⟩ [(0x1000, 0x2001), (0x2000, 0x3001), (0x3000, 0x400281)]
    let s1g := machine ⟨0, 0x1000, 0, 0, 0⟩ [(0x1000, 0x2081), (0x2000, 0x40000281)]
    let null (s : State) (k : Nat) : Prop :=
      plainRequest s firstWrite = true ∧ reaches48 s 0x1000 firstWrite.va k = true ∧
        bit (mem64 s (leafSlot s 0x1000 firstWrite.va k)) 9 = true ∧
        addrField s.params.haw 12 (pointersOf (engineOf s .rcs)).pdp0 = 0x1000
    firstWrite.kind ≠ .atomic ∧ firstWrite.useGgtt = false ∧ null s 12 ∧ null s64 16 ∧ null s2m 21 ∧ null s1g 30 := by
  decide

/-- The outcomes at the 4 KB and the 1 GB page: nothing is written, and the completion is the null one. -/
theorem test_null_pages :
    let s1g := machine ⟨0, 0x1000, 0, 0, 0⟩ [(0x1000, 0x2081), (0x2000, 0x40000281)]
    (after (.ctxLegacyPpgtt48 0x118 firstWrite) (tablesWith 0x5203) (fun t => t.completion.status == .nullPage && t.mem == (tablesWith 0x5203).mem)
      && after (.ctxLegacyPpgtt48 0x118 lastRead) s1g (fun t => t.completion.status == .nullPage && t.completion.nullIndicator)) = true := by
  decide +kernel

theorem test_witness_HungEngineServesNothing :
    (engineOf (engineIn .hung .quiet) lastRead.eng).mode = .hung ∧ (engineOf (engineIn .hung .quiet) lastRead.eng).phase = .quiet := by
  decide

/-- A legacy descriptor, and a legacy context. -/
theorem test_witness_LegacyFaultHangs :
    (State.reset.params.hangSkip = false ∧ (engineOf State.reset aFault.acc.eng).stuck = false ∧ aFault.code ≠ 0 ∧
      bit (0x9 : QWord) 3 = true) ∧
    ((machine ⟨0x9, 0, 0, 0, 0⟩ []).params.hangSkip = false ∧
      (engineOf (machine ⟨0x9, 0, 0, 0, 0⟩ []) aFault.acc.eng).stuck = false ∧
      bit (pointersOf (engineOf (machine ⟨0x9, 0, 0, 0, 0⟩ []) aFault.acc.eng)).desc 3 = true) := by decide

/-- The override, Fault Model 01, Fault Model 10 for the render cache, and an engine whose reset waits. -/
theorem test_witness_AdvancedFaultHalts :
    bit (halting State.reset).regs.r404c 0 = true ∧ field (0x41 : QWord) 6 2 = 1 ∧
      (field (0x81 : QWord) 6 2 = 2 ∧ ¬(aFault.acc.client = .hdc ∧ aFault.acc.coherent = true) ∧
        aFault.acc.client ≠ .instructionState) ∧
      bit (0x41 : QWord) 3 = false ∧ bit (0x81 : QWord) 3 = false ∧ aFault.acc.useGgtt = false ∧
      aFault.acc.client ≠ .displayOverlay ∧ (engineOf (halting State.reset) aFault.acc.eng).miss = none ∧
      (engineOf (halting State.reset) aFault.acc.eng).stuck = false ∧ (engineOf State.reset aFault.acc.eng).miss = none ∧
      (engineOf State.reset aFault.acc.eng).stuck = false ∧ aFault.code ≠ 0 ∧
      (engineOf (halting State.reset) aFault.acc.eng).faulted = [] ∧
      (pointersOf (engineOf (machine ⟨0x41, 0, 0, 0, 0⟩ []) aFault.acc.eng)).desc = 0x41 ∧
      (engineOf (halting State.reset) aFault.acc.eng).resetting = false ∧ (engineOf State.reset aFault.acc.eng).resetting = false ∧
      (engineOf (resettingIn (halting State.reset) .rcs) aFault.acc.eng).resetting = true ∧
      bit (resettingIn (halting State.reset) .rcs).regs.r404c 0 = true := by decide

theorem test_witness_StreamModelStreams :
    let a : FaultArgs := ⟨{ anAccess with client := .hdc, coherent := true }, 3, 1⟩
    field (0x93 : QWord) 6 2 = 2 ∧ bit State.reset.regs.r404c 0 = false ∧ bit (0x93 : QWord) 3 = false ∧
      a.acc.useGgtt = false ∧ a.acc.client = .hdc ∧ a.acc.coherent = true ∧ a.code ≠ 0 ∧
      (engineOf State.reset a.acc.eng).outstanding = [] ∧ (engineOf State.reset a.acc.eng).faulted = [] ∧
      (engineOf State.reset a.acc.eng).resetting = false ∧
      ({ a.acc with client := .instructionState } : Access).client = .instructionState := by decide

theorem test_witness_FaultCodeZeroIsNoFault : ({ aFault with code := 0 } : FaultArgs).code = 0 := by decide

theorem test_witness_PageResponseResumes :
    let s := presents halted (.op (.pageResponse 7 .success))
    s.inputs = .op (.pageResponse waiting.prg .success) :: [] ∧ (engineOf s .rcs).miss = some waiting ∧
      (engineOf s .rcs).mode = .halted ∧
      (∀ e' w', (engineOf s e').miss = some w' → w'.prg = waiting.prg → e' = .rcs) ∧
      (∀ e', ∀ w' ∈ (engineOf s e').outstanding, w'.prg ≠ waiting.prg) :=
  ⟨by decide, by decide, by decide, (fun e' w' h _ => by cases e' <;> first | rfl | cases h),
    (fun e' w' h => by cases e' <;> cases h)⟩

/-- The page request 7 is queued and abandoned: its engine was reset. -/
def abandoned : State := { State.reset with pageRequests := [⟨7, false, waiting.fault⟩], nextPrg := 8, detached := [7] }

/-- R825, R150: the request that waits in Stream mode is walked again before the one at the top of the miss queue. -/
theorem test_streamed_first :
    let w : Waiting := { waiting with req := { waiting.req with acc := firstWrite } }
    let s := updEngine halted .rcs fun x => { x with outstanding := [w] }
    ((pageResponse s 7 .success).inputs == [.op (.rewalk w.req), .op (.rewalk waiting.req)]) = true := by decide +kernel

/-- R805, R358: behind a write that a read-only page refused with 11, in Stream mode, a write is filtered as a fault under the same page
request, and a read, whose walk succeeds, waits; the response presents them again in order. -/
theorem test_behind_streamed :
    let a : Access := { firstWrite with client := .hdc, coherent := true }
    let s := advancedTables plainContext [(0x3000, 0x4027), (0x4000, 0x5065)]
    after (.ctxAdvanced 0x81 a) s (fun s =>
      s.completion.status == .faulted && s.completion.code == 3 && s.pageRequests.length == 1
      && after (.ctxAdvanced 0x81 a) s (fun t => t.completion.status == .faulted && t.pageRequests.length == 1
          && (engineOf t .rcs).outstanding.map (·.prg) == [0, 0])
      && after (.ctxAdvanced 0x81 { a with kind := .read }) s (fun t => t.completion.status == .waiting
          && (engineOf t .rcs).outstanding.length == 1 && (engineOf t .rcs).behind.length == 1
          && (match (pageResponse t 0 .success).inputs with
            | [.op (.rewalk p), .op (.resume q)] => p.acc.kind == .write && q.acc.kind == .read
            | _ => false))) = true := by decide +kernel

/-- A response to index 8 while index 7 waits, and a Response Failure to an abandoned page request. -/
theorem test_witness_UnexpectedResponseIsIgnored :
    (let s := presents halted (.op (.pageResponse 8 .success))
     s.inputs = .op (.pageResponse 8 .success) :: [] ∧
      (∀ e, (∀ w, (engineOf s e).miss = some w → w.prg ≠ 8) ∧ ∀ w ∈ (engineOf s e).outstanding, w.prg ≠ 8) ∧
      8 ∉ s.detached ∧ (∀ q ∈ s.pageRequests, q.last = true → q.prg ≠ 8)) ∧
    (let s := presents abandoned (.op (.pageResponse 7 .responseFailure))
     s.inputs = .op (.pageResponse 7 .responseFailure) :: [] ∧
      (∀ e, (∀ w, (engineOf s e).miss = some w → w.prg ≠ 7) ∧ ∀ w ∈ (engineOf s e).outstanding, w.prg ≠ 7) ∧
      ⟨7, false, waiting.fault⟩ ∈ s.pageRequests ∧ 7 ∈ s.detached) :=
  ⟨⟨by decide,
    fun e => ⟨fun w h => by cases e <;> cases h; decide, fun w h => by cases e <;> cases h⟩,
    by decide, by decide⟩,
   ⟨by decide, fun e => ⟨fun w h => (by cases e <;> cases h), fun w h => (by cases e <;> cases h)⟩, by decide, by decide⟩⟩

/-- A Response Failure sets RF though its engine was reset, and a repeat of the response is unexpected (R74, R841). -/
theorem test_failure_of_abandoned_request :
    let t := pageResponse abandoned 7 .responseFailure
    (t.pci.priStatus == 1 && t.pageRequests == [] && (pageResponse t 7 .responseFailure).pci.priStatus == 3) = true := by
  decide +kernel

/-- An instruction fetch. -/
def aFetch : Access := { lastRead with client := .instructionState, ifetch := true }

/-- The context of PASID 0 of function 0 with NXE and SMEP, as the only one there is, for a descriptor. -/
def fetching (desc : QWord) : State := { machine ⟨desc, 0, 0, 0, 0⟩ [] with iommu := [strict] }
where
  /-- NXE and SMEP are on. -/
  strict : IommuCtx := ⟨0, 0, true, true, false, false, false, false, false, 0x1000⟩

/-- A fetch in user mode with XD = 0, one in supervisor mode, and at a leaf one in supervisor mode with U/S = 0. -/
theorem test_witness_Ia32eEntries_fetch :
    (Instr.ia32ePml4e 0x2007 aFetch).wf = true ∧ (Instr.ia32ePml4e 0x2003 aFetch).wf = true ∧ (Instr.ia32ePte4kb 0x5003 aFetch).wf = true ∧
      aFetch.kind = .read ∧ fetching.strict.nxe = true ∧ fetching.strict.smep = true ∧
      onlyContext (fetching 1) .rcs ((1 : QWord).extractLsb' 9 3) (pasidOf (engineOf (fetching 1) .rcs)) fetching.strict ∧
      onlyContext (fetching 0x101) .rcs ((0x101 : QWord).extractLsb' 9 3) (pasidOf (engineOf (fetching 0x101) .rcs)) fetching.strict ∧
      bit (pointersOf (engineOf (fetching 0x101) .rcs)).desc 8 = true ∧
      (State.reset.walk.rights.us && bit (0x2007 : QWord) 2) = true ∧ (State.reset.walk.rights.us && bit (0x5003 : QWord) 2) = false ∧
      (State.reset.walk.rights.xd || bit (0x2007 : QWord) 63) = false := by
  unfold onlyContext; decide +kernel

/-- The outcomes: the fetch goes on, or ends in the page; XD with NXE, and U/S = 1 in supervisor mode with SMEP, are code 10. -/
theorem test_fetches :
    let codeOf (s : State) (e : QWord) : Option (BitVec 2 × Bool) :=
      match exec (.ia32ePte4kb e aFetch) (halting s) with
      | .next t => t.pageRequests.head?.map fun q => (q.fault.code, q.fault.er)
      | _ => none
    (after (.ia32ePml4e 0x2007 aFetch) (fetching 1) (fun t => t.walk.result == .next 3 0x2000 false)
      && after (.ia32ePte4kb 0x5003 aFetch) (fetching 0x101) (fun t => match t.walk.result with | .translated x => x.pa == 0x5FFC | _ => false)
      && codeOf (fetching 1) 0x8000000000005007 == some (2, true) && codeOf (fetching 1) 0x5003 == some (2, true)
      && codeOf (fetching 0x101) 0x5007 == some (2, true) && codeOf (fetching 1) 0x5007 == none) = true := by decide +kernel

/-- Supervisor mode, and user mode with U/S = 1 so far. -/
theorem test_witness_Ia32ePointerEntries :
    (Instr.ia32ePml4e 0x2003 lastRead).wf = true ∧ (Instr.ia32ePdpePd 0x3007 lastRead).wf = true ∧
      (Instr.ia32ePdePt 0x4807 lastRead).wf = true ∧ lastRead.kind = .read ∧ lastRead.ifetch = false ∧
      field (0x4807 : QWord) State.reset.params.haw (52 - State.reset.params.haw) = 0 ∧
      bit (pointersOf (engineOf (machine ⟨0x101, 0, 0, 0, 0⟩ []) .rcs)).desc 8 = true ∧
      (State.reset.walk.rights.us = true ∧ bit (0x4807 : QWord) 2 = true) := by decide

theorem test_witness_Ia32eLeafEntries :
    ((Instr.ia32ePdpe1gb 0x40000087 lastRead).wf = true ∧ field (0x40000087 : QWord) 13 17 = 0) ∧
      ((Instr.ia32ePde2mb 0x40200087 lastRead).wf = true ∧ field (0x40200087 : QWord) 13 8 = 0) ∧
      ((Instr.ia32ePte64kb 0x40210007 lastRead).wf = true ∧ field (0x40210007 : QWord) 12 4 = 0) ∧
      (Instr.ia32ePte4kb 0x40211007 lastRead).wf = true ∧ lastRead.kind = .read ∧ lastRead.ifetch = false ∧
      field (0x40211007 : QWord) State.reset.params.haw (52 - State.reset.params.haw) = 0 ∧
      State.reset.walk.rights.us = true ∧ bit (0x40211007 : QWord) 2 = true := by decide

theorem test_witness_LegacyPointerEntries :
    (Instr.legacy32Pde 0x1 lastRead).wf = true ∧ (Instr.legacy64Pml4e 0x81 lastRead).wf = true ∧
      (Instr.legacy64PdpePd 0x1 lastRead).wf = true ∧ (Instr.legacy64PdePt 0x801 lastRead).wf = true := by decide

theorem test_witness_LegacyLeafEntries :
    ((Instr.legacyPte64kb 0x203 firstWrite).wf = true ∧ bit (0x203 : QWord) 9 = true) ∧
      ((Instr.legacyPte4kb 0x1 lastRead).wf = true ∧ bit (0x1 : QWord) 9 = false ∧ lastRead.kind = .read) ∧
      ((Instr.legacy64Pdpe1gb 0x83 firstWrite).wf = true ∧ bit (0x83 : QWord) 1 = true) ∧
      ((Instr.legacy64Pde2mb 0x83 firstWrite).wf = true ∧ bit (0x83 : QWord) 1 = true) ∧
      (Instr.ggttPte 0x1001 firstWrite).wf = true := by decide

/-- One entry for each code: bit 47 set, U/S = 0, R/W = 0; for a fetch XD = 1 in user mode, and U/S = 1 in supervisor mode. -/
theorem test_witness_Ia32eRefusalCodes :
    let s := halting State.reset
    ((Instr.ia32ePte4kb 0x0000800050000007 lastRead).wf = true ∧
      decide (field (0x0000800050000007 : QWord) s.params.haw (52 - s.params.haw) ≠ 0) = true) ∧
    ((Instr.ia32ePte4kb 0x5003 lastRead).wf = true ∧ (!(s.walk.rights.us && bit (0x5003 : QWord) 2)) = true) ∧
    ((Instr.ia32ePte4kb 0x5005 firstWrite).wf = true ∧
      (firstWrite.kind != .read && !(s.walk.rights.rw && bit (0x5005 : QWord) 1)) = true) ∧
    bit s.regs.r404c 0 = true ∧ lastRead.useGgtt = false ∧ lastRead.client ≠ .displayOverlay ∧ lastRead.ifetch = false ∧
    firstWrite.useGgtt = false ∧ firstWrite.client ≠ .displayOverlay ∧ firstWrite.ifetch = false ∧
    bit (pointersOf (engineOf s .rcs)).desc 8 = false ∧ (engineOf s .rcs).miss = none ∧ (engineOf s .rcs).faulted = [] ∧
    (engineOf s .rcs).resetting = false ∧
    ((Instr.ia32ePte4kb 0x8000000000005007 aFetch).wf = true ∧ aFetch.ifetch = true ∧ aFetch.useGgtt = false ∧
      aFetch.client ≠ .displayOverlay ∧ (fetching.strict.nxe && bit (0x8000000000005007 : QWord) 63) = true ∧
      (engineOf (halting (fetching 1)) .rcs).miss = none ∧ (engineOf (halting (fetching 1)) .rcs).faulted = []) ∧
    (bit (pointersOf (engineOf (halting (fetching 0x101)) .rcs)).desc 8 = true ∧
      (fetching.strict.smep && ((halting (fetching 0x101)).walk.rights.us && bit (0x5007 : QWord) 2)) = true ∧
      (engineOf (halting (fetching 0x101)) .rcs).miss = none) := by decide

/-- Both bits set, the Null bit alone, neither; both values equal, the Null value alone, neither. -/
theorem test_witness_TrttEntries :
    let s : State := { State.reset with regs := { Regs.reset with nullTile := 0xFFFFFFFE, invalidTile := 0xFFFFFFFF } }
    anAccess.tileX = false ∧ bit (0x201003 : QWord) 0 = true ∧ (bit (0x201002 : QWord) 0 = false ∧ bit (0x201002 : QWord) 1 = true) ∧
      (bit (0x201000 : QWord) 0 = false ∧ bit (0x201000 : QWord) 1 = false) ∧ (0 : Word) = State.reset.regs.invalidTile ∧ (0 : Word) = State.reset.regs.nullTile ∧
      ((0xFFFFFFFE : Word) ≠ s.regs.invalidTile ∧ (0xFFFFFFFE : Word) = s.regs.nullTile) ∧
      ((0x30 : Word) ≠ s.regs.invalidTile ∧ (0x30 : Word) ≠ s.regs.nullTile) := by decide

/-- TR-TT on, its window at va[47:44] = 1, its three tables at 1_0000h, 20_0000h and 3_0000h: the entries for the tile at
1008_0803_0000h, the L2 table in a page of 2 MB; 4_0000h is mapped to 8_0000h. -/
def tiled (e3 e2 : QWord) (e1 : Word) : State :=
  let s := machine ⟨0, 0x1000, 0, 0, 0⟩
    [(0x1000, 0x2003), (0x2000, 0x3003), (0x3000, 0x4003), (0x3008, 0x400083), (0x4080, 0x50003), (0x4180, 0x70003), (0x4200, 0x80003),
     (0x50008, e3), (0x400010, e2), (0x70008, e1.setWidth 64 <<< 32)]
  { s with regs := { s.regs with r4dfc := 1, trtte := 1, trvadr := 0xF1, l3Ptr := 0x10000, nullTile := 5, invalidTile := 6 } }

/-- An address in the tile. -/
def tileVa : QWord := 0x100808030000

/-- The three tables are read; the tile is mapped, Null or Invalid by its L1 entry, and ends at the L3 entry or the L2 entry. -/
theorem test_witness_TrttAccess :
    let s := tiled 0x200000 0x30000 4
    let a : Access := { firstWrite with va := tileVa }
    Memory.wf s.mem = true ∧ quietRequest s a = true ∧ a.useGgtt = false ∧ a.tileX = false ∧ a.kind ≠ .atomic ∧ a.eng = .rcs ∧
      trttTranslates s tileVa = true ∧ addrField s.params.haw 12 (pointersOf (engineOf s .rcs)).pdp0 = 0x1000 ∧
      (trttL3Addr s tileVa = 0x10008 ∧ trttReadable s 0x1000 0x10008 12 8 = true ∧ trttEntry s 0x1000 0x10008 12 8 = 0x200000) ∧
      (trttL2Addr 0x200000 tileVa = 0x200010 ∧ trttReadable s 0x1000 0x200010 21 8 = true ∧ trttEntry s 0x1000 0x200010 21 8 = 0x30000) ∧
      (trttL1Addr 0x30000 tileVa = 0x3000C ∧ trttReadable s 0x1000 0x3000C 12 4 = true ∧ trttEntry s 0x1000 0x3000C 12 4 = 4) ∧
      ((4 : Word) ≠ s.regs.invalidTile ∧ (4 : Word) ≠ s.regs.nullTile ∧ maps48 s 0x1000 0x40000 12 = true ∧
        pageTarget s 0x1000 0x40000 12 = 0x80000 ∧ physExists s 0x80000 8 = true ∧ bit (mem64 s (leafSlot s 0x1000 0x40000 12)) 1 = true) ∧
      (trttEntry (tiled 0x200000 0x30000 5) 0x1000 0x3000C 12 4 = 5 ∧ trttEntry (tiled 0x200000 0x30000 6) 0x1000 0x3000C 12 4 = 6) ∧
      (trttReadable (tiled 3 0 0) 0x1000 0x10008 12 8 = true ∧ trttEntry (tiled 3 0 0) 0x1000 0x10008 12 8 = 3) ∧
      (trttReadable (tiled 0x200000 2 0) 0x1000 0x200010 21 8 = true ∧ trttEntry (tiled 0x200000 2 0) 0x1000 0x200010 21 8 = 2) := by
  decide +kernel

/-- The outcomes of the witness. -/
theorem test_trtt_accesses :
    let run (s : State) (a : Access) (p : State → Bool) : Bool := after (.ctxLegacyPpgtt48 0x118 { a with va := tileVa }) s p
    (run (tiled 0x200000 0x30000 4) firstWrite (fun t => t.completion.status == .done && mem64 t 0x80000 == firstWrite.data)
      && run (tiled 0x200000 0x30000 4) lastRead (fun t => t.completion.pa == 0x80000)
      && run (tiled 0x200000 0x30000 5) firstWrite (fun t => t.completion.status == .nullTile && t.regs.nullTileCount == 1)
      && run (tiled 0x200000 0x30000 6) lastRead
        (fun t => t.completion.status == .invalidTile && (engineOf t .rcs).events == [.trttInvalidTile] && t.regs.nullTileCount == 0)
      && run (tiled 3 0 0) lastRead (fun t => t.completion.status == .invalidTile)
      && run (tiled 0x200000 2 0) lastRead (fun t => t.completion.status == .nullTile && t.completion.nullIndicator)) = true := by
  decide +kernel

/-- The last entry of the table. -/
theorem test_witness_UpdateGttStoresTheEntry :
    Memory.wf tables.mem = true ∧ (0xFFFFF000 : Word).toNat / 4096 * 8 + 8 ≤ tables.params.gsmSize ∧
      physExists tables (tables.params.gsmBase + (0xFFFFF000 : Word).toNat / 4096 * 8) 8 = true := by decide

/-- A page of the Global GTT asked for by an HDC that has one credit left. -/
theorem test_witness_HdcRequestIsTranslated :
    let h : HdcRequest := { anHdcRequest with vaPage := 0 }
    let c : DescRegs := ⟨0x9, 0, 0, 0, 0⟩
    let s : State := { tables with
      engines := { Engines.reset with rcs := { EngineSt.reset with mode := .running, ctx := some c } }
      hdc := { HdcPort.reset with pending := [anHdcRequest] } }
    (Instr.hdcPageRequest h).wf = true ∧ h.valid = true ∧ creditsUsed s.hdc h.src < 2 ∧ s.hdc.serviceOff = false ∧
      (engineOf s .rcs).ctx = some c ∧ walkMode c.desc = .ggtt ∧ servesNow s .rcs = true ∧ nothingRetained s .rcs = true ∧
      trttOn s = false ∧ ggttPresent s (h.vaPage <<< 12) = true ∧
      physExists s (ggttTarget s (h.vaPage <<< 12)) 1 = true := by decide

theorem test_witness_GamResponseReleasesTheCredit :
    (aResponse.valid = true ∧
      ({ HdcPort.reset with pending := [anHdcRequest] } : HdcPort).pending.find? (answers aResponse) = some anHdcRequest) ∧
    HdcPort.reset.pending.find? (answers aResponse) = none ∧ ({ aResponse with valid := false } : GamResponse).valid = false := by
  decide

/-- The last acknowledgement, and one of three. -/
theorem test_witness_HdcInvalidationProtocol :
    let last : State := { State.reset with hdc := { HdcPort.reset with serviceOff := true, acks := [⟨0, 0⟩, ⟨0, 1⟩] } }
    let first : State := { State.reset with hdc := { HdcPort.reset with serviceOff := true } }
    (last.hdc.serviceOff = true ∧ ∀ j ∈ last.params.hdcs, j = ⟨0, 2⟩ ∨ j ∈ last.hdc.acks) ∧
    (first.hdc.serviceOff = true ∧ (⟨0, 0⟩ : HdcId) ∉ first.hdc.acks ∧
      ∃ j ∈ first.params.hdcs, j ≠ ⟨0, 0⟩ ∧ j ∉ first.hdc.acks) ∧
    (presents State.reset (.object .gamToHdc [2, 1])).inputs = .object .gamToHdc [2, 1] :: [] ∧
    decode .gamToHdc [2, 1] = .error .notValid ∧ decode .gamToHdc [3, 1] = .error .notValid := by decide

theorem test_witness_ReservedCodesStop :
    bit State.reset.regs.r404c 0 = false ∧ bit (0xC1 : QWord) 3 = false ∧ aFault.acc.useGgtt = false ∧
      aFault.acc.client ≠ .displayOverlay ∧ aFault.code ≠ 0 ∧ field (0xC1 : QWord) 6 2 = 3 ∧ field (0x01 : QWord) 6 2 = 0 := by
  decide

/-- A block of each size; a differential block whose sums are all at a bound of their range. -/
theorem test_witness_TextureBlocksDecode :
    (isTextureBlock (.eacRg11 0 aFormat) = true ∧ blockSize State.reset (.eacRg11 0 aFormat) = (4, 4)) ∧
      (isTextureBlock (.fxt1CcHi 0 aFormat) = true ∧ blockSize State.reset (.fxt1CcHi 0 aFormat) = (8, 4)) ∧
      (isTextureBlock (.astcCem15 0) = true ∧ blockSize (withFormat 12 10 .ldrFlt16) (.astcCem15 0) = (12, 10)) ∧
      aFormat.srgb = false ∧ aFormat.signed = false ∧ 3 < 4 ∧ 7 < 8 ∧
      (∀ c, c < 3 → etcInRange 0x022400FC (8 * c) = true) := by decide

theorem test_witness_Dxt1Palettes : 0 < 4 ∧ 3 < 4 := by decide

theorem test_witness_UndefinedBcModesReturnZero : aFormat.srgb = false := by decide

/-- Both reserved modes in each profile, and the void-extent cases: HDR and LDR. -/
theorem test_witness_AstcErrorAndConstantBlocks :
    (Instr.astcReservedModeA 0x1C4).wf = true ∧ (Instr.astcReservedModeB 0x20).wf = true ∧
      (withFormat 4 4 .fullFlt16).astcFormat.profile = .fullFlt16 ∧ (withFormat 12 12 .ldrFlt16).astcFormat.profile = .ldrFlt16 ∧
      State.reset.astcFormat.profile = .u8srgb ∧
      ((Instr.astcVoidExtent2d 0xFFFFFFFFFFFFFFFC).wf = true ∧ bit (0xFFFFFFFFFFFFFFFC : Block) 9 = true ∧
        field (0xFFFFFFFFFFFFFFFC : Block) 12 52 = 2 ^ 52 - 1) ∧
      ((Instr.astcVoidExtent2d 0xFFFFFFFFFFFFFDFC).wf = true ∧ bit (0xFFFFFFFFFFFFFDFC : Block) 9 = false ∧
        field (0xFFFFFFFFFFFFFDFC : Block) 12 52 = 2 ^ 52 - 1) := by decide

/-- R683: the FP16 values of 0, 1, 3, 4, FFFEh and FFFFh, rounded toward zero. -/
theorem test_unorm16_to_half :
    [0, 1, 3, 4, 0xFFFE, 0xFFFF].map unorm16ToHalf = [0, 0x100, 0x300, 0x400, 0x3BFF, 0x3C00] := by decide

theorem test_witness_AstcFormatsSetFootprintAndProfile :
    (Instr.astcLdr2d4x4U8srgb).port = .astcFormat ∧ (Instr.astcFull2d12x12Flt16).port = .astcFormat := by decide

/-- A pitch of 256 KB, the largest. -/
theorem test_witness_LegacyTileOffsets :
    let a : TileArgs := ⟨262143, 7, 262144, 0x10000, .e8, .s4, 3⟩
    a.base.toNat % 4096 = 0 ∧ a.pitch.toNat ≤ 262144 ∧ a.pitch.toNat % 512 = 0 ∧
      a.pitch.toNat % 128 = 0 ∧ a.pitch.toNat % 64 = 0 ∧
      4096 * (262144 / 512 * (7 / 8) + 262143 / 512) + (512 * (7 % 8) + 262143 % 512) + elemBitsOf a.elem / 8 ≤ 2 ^ 38 := by decide

/-- One sample, sixteen samples in TileYS, and four samples in TileYF. -/
theorem test_witness_StandardTileOffsets :
      (let a : TileArgs := ⟨0x55, 0x15, 262144, 0x10000, .e32, .s1, 0⟩
       a.pitch.toNat ≤ 262144 ∧ a.samples = .s1 ∧ a.base.toNat % 4096 = 0 ∧ a.pitch.toNat % 2 ^ 7 = 0 ∧
        4096 * (0x15 / 2 ^ 5 * (262144 / 2 ^ 7) + 0x55 / 2 ^ 7) + 0xCD5 + elemBitsOf a.elem / 8 ≤ 2 ^ 38) ∧
      (let a : TileArgs := ⟨0x55, 0x15, 512, 0x10000, .e32, .s16, 15⟩
       a.samples ≠ .s1 ∧ a.ss.toNat < 2 ^ samplesLog a.samples ∧ a.base.toNat % 65536 = 0 ∧
        a.pitch.toNat % 2 ^ (7 + 2 - (samplesLog a.samples + 1) / 2) = 0 ∧
        65536 * (0x15 / 2 ^ 5 * (512 / 2 ^ 7) + 0x55 / 2 ^ 7) + 4096 * 15 + 4095 + elemBitsOf a.elem / 8 ≤ 2 ^ 38) ∧
      (let a : TileArgs := ⟨0x55, 0x15, 128, 0x11000, .e32, .s4, 0⟩
       a.samples ≠ .s1 ∧ a.base.toNat % 4096 = 0 ∧ a.pitch.toNat % 2 ^ 7 = 0 ∧ a.pitch.toNat ≤ 262144) := by decide

theorem test_witness_LegacyTilesAreInjective :
    swizzleW ∈ [swizzleX, swizzleY, swizzleW] ∧ 128 % 2 ^ swizzleW.cu = 0 ∧ 127 < 128 ∧
      swizzledOffset swizzleW 127 5 0 128 = swizzledOffset swizzleW 127 5 0 128 := by decide

/-- A base one byte past a tile; of 4 KB tiles but not of 64 KB ones; a pitch of whole tiles above 256 KB, and one of half a tile. -/
theorem test_witness_TilingPreconditionsStop :
    (let a : TileArgs := ⟨0, 0, 4096, 0x10001, .e8, .s1, 0⟩
     a.base.toNat % 4096 ≠ 0 ∧ a.samples = .s1 ∧ a.elem ∈ [ElemBits.e8, .e16, .e32]) ∧
    (let a : TileArgs := ⟨0, 0, 4096, 0x11000, .e8, .s1, 0⟩
     a.base.toNat % 65536 ≠ 0) ∧
    (let a : TileArgs := ⟨0, 0, 262656, 0x10000, .e8, .s1, 0⟩
     a.base.toNat % 4096 = 0 ∧ a.pitch.toNat % 512 = 0 ∧ 262144 < a.pitch.toNat) ∧
    (let a : TileArgs := ⟨0, 0, 32, 0x10000, .e8, .s1, 0⟩
     a.pitch.toNat % 512 ≠ 0 ∧ a.pitch.toNat % 128 ≠ 0 ∧ a.pitch.toNat % 64 ≠ 0 ∧ a.base.toNat % 65536 = 0 ∧ a.elem = .e8) ∧
    (let a : TileArgs := ⟨0, 0, 512, 0x10000, .e128, .s2, 0⟩
     a.base.toNat % 65536 = 0 ∧ a.elem = .e128 ∧ a.samples = .s2 ∧ a.pitch.toNat % 256 = 0 ∧ a.pitch.toNat % (4 * 256 / 2) = 0) ∧
    (let a : TileArgs := ⟨0, 0, 256, 0x10000, .e128, .s2, 0⟩
     a.base.toNat % 65536 = 0 ∧ a.elem = .e128 ∧ a.samples = .s2 ∧ a.pitch.toNat % (4 * 256 / 2) ≠ 0) ∧
    ({ anAccess with tileX := true } : Access).tileX = true ∧ bit (0x2 : QWord) 1 = true ∧
      (0 : Word) = State.reset.regs.invalidTile := by decide

/-- An engine that runs a context with a request waiting. -/
def fenced : State :=
  { State.reset with engines := { Engines.reset with rcs :=
      { EngineSt.reset with mode := .running, ctx := some DescRegs.zero, stalled := [waiting.req] } } }

/-- An engine with nothing waiting, one with a request that waits, one whose fault waits, and one with a request that waits whose reset
waits. -/
theorem test_witness_ContextAvailableStep :
    messageBit 0x10001 0 = true ∧ messageBit 0x10001 1 = false ∧
      ((engineOf (engineIn .running .quiet) .rcs).miss = none ∧ (engineOf (engineIn .running .quiet) .rcs).mode ≠ .hung) ∧
      ((engineOf fenced .rcs).miss = none ∧ (engineOf fenced .rcs).mode ≠ .hung ∧ (engineOf fenced .rcs).ctx ≠ none ∧
        (engineOf fenced .rcs).phase = .quiet ∧ (engineOf fenced .rcs).stalled ≠ [] ∧ (engineOf fenced .rcs).resetting = false) ∧
      (engineOf halted .rcs).miss.isSome = true ∧
      ((engineOf (resettingIn fenced .rcs) .rcs).ctx ≠ none ∧ (engineOf (resettingIn fenced .rcs) .rcs).phase = .quiet ∧
        (engineOf (resettingIn fenced .rcs) .rcs).stalled ≠ [] ∧ (engineOf (resettingIn fenced .rcs) .rcs).resetting = true) := by decide

/-- An engine whose context has its image at LRCA 0, mapped. -/
def loadedImage : State :=
  { State.reset with
    mem := qwords [(0x7F800008, 0x6001)]
    regs := { State.reset.regs with nullTile := 7, trtte := 3 }
    engines := { Engines.reset with rcs := { EngineSt.reset with mode := .running, ctx := some DescRegs.zero } } }

/-- R40, R52, R80: a context that leaves has its part of the registers in its image. -/
theorem test_context_saved :
    (Memory.wf loadedImage.mem = true ∧ (∀ w ∈ imageWords loadedImage .rcs, imageMapped loadedImage 0 w.2 = true) ∧
      (7, 0x402) ∈ imageWords loadedImage .rcs ∧
      (∀ q ∈ imageWords loadedImage .rcs, q = (7, 0x402) ∨ imageApart loadedImage 0 0x402 q.2) ∧
      imageTarget loadedImage 0 0x402 = 0x6008 ∧ imageTarget loadedImage 0 (0x408 + 63) = 0x611C) ∧
    after (.msgRcsContextAvailable 0x10001) loadedImage
      (fun t => memReadLe t.mem 0x6008 4 == 7 && memReadLe t.mem 0x6014 4 == 3 && memReadLe t.mem 0x6024 4 == 0x34) = true := by
  decide +kernel

/-- R850, R871: a Context Available that the waiting reset keeps from its fence leaves the inputs to go on, and the reset ends it. -/
theorem test_available_while_resetting :
    let s := heldIn (resettingIn fenced .rcs)
    after (.msgRcsContextAvailable 0x10001) s (fun t => t.inputs == [] && (engineOf t .rcs).availPending
      && (servicePageRequest t 7).inputs == [.op (.engineReset .rcs)]
      && !(engineOf (requestReset (servicePageRequest t 7) .rcs) .rcs).availPending) = true := by decide +kernel

theorem test_witness_ContextReceiveReadyStep :
    messageBit 0x10001 0 = true ∧ messageBit 0x10001 1 = false ∧ (engineOf (engineIn .idle .available) .rcs).phase = .available := by
  decide

/-- A Global GTT that maps DWords 400h and up of the context image at LRCA 0 to 6000h, and an image there: L3 pointer 10000h, Null tile 1,
Invalid tile 2, TR-VA F0h, TR-TT off, and the first entries of GAM_MOCS. -/
def imaged : List (Nat × QWord) :=
  [(0x6000, 0x10000), (0x6008, 0x200000001), (0x6010, 0xF0), (0x6020, 0x3700000036), (0x7F800008, 0x6001)]

/-- R465: the type of an L3 coherent access by the HDC's two bits: a WP page is read as WB and written as WC, and a write of it is in no
cache. -/
theorem test_write_protected :
    typeOfControl (l3Control .wp false) = .wb ∧ typeOfControl (l3Control .wp true) = .wc ∧ typeOfControl (l3Control .wt true) = .wt ∧
      MemType.cacheable .wp false = true ∧ MemType.cacheable .wp true = false := by decide

/-- With no image mapped, and with a mapped one. -/
theorem test_witness_ContextLaunchedStep :
    let s := engineIn .idle .ready
    let m : State := { s with mem := qwords imaged }
    (messageBit 0x20002 0 = false ∧ messageBit 0x20002 1 = true ∧ (engineOf s .rcs).phase = .ready ∧
      ∀ w ∈ imageWords s .rcs, imageMapped s ((engineOf s .rcs).regs.desc.extractLsb' 12 20) w.2 = false) ∧
    (cpuSettled m = true ∧ (engineOf m .rcs).phase = .ready ∧
      (∀ k ∈ [0, 1, 2, 3, 4, 5], imageMapped m ((engineOf m .rcs).regs.desc.extractLsb' 12 20) (m.params.imageTrtt + k) = true) ∧
      imageMapped m ((engineOf m .rcs).regs.desc.extractLsb' 12 20) (m.params.imageMocs + 63) = true ∧
      64 * mocsBlock m.params .rcs + 63 < m.regs.gamMocs.length) := by decide +kernel

/-- R40, R52, R80: the registers in the context image, wherever its words come from, come with the context. -/
theorem test_context_restored :
    after (.msgRcsContextLaunched 0x20002) { engineIn .idle .ready with mem := qwords imaged }
      (fun t => t.regs.l3Ptr == 0x10000 && t.regs.nullTile == 1 && t.regs.invalidTile == 2 && t.regs.trvadr == 0xF0
        && t.regs.gamMocs.take 3 == [0x36, 0x37, 0] && t.regs.gamMocs.length == 512) = true := by
  decide +kernel

theorem test_witness_ContextConfirmedStep :
    messageBit 0x20002 0 = false ∧ messageBit 0x20002 1 = true ∧ (engineOf (engineIn .idle .launched) .rcs).phase = .launched ∧
      (engineOf (engineIn .idle .launched) .rcs).mode = .idle := by decide

/-- The entry a waiting request uses, and one that it does not. -/
theorem test_witness_ControlTableEntries :
    lncfInUse halted 0 = true ∧ lncfInUse halted 5 = false ∧ halted.regs.lncf.getD 0 0 ≠ 0x1234 ∧
      gamMocsInUse halted (64 * mocsBlock halted.params .rcs) = true ∧
      gamMocsInUse halted (64 * mocsBlock halted.params .rcs + 63) = false ∧
      halted.regs.gamMocs.getD (64 * mocsBlock halted.params .rcs) 0 ≠ 0x12345678 := by decide

theorem test_witness_PageRequestEnable :
    let on : State := { State.reset with pci := { PciCaps.reset with priControl := 1, priStatus := 3 } }
    (presents on (.op (.pciWrite .priControl 0))).inputs = .op (.pciWrite .priControl 0) :: [] ∧
      (bit on.pci.priControl 0 = true ∧ bit (0 : Word) 0 = false) ∧
      (bit State.reset.pci.priControl 0 = false ∧ bit (1 : Word) 0 = true ∧
        (bit State.reset.pci.priStatus 8 = false ∨ State.reset.pageRequests = [])) := by decide

end Sys2Proof.Tests
end

/-! ## The step on an object and on a message (00_scope.md R6, 30_encoding.md R170) -/

namespace Sys2Proof.Machine

open Sys2Proof

/-- The machine reads bytes at a port through the decoder. -/
theorem fetched_object_of_decode {p : Port} {bs r : List Byte} {i : Instr} (h : decode p bs = .ok (i, r)) :
    fetched (.object p bs) = .instr i := by
  simp [fetched, h]

@[simp] theorem fetched_message (i : Instr) : fetched (.message i) = .instr i := rfl

/-- With an input presented, the step carries out what the oldest one turns out to be, on the machine without it. -/
theorem step_of_inputs_cons {s : State} {x : Input} {rest : List Input} (h : s.inputs = x :: rest) :
    step s = runFetched (fetched x) (popInput s rest) := by
  simp [step, h]

/-- An oldest input that is read as an instruction is executed on the machine with that input taken. -/
theorem step_of_fetched_instr {s : State} {x : Input} {rest : List Input} {i : Instr} (hin : s.inputs = x :: rest)
    (hx : fetched x = .instr i) : step s = exec i { s with inputs := rest } := by
  calc step s = runFetched (fetched x) (popInput s rest) := step_of_inputs_cons hin
    _ = runFetched (.instr i) (popInput s rest) := by rw [hx]
    _ = exec i { s with inputs := rest } := rfl

/-- Settles O3: an object and a message are both read as an instruction, and the decoder answers only well-formed objects. -/
theorem stepRunsTheDecodedObject : Obligations.StepRunsTheDecodedObject := by
  unfold Obligations.StepRunsTheDecodedObject
  constructor
  · intro s p bs r rest i hin hdec
    exact ⟨wf_of_decode hdec, step_of_fetched_instr hin (fetched_object_of_decode hdec)⟩
  · intro s rest i hin
    exact step_of_fetched_instr hin (fetched_message i)

end Sys2Proof.Machine

/-! ## What one step can do: serving what `Kept` describes, or one of few operations on registers, contexts and ports -/

namespace Sys2Proof.Machine

open Sys2Proof

/-! ### Instructions that keep what `Kept` says -/

/-- An update of queues, marks and result latches alone keeps what no request changes. -/
theorem Kept.of_latches {s t : State} (h : t = { s with
    history := t.history, texMark := t.texMark, icMark := t.icMark, gpuMark := t.gpuMark, cpuMark := t.cpuMark
    llcMark := t.llcMark, waitMark := t.waitMark, walk := t.walk, trWalk := t.trWalk, indices := t.indices
    ggttOffset := t.ggttOffset, atomicReturn := t.atomicReturn, completion := t.completion, memType := t.memType
    cache := t.cache, tile := t.tile, lodOrigin := t.lodOrigin, planar := t.planar, pixel := t.pixel, texels := t.texels
    texel := t.texel, astcFormat := t.astcFormat, draws := t.draws, inputs := t.inputs }) : Kept s t :=
  .of_same (congrArg State.params h :) (congrArg State.mem h :) (congrArg State.engines h :) (congrArg State.regs h :)
    (congrArg State.pci h :) (congrArg State.iommu h :) (congrArg State.pasidCounts h :) (congrArg State.memRanges h :)
    (congrArg State.lastQueued h :) (congrArg State.notifications h :) (congrArg State.palette h :) (congrArg State.hdc h :)

theorem kept_latchBlock (b : TexelBlock) (s : State) : Kept s (latchBlock b s) := .of_latches rfl

/-- A meaning that always answers answers its state. -/
theorem kept_of_outcome_ok {s t u : State} (h : toOutcome (.ok u) = .next t) (k : Kept s u) : Kept s t := by
  rw [toOutcome_ok, Host.Outcome.next.injEq] at h
  exact h ▸ k

/-- A tiling function latches its result (R283). -/
theorem kept_tileObject {m : TileMode} {a : TileArgs} {s t : State} (h : tileObject m a s = .ok t) : Kept s t := by
  obtain ⟨o, _, h⟩ := bind_ok.1 h
  cases h
  exact kept_latchTile s a.base 0 0 o

/-- A TR-TT entry presented as an object is latched; a Null or Invalid tile completes the access (R402, R403). -/
theorem kept_trEntry {e : TrEnd} {a : Access} {s t : State} (h : trEntry e a s = .ok t) : Kept s t := by
  have hlatch : Kept s { s with trWalk := e } := .of_latches rfl
  have htile : ∀ c, Kept s (complete (noteTile { s with trWalk := e } a.eng e) c) :=
    fun c => (hlatch.trans (kept_noteTile _ _ _)).trans (kept_complete _ c)
  unfold trEntry at h
  dsimp only at h
  split at h
  · split at h
    · cases h
    · cases h; exact htile _
  · split at h
    · cases h
    · cases h; exact htile _
  · cases h; exact hlatch

/-- A Global GTT entry is stored (R206). -/
theorem kept_updateGgtt {v : Word} {a : GttUpdateArgs} {s t : State} (h : updateGgtt v a s = .ok t) : Kept s t := by
  have hlatch : ∀ o, Kept s { s with ggttOffset := o } := fun o => .of_latches rfl
  unfold updateGgtt at h
  dsimp only at h
  split at h
  · cases h; exact hlatch _
  · obtain ⟨_, _, h⟩ := bind_ok.1 h
    cases h
    exact (hlatch _).trans (kept_store _ _ _ _ _)

/-- A request under a descriptor is served (R300). -/
theorem kept_serveUnder {m : WalkMode} {d : QWord} {a : Access} {s t : State} (h : serveUnder m d a s = .ok t) : Kept s t :=
  kept_serve h

/-- A fault presented as an object is taken; code 00 is none (R801). -/
theorem kept_presentFault {d : QWord} {a : FaultArgs} {c : BitVec 2} {s t : State} (h : presentFault d a c s = .ok t) :
    Kept s t := by
  unfold presentFault at h
  split at h
  · cases h; exact kept_complete s _
  · exact kept_takePageFault h

/-! ### Every instruction -/

/-- What an instruction can do to the machine beside what `Kept` allows: a message of the context handshake (R850), a descriptor write
(R850), a transaction of the HDC port (R375, R376), a write of a control table (R50, R52). -/
inductive InstrEffect (s : State) : State → Prop
  | kept {t : State} (h : Kept s t) : InstrEffect s t
  | toGam (e : Engine) (w : Word) : InstrEffect s (gamMessage e w s)
  | toCs (e : Engine) (w : Word) : InstrEffect s (csMessage e w s)
  | descriptors (d : QWord) (a : DescArgs) : InstrEffect s (writeDescriptors d a s)
  | hdcRequest (a : HdcRequest) {t : State} (h : hdcPageRequest a s = .ok t) : InstrEffect s t
  | hdcAck (a : HdcAck) : InstrEffect s (tlbInvResponse a s)
  | hdcResponse (a : GamResponse) : InstrEffect s (gamPageResponse a s)
  | hdcStart : InstrEffect s (tlbInvStart s)
  | hdcEnd : InstrEffect s (tlbInvEnd s)
  | lncf (i : Nat) (w : BitVec 16) {t : State} (h : writeLncf i w s = .ok t) : InstrEffect s t
  | gamMocs (i : Nat) (w : Word) {t : State} (h : writeGamMocs i w s = .ok t) : InstrEffect s t

/-- What every instruction does, by its constructor; those not named are blocks of texels, which are decoded and latched. -/
theorem exec_effect {i : Instr} {s t : State} (h : exec i s = .next t) : InstrEffect s t := by
  cases i with
  | atomicPageUpdate0000 a | atomicPageUpdate0001 a | atomicPageUpdate0010 a | atomicPageUpdate0011 a
  | atomicPageUpdate0100 a | atomicPageUpdate0101 a | atomicPageUpdate0110 a | atomicPageUpdate0111 a
  | atomicPageUpdate1000 a | atomicPageUpdate1001 a | atomicPageUpdate1010 a | atomicPageUpdate1011 a
  | atomicPageUpdate1100 a | atomicPageUpdate1101 a | atomicPageUpdate1110 a | atomicPageUpdate1111 a
  | atomicAUpdate000 a | atomicAUpdate001 a | atomicAUpdate010 a | atomicAUpdate011 a | atomicAUpdate100 a
  | atomicAdUpdate101 a | atomicAdUpdate110 a | atomicAdUpdate111 a =>
    exact .kept (kept_entryAtomic (toOutcome_next.1 h))
  | ctxLegacyGgtt d a | ctxLegacyPpgtt32 d a | ctxLegacyPpgtt48 d a | ctxAdvanced d a =>
    exact .kept (kept_serveUnder (toOutcome_next.1 h))
  | elementDescriptor d a => cases h; exact .descriptors d a
  | faultModelHang d a | faultModelHalt d a | faultModelStreamSwitch d a | faultModelReserved d a =>
    exact .kept (kept_presentFault (toOutcome_next.1 h))
  | faultCodeNone a =>
    exact .kept (kept_presentFault (d := faultDesc s a.acc.eng) (a := a) (c := 0) (toOutcome_next.1 h))
  | faultCodeNotPresentOrReserved a =>
    exact .kept (kept_presentFault (d := faultDesc s a.acc.eng) (a := a) (c := 1) (toOutcome_next.1 h))
  | faultCodePrivilege a =>
    exact .kept (kept_presentFault (d := faultDesc s a.acc.eng) (a := a) (c := 2) (toOutcome_next.1 h))
  | faultCodeWritePermission a =>
    exact .kept (kept_presentFault (d := faultDesc s a.acc.eng) (a := a) (c := 3) (toOutcome_next.1 h))
  | ia32ePml4e e a | ia32ePdpePd e a | ia32ePdpe1gb e a | ia32ePdePt e a | ia32ePde2mb e a | ia32ePte64kb e a
  | ia32ePte4kb e a | legacy32Pde e a | legacyPte64kb e a | legacyPte4kb e a | legacy64Pml4e e a | legacy64PdpePd e a
  | legacy64Pdpe1gb e a | legacy64PdePt e a | legacy64Pde2mb e a | ggttPte e a =>
    exact .kept (kept_walkEntry (toOutcome_next.1 h))
  | trttL3e e a | trttL2e e a | trttL1e e a => exact .kept (kept_trEntry (toOutcome_next.1 h))
  | vaIndex4level v | vaIndexPpgtt32 v | vaIndexGgtt v | vaIndexTrtt v =>
    exact .kept (kept_of_outcome_ok h (.of_latches rfl))
  | miUpdateGttAddr v a => exact .kept (kept_updateGgtt (toOutcome_next.1 h))
  | hdcPageRequest a => exact .hdcRequest a (toOutcome_next.1 h)
  | hdcTlbInvResponse a => cases h; exact .hdcAck a
  | gamPageResponse a => cases h; exact .hdcResponse a
  | gamTlbInvStart => cases h; exact .hdcStart
  | gamTlbInvEnd => cases h; exact .hdcEnd
  | gamResponseOpcodeReserved | memtypeReserved2 a | memtypeReserved3 a | memtypeReserved7 a => cases h
  | memtypeUc a | memtypeWc a | memtypeWt a | memtypeWp a | memtypeWb a =>
    exact .kept (kept_of_outcome_ok h (.of_latches rfl))
  | astcLdr2d4x4U8srgb | astcLdr2d5x4U8srgb | astcLdr2d5x5U8srgb | astcLdr2d6x5U8srgb | astcLdr2d6x6U8srgb
  | astcLdr2d8x5U8srgb | astcLdr2d8x6U8srgb | astcLdr2d10x5U8srgb | astcLdr2d10x6U8srgb | astcLdr2d8x8U8srgb
  | astcLdr2d10x8U8srgb | astcLdr2d10x10U8srgb | astcLdr2d12x10U8srgb | astcLdr2d12x12U8srgb
  | astcLdr2d4x4Flt16 | astcLdr2d5x4Flt16 | astcLdr2d5x5Flt16 | astcLdr2d6x5Flt16 | astcLdr2d6x6Flt16
  | astcLdr2d8x5Flt16 | astcLdr2d8x6Flt16 | astcLdr2d10x5Flt16 | astcLdr2d10x6Flt16 | astcLdr2d8x8Flt16
  | astcLdr2d10x8Flt16 | astcLdr2d10x10Flt16 | astcLdr2d12x10Flt16 | astcLdr2d12x12Flt16
  | astcFull2d4x4Flt16 | astcFull2d5x4Flt16 | astcFull2d5x5Flt16 | astcFull2d6x5Flt16 | astcFull2d6x6Flt16
  | astcFull2d8x5Flt16 | astcFull2d8x6Flt16 | astcFull2d10x5Flt16 | astcFull2d10x6Flt16 | astcFull2d8x8Flt16
  | astcFull2d10x8Flt16 | astcFull2d10x10Flt16 | astcFull2d12x10Flt16 | astcFull2d12x12Flt16 =>
    exact .kept (kept_of_outcome_ok h (.of_latches rfl))
  | tileLinear a => exact .kept (kept_tileObject (m := .linear) (a := a) (toOutcome_next.1 h))
  | tileX a => exact .kept (kept_tileObject (m := .x) (a := a) (toOutcome_next.1 h))
  | tileY a => exact .kept (kept_tileObject (m := .y) (a := a) (toOutcome_next.1 h))
  | tileW a => exact .kept (kept_tileObject (m := .w) (a := a) (toOutcome_next.1 h))
  | tileYf a => exact .kept (kept_tileObject (m := .yf) (a := a) (toOutcome_next.1 h))
  | tileYs a => exact .kept (kept_tileObject (m := .ys) (a := a) (toOutcome_next.1 h))
  | msgRcsContextAvailable w | msgRcsContextLaunched w => cases h; exact .toGam .rcs w
  | msgBcsContextAvailable w | msgBcsContextLaunched w => cases h; exact .toGam .bcs w
  | msgVecsContextAvailable w | msgVecsContextLaunched w => cases h; exact .toGam .vecs w
  | msgVcs0ContextAvailable w | msgVcs0ContextLaunched w => cases h; exact .toGam .vcs0 w
  | msgVcs1ContextAvailable w | msgVcs1ContextLaunched w => cases h; exact .toGam .vcs1 w
  | msgRcsContextReceiveReady w | msgRcsContextConfirmed w => cases h; exact .toCs .rcs w
  | msgBcsContextReceiveReady w | msgBcsContextConfirmed w => cases h; exact .toCs .bcs w
  | msgVecsContextReceiveReady w | msgVecsContextConfirmed w => cases h; exact .toCs .vecs w
  | msgVcs0ContextReceiveReady w | msgVcs0ContextConfirmed w => cases h; exact .toCs .vcs0 w
  | msgVcs1ContextReceiveReady w | msgVcs1ContextConfirmed w => cases h; exact .toCs .vcs1 w
  | lncfcmocsEntry w a => exact .lncf a.index.toNat w (toOutcome_next.1 h)
  | gamMocsEntry w a => exact .gamMocs (64 * a.block.toNat + a.index.toNat) w (toOutcome_next.1 h)
  | _ => exact .kept (kept_of_outcome_ok h (kept_latchBlock _ s))

end Sys2Proof.Machine

namespace Sys2Proof.Machine

open Sys2Proof

/-! ### Transactions that keep what `Kept` says -/

/-- A texel is located by one layout query, that of a planar surface by three (R513). -/
theorem kept_texelReads {f : Surface} {c : Coord} {how : TexelFormat} {s t : State} {l : List (QWord × BitVec 3)}
    (h : texelReads f c how s = .ok (l, t)) : Kept s t := by
  unfold texelReads at h
  split at h
  · obtain ⟨u, hu, h⟩ := bind_ok.1 h
    obtain ⟨v, hv, h⟩ := bind_ok.1 h
    obtain ⟨y, hy, h⟩ := bind_ok.1 h
    cases h
    exact (kept_layoutQuery hu).trans ((kept_layoutQuery hv).trans (kept_layoutQuery hy))
  · obtain ⟨u, hu, h⟩ := bind_ok.1 h
    cases h
    exact kept_layoutQuery hu

/-- A sample is a read of the bytes of a texel. -/
theorem kept_sampleOp {a : Access} {f : Surface} {c : Coord} {how : TexelFormat} {aux : Option QWord} {s t : State}
    (h : sampleOp a f c how aux s = .ok t) : Kept s t := by
  unfold sampleOp at h
  split at h
  · cases h
  · split at h
    · cases h
    · obtain ⟨⟨reads, u⟩, hu, h⟩ := bind_ok.1 h
      refine (kept_texelReads hu).trans ?_
      dsimp only at h
      split at h
      · cases h; exact Kept.refl _
      · split at h
        · exact kept_serveLoaded h
        · cases h

theorem kept_auxSample {a : Access} {aux : QWord} {s t : State} (h : auxSample a aux s = .ok t) : Kept s t := by
  unfold auxSample at h
  split at h
  · cases h
  · exact kept_serveLoaded h

theorem kept_serveNext {s t : State} {r : Request} (h : serveNext s r = .ok t) : Kept s t := by
  unfold serveNext at h
  split at h
  · exact kept_serve h
  · exact kept_serveLoaded h

/-- The sampler with all bytes of a texel latches it, or presents the object that decodes it (R740). -/
theorem kept_deliver (x : TexelRead) (s : State) : Kept s (deliver x s) := by
  unfold deliver
  dsimp only
  split <;> exact .of_latches rfl

theorem kept_texelReturn {r : Request} {s t : State} (h : texelReturn r s = .ok t) : Kept s t := by
  unfold texelReturn at h
  split at h
  · split at h
    · cases h; exact .of_latches rfl
    · split at h
      · dsimp only at h
        split at h
        · exact kept_serveNext h
        · cases h
      · cases h; exact kept_deliver _ s
  · cases h; exact Kept.refl s

theorem kept_pickTexel (bx y : Nat) (s : State) : Kept s (pickTexel bx y s) := by
  unfold pickTexel
  split <;> exact .of_latches rfl

theorem kept_lodQuery {f : Surface} {l : Nat} {s t : State} (h : lodQuery f l s = .ok t) : Kept s t := by
  obtain ⟨o, _, h⟩ := bind_ok.1 h
  cases o <;> cases h <;> exact .of_latches rfl

theorem kept_mcsSample (f : Surface) (mcs : QWord) (i : Nat) (s : State) : Kept s (mcsSample f mcs i s) := by
  unfold mcsSample
  split <;> exact .of_latches rfl

/-! ### Register reads and the accesses of the host -/

theorem kept_noEffect (s : State) : Kept s (noEffect s) := kept_complete s _

theorem kept_readWord (s : State) (w : Word) : Kept s (readWord s w) := kept_complete s _

theorem kept_readFree (s : State) : Kept s (readFree s) := (kept_complete s _).trans (kept_advanceDraws _ 1)

/-- A register read completes with a value, stated or open (R21, R24). -/
theorem kept_mmioRead {ag : Agent} {off : Nat} {s t : State} (h : mmioRead ag off s = .ok t) : Kept s t := by
  unfold mmioRead at h
  split at h
  · cases h
  · dsimp only at h
    split at h
    · cases h; exact kept_readWord s _
    · split at h <;> cases h
      · exact kept_readWord s 0
      · exact kept_readFree s

theorem kept_namedRead (r : NamedReg) (s : State) : Kept s (namedRead r s) := by
  cases r <;> exact kept_readWord s _

theorem kept_configRead {off : BitVec 12} {n : Nat} {s t : State} (h : configRead off n s = .ok t) : Kept s t := by
  unfold configRead at h
  split at h <;> cases h <;> exact kept_readWord s _

theorem kept_writeScattered (l : List (Option Nat)) (s : State) (v : QWord) : Kept s (writeScattered s l v) := by
  induction l generalizing s v with
  | nil => exact Kept.refl s
  | cons a l ih =>
    cases a with
    | none => exact ih s _
    | some pa => exact (kept_store s pa 1 v _).trans (ih _ _)

theorem kept_writeHost (s : State) (l : List (Option Nat)) (v : QWord) : Kept s (writeHost s l v) := by
  unfold writeHost
  split
  · exact kept_store s _ _ _ _
  · exact kept_writeScattered l s v

/-- An access of the host outside GTTMMADR reads or stores bytes of memory (R104-R107). -/
theorem kept_scatteredAccess {w : Bool} {bytes : List HostByte} {d : QWord} {s t : State}
    (h : scatteredAccess w bytes d s = .ok t) : Kept s t := by
  obtain ⟨o, _, h⟩ := bind_ok.1 h
  cases o with
  | none => cases h; exact (kept_complete s _).trans (kept_advanceDraws _ 24)
  | some l =>
    cases w <;> cases h
    · exact (kept_complete s _).trans (kept_advanceDraws _ 24)
    · exact (kept_writeHost s l d).trans ((kept_advanceDraws _ 24).trans (kept_noEffect _))

theorem kept_memWriteOp {pa n : Nat} {d : QWord} {s t : State} (h : memWriteOp pa n d s = .ok t) : Kept s t := by
  unfold memWriteOp at h
  split at h
  · cases h
  · exact kept_scatteredAccess h

theorem kept_physAccess {w : Bool} {pa n : Nat} {d : QWord} {s t : State} (h : physAccess w pa n d s = .ok t) : Kept s t := by
  obtain ⟨_, _, h⟩ := bind_ok.1 h
  cases w <;> cases h
  · exact kept_complete s _
  · exact (kept_store s _ _ _ _).trans (kept_noEffect _)

/-- A place of GTTMMADR where no register is: a read is open, a write has no effect. -/
theorem kept_unregistered (w : Bool) (s : State) : Kept s (if w then noEffect s else readFree s) := by
  cases w
  · exact kept_readFree s
  · exact kept_noEffect s

theorem kept_gttadrAccess {w : Bool} {off n : Nat} {d : QWord} {s t : State} (h : gttadrAccess w off n d s = .ok t) :
    Kept s t := by
  unfold gttadrAccess at h
  split at h
  · cases h
  · split at h
    · cases h; exact kept_unregistered w s
    · exact kept_physAccess h

/-- An access within GTTMMADR changes a register only by a register write (R105). -/
theorem gttmmadrAccess_cases {w : Bool} {off n : Nat} {d : QWord} {s t : State} (h : gttmmadrAccess w off n d s = .ok t) :
    Kept s t ∨ ∃ v, mmioWrite .host off v s = .ok t := by
  unfold gttmmadrAccess at h
  split at h
  · exact .inl (kept_gttadrAccess h)
  · split at h
    · cases h; exact .inl (kept_unregistered w s)
    · split at h
      · split at h
        · cases h; exact .inl (kept_unregistered w s)
        · cases h
      · split at h
        · cases h
        · cases w
          · exact .inl (kept_mmioRead h)
          · exact .inr ⟨_, h⟩

/-- An access of the host changes what `Kept` describes, or is a register write (R104-R107). -/
theorem hostAccess_cases {w : Bool} {addr n : Nat} {d : QWord} {s t : State} (h : hostAccess w addr n d s = .ok t) :
    Kept s t ∨ ∃ off v, mmioWrite .host off v s = .ok t := by
  unfold hostAccess at h
  dsimp only at h
  split at h
  · cases h
  · split at h
    · exact (gttmmadrAccess_cases h).imp_right fun ⟨v, hv⟩ => ⟨_, v, hv⟩
    · split at h
      · cases h
      · exact .inl (kept_scatteredAccess h)

/-- So does one of a peer device (R101). -/
theorem peerAccess_cases {w : Bool} {addr n : Nat} {d : QWord} {s t : State} (h : peerAccess w addr n d s = .ok t) :
    Kept s t ∨ ∃ off v, mmioWrite .host off v s = .ok t := by
  unfold peerAccess at h
  split at h
  · cases h
  · split at h
    · exact hostAccess_cases h
    · cases h; exact .inl (kept_complete s _)

/-! ### Every transaction -/

/-- The transactions that serve requests, read registers, or latch results and marks. -/
def Op.serves : Op → Bool
  | .request .. | .surface .. | .writePixel .. | .sample .. | .texelReturn .. | .pickTexel .. | .resume .. | .rewalk ..
  | .mmioRead .. | .csMmioRead .. | .namedRead .. | .memWrite .. | .pciRead .. | .configRead .. | .invalidateTexture
  | .invalidateInstruction | .invalidationWait | .flush .. | .mocsLookup .. | .layout .. | .lodOrigin .. | .auxSample ..
  | .mcsLayout .. | .mcsSample .. | .planarOffsets .. | .decodePixel .. | .encodePixel .. => true
  | _ => false

/-- They keep what no request changes. -/
theorem kept_runOp {o : Op} {s t : State} (ho : o.serves = true) (h : runOp o s = .ok t) : Kept s t := by
  cases o with
  | request a => exact kept_requestOp h
  | surface a f c high => exact kept_surfaceOp h
  | writePixel a f c how r g b al => exact kept_writePixelOp h
  | sample a f c how aux => exact kept_sampleOp h
  | texelReturn r => exact kept_texelReturn h
  | pickTexel bx y => cases h; exact kept_pickTexel bx y s
  | resume r => exact kept_resume h
  | rewalk r => exact kept_rewalk h
  | mmioRead off | csMmioRead e off => exact kept_mmioRead h
  | namedRead r => cases h; exact kept_namedRead r s
  | memWrite pa n d => exact kept_memWriteOp h
  | pciRead r => cases h; exact kept_readWord s _
  | configRead off n => exact kept_configRead h
  | flush c => cases c <;> cases h <;> exact .of_latches rfl
  | layout f c | mcsLayout f c => exact kept_layoutQuery h
  | lodOrigin f l => exact kept_lodQuery h
  | auxSample a aux => exact kept_auxSample h
  | mcsSample f mcs i => cases h; exact kept_mcsSample f mcs i s
  | encodePixel f r g b a => exact kept_encodePixel h
  | invalidateTexture | invalidateInstruction | invalidationWait | planarOffsets d u y v | decodePixel f p
  | mocsLookup e i a ty c d w => cases h; exact .of_latches rfl
  | _ => cases ho

/-- Bytes that are no object of their port change nothing but by the fault they raise (R801). -/
theorem kept_rejectedObject {p : Port} {x : DecodeError} {s t : State} (h : rejectedObject p x s = .ok t) : Kept s t := by
  unfold rejectedObject at h
  split at h
  · split at h
    · exact kept_rejectedEntry h
    · cases h
  · cases h; exact Kept.refl s
  · cases h; exact Kept.refl s
  · cases h

theorem kept_popInput (s : State) (rest : List Input) : Kept s (popInput s rest) := kept_inputs s rest

/-- What a step can do, on the machine with its oldest input taken: keep what `Kept` says, run an instruction, or run a transaction
of another kind. -/
theorem step_cases {s t : State} (h : step s = .next t) :
    Kept s t ∨ ∃ u, Kept s u ∧ (InstrEffect u t ∨ ∃ o, runOp o u = .ok t) := by
  cases hin : s.inputs with
  | nil =>
    simp only [step, hin, Host.Outcome.next.injEq] at h
    exact .inl (h ▸ Kept.refl s)
  | cons x rest =>
    rw [step_of_inputs_cons hin] at h
    have hpop := kept_popInput s rest
    cases hx : fetched x with
    | instr i => rw [hx] at h; exact .inr ⟨_, hpop, .inl (exec_effect h)⟩
    | op o => rw [hx] at h; exact .inr ⟨_, hpop, .inr ⟨o, toOutcome_next.1 h⟩⟩
    | rejected p e => rw [hx] at h; exact .inl (hpop.trans (kept_rejectedObject (toOutcome_next.1 h)))

end Sys2Proof.Machine

/-! ## The reserved bits of the registers and the sizes of their banks (O6) -/

namespace Sys2Proof.Machine

open Sys2Proof

/-! ### Fields of words that are masked and put together -/

/-- A field is 0 exactly when each of its bits is. -/
theorem field_eq_zero_iff {n : Nat} (w : BitVec n) (lo len : Nat) :
    field w lo len = 0 ↔ ∀ i, i < len → w.getLsbD (lo + i) = false := by
  rw [field, ← BitVec.toNat_zero (w := len), ← BitVec.toNat_eq]
  constructor
  · intro h i hi
    have := congrArg (·.getLsbD i) h
    simpa [hi] using this
  · intro h
    refine BitVec.eq_of_getLsbD_eq fun i hi => ?_
    simp [hi, h i hi]

theorem field_zero (n lo len : Nat) : field (0 : BitVec n) lo len = 0 := by simp [field]

/-- A mask that is 0 in a field clears it. -/
theorem field_and_mask {n lo len : Nat} (w : BitVec n) {m : BitVec n} (h : field m lo len = 0) : field (w &&& m) lo len = 0 := by
  rw [field_eq_zero_iff] at h ⊢
  intro i hi
  simp [h i hi]

/-- A field that is 0 stays 0 under a mask. -/
theorem field_and_zero {n lo len : Nat} {w : BitVec n} (m : BitVec n) (h : field w lo len = 0) : field (w &&& m) lo len = 0 := by
  rw [BitVec.and_comm]
  exact field_and_mask m h

/-- A field that is 0 stays 0 when bits outside it are set. -/
theorem field_or_zero {n lo len : Nat} {w m : BitVec n} (h : field w lo len = 0) (hm : field m lo len = 0) :
    field (w ||| m) lo len = 0 := by
  rw [field_eq_zero_iff] at h hm ⊢
  intro i hi
  simp [h i hi, hm i hi]

/-- A field in the high part of two words put together. -/
theorem field_append_high {m n lo len : Nat} (a : BitVec m) (b : BitVec n) : field (a ++ b) (n + lo) len = field a lo len := by
  rw [field, field]
  congr 1
  refine BitVec.eq_of_getLsbD_eq fun i hi => ?_
  simp [BitVec.getLsbD_append, show ¬ n + lo + i < n by omega, show n + lo + i - n = lo + i by omega]

/-- A field in the low part of two words put together. -/
theorem field_append_low {m n lo len : Nat} (a : BitVec m) (b : BitVec n) (h : lo + len ≤ n) :
    field (a ++ b) lo len = field b lo len := by
  rw [field, field]
  congr 1
  refine BitVec.eq_of_getLsbD_eq fun i hi => ?_
  simp [BitVec.getLsbD_append, show lo + i < n by omega]

/-- A field of a part of a word is a field of the word. -/
theorem field_extractLsb' {n k m lo len : Nat} (q : BitVec n) (h : lo + len ≤ m) :
    field (q.extractLsb' k m) lo len = field q (k + lo) len := by
  rw [field, field]
  congr 1
  refine BitVec.eq_of_getLsbD_eq fun i hi => ?_
  simp [hi, show lo + i < m by omega, Nat.add_assoc]

/-! ### What a step keeps of the registers -/

/-- The reserved bits that are 0 stay 0, and the banks keep their sizes. -/
structure ReservedKept (s t : State) : Prop where
  trtt : s.regs.trttReservedOk = true → t.regs.trttReservedOk = true
  pci : s.pci.reservedOk = true → t.pci.reservedOk = true
  banks : s.regs.banksOk = true → t.regs.banksOk = true

theorem ReservedKept.trans {s t u : State} (h : ReservedKept s t) (g : ReservedKept t u) : ReservedKept s u :=
  ⟨g.trtt ∘ h.trtt, g.pci ∘ h.pci, g.banks ∘ h.banks⟩

/-- A step that leaves these registers alone keeps them. -/
theorem ReservedKept.of_same {s t : State} (hr : t.regs = s.regs) (hp : t.pci = s.pci) : ReservedKept s t :=
  ⟨fun h => hr ▸ h, fun h => hp ▸ h, fun h => hr ▸ h⟩

/-- Serving a request changes counters of the registers only. -/
theorem ReservedKept.of_kept {s t : State} (k : Kept s t) : ReservedKept s t := by
  obtain ⟨n, f, hr⟩ := k.regs
  exact ⟨fun h => by rw [hr]; exact h, fun h => k.pci ▸ h, fun h => by rw [hr]; exact h⟩

/-- What follows it leaves these registers alone. -/
theorem ReservedKept.then_same {s t u : State} (h : ReservedKept s t) (hr : u.regs = t.regs) (hp : u.pci = t.pci) :
    ReservedKept s u :=
  h.trans (.of_same hr hp)

/-- A change of the MMIO registers alone. -/
theorem ReservedKept.of_regs {s t : State} (hp : t.pci = s.pci) (ht : s.regs.trttReservedOk = true → t.regs.trttReservedOk = true)
    (hb : s.regs.banksOk = true → t.regs.banksOk = true) : ReservedKept s t :=
  ⟨ht, fun h => hp ▸ h, hb⟩

/-- A change of the PCI registers alone. -/
theorem ReservedKept.of_pci {s t : State} (hr : t.regs = s.regs) (hp : s.pci.reservedOk = true → t.pci.reservedOk = true) :
    ReservedKept s t :=
  ⟨fun h => hr ▸ h, hp, fun h => hr ▸ h⟩

/-- An operation that each element of a list brings about. -/
theorem ReservedKept.foldl {α : Type} {f : State → α → State} (hf : ∀ s a, ReservedKept s (f s a)) (l : List α) (s : State) :
    ReservedKept s (l.foldl f s) := by
  induction l generalizing s with
  | nil => exact .of_same rfl rfl
  | cons a l ih => exact (hf s a).trans (ih _)

/-- The reserved bits of the TR-TT registers, register by register (R41, R44, R45). -/
theorem trttReservedOk_iff (g : Regs) : g.trttReservedOk = true ↔
    field g.l3Ptr 48 16 = 0 ∧ field g.l3Ptr 0 16 = 0 ∧ field g.trvadr 8 24 = 0 ∧ field g.trtte 2 30 = 0 := by
  simp [Regs.trttReservedOk, and_assoc]

/-- The reserved bits of the PCI registers, register by register (R68, R71, R73, R74). -/
theorem reservedOk_iff (p : PciCaps) : p.reservedOk = true ↔
    field p.pasidControl 3 13 = 0 ∧ field p.atsControl 5 10 = 0 ∧ field p.priControl 1 15 = 0 ∧
      field p.priStatus 9 7 = 0 ∧ field p.priStatus 2 6 = 0 := by
  simp [PciCaps.reservedOk, and_assoc]

/-- The sizes of the register banks (R22, R23, R50, R52). -/
theorem banksOk_iff (g : Regs) : g.banksOk = true ↔
    g.maxReqCounts.length = 16 ∧ g.fences.length = 16 ∧ g.lncf.length = 64 ∧ g.gamMocs.length = 512 := by
  simp [Regs.banksOk, and_assoc]

/-! ### Register writes -/

/-- A write to the high half of the L3 pointer sets bits 47:32 (R41). -/
theorem field_setHalf_high {lo len : Nat} (q : QWord) (w : Word) :
    field (setHalf q true w) (32 + lo) len = field w lo len ∧ (lo + len ≤ 32 → field (setHalf q true w) lo len = field q lo len) := by
  refine ⟨field_append_high w _, fun h => ?_⟩
  rw [setHalf, if_pos rfl, field_append_low _ _ h, field_extractLsb' q h, Nat.zero_add]

/-- A write to its low half sets bits 31:0. -/
theorem field_setHalf_low {lo len : Nat} (q : QWord) (w : Word) (h : lo + len ≤ 32) :
    field (setHalf q false w) (32 + lo) len = field q (32 + lo) len ∧ field (setHalf q false w) lo len = field w lo len := by
  rw [setHalf, if_neg (by decide), field_append_high, field_extractLsb' q h, field_append_low _ _ h]
  exact ⟨rfl, rfl⟩

/-- A plain register write keeps the reserved bits 0 (R41, R44, R45). -/
theorem trttReservedOk_writeReg (r : MmioReg) (w : Word) {g : Regs} (h : g.trttReservedOk = true) :
    (writeReg r w g).trttReservedOk = true := by
  obtain ⟨hhi, hlo, hva, he⟩ := (trttReservedOk_iff g).1 h
  cases r with
  | l3PtrLow =>
    obtain ⟨h1, -⟩ := field_setHalf_low (lo := 16) (len := 16) g.l3Ptr (w &&& 0xFFFF0000) (by decide)
    obtain ⟨-, h2⟩ := field_setHalf_low (lo := 0) (len := 16) g.l3Ptr (w &&& 0xFFFF0000) (by decide)
    exact (trttReservedOk_iff _).2 ⟨h1.trans hhi, h2.trans (field_and_mask w (by decide)), hva, he⟩
  | l3PtrHigh =>
    obtain ⟨h1, -⟩ := field_setHalf_high (lo := 16) (len := 16) g.l3Ptr (w &&& 0x0000FFFF)
    obtain ⟨-, h2⟩ := field_setHalf_high (lo := 0) (len := 16) g.l3Ptr (w &&& 0x0000FFFF)
    exact (trttReservedOk_iff _).2 ⟨h1.trans (field_and_mask w (by decide)), (h2 (by decide)).trans hlo, hva, he⟩
  | trvadr => exact (trttReservedOk_iff _).2 ⟨hhi, hlo, field_and_mask w (by decide), he⟩
  | trtte => exact (trttReservedOk_iff _).2 ⟨hhi, hlo, hva, field_and_mask w (by decide)⟩
  | pat i => rcases i with _ | _ | _ | i <;> exact h
  | _ => exact h

/-- A plain register write leaves the banks alone. -/
theorem banksOk_writeReg (r : MmioReg) (w : Word) (g : Regs) : (writeReg r w g).banksOk = g.banksOk := by
  unfold writeReg
  split <;> rfl

theorem reservedKept_changeRegs {g : Regs} {s : State} (ht : s.regs.trttReservedOk = true → g.trttReservedOk = true)
    (hb : s.regs.banksOk = true → g.banksOk = true) : ReservedKept s (noEffect (changeRegs g s)) :=
  .of_regs (by simp) (by simpa using ht) (by simpa using hb)

/-- A write to an L3 control entry is refused or changes that entry alone (R50, R490). -/
theorem writeLncf_ok {i : Nat} {w : BitVec 16} {s t : State} (h : writeLncf i w s = .ok t) :
    t = { s with regs := { s.regs with lncf := s.regs.lncf.set i w } } := by
  unfold writeLncf at h
  split at h <;> cases h
  rfl

/-- So is one to a memory-interface control entry (R52, R490). -/
theorem writeGamMocs_ok {i : Nat} {w : Word} {s t : State} (h : writeGamMocs i w s = .ok t) :
    t = { s with regs := { s.regs with gamMocs := s.regs.gamMocs.set i w } } := by
  unfold writeGamMocs at h
  split at h <;> cases h
  rfl

theorem reservedKept_writeLncf {i : Nat} {w : BitVec 16} {s t : State} (h : writeLncf i w s = .ok t) : ReservedKept s t := by
  rw [writeLncf_ok h]
  exact .of_regs rfl id (by simp [Regs.banksOk])

theorem reservedKept_writeGamMocs {i : Nat} {w : Word} {s t : State} (h : writeGamMocs i w s = .ok t) : ReservedKept s t := by
  rw [writeGamMocs_ok h]
  exact .of_regs rfl id (by simp [Regs.banksOk])

theorem reservedKept_namedWrite (r : NamedReg) (w : Word) (s : State) : ReservedKept s (namedWrite r w s) := by
  cases r with
  | adNonWb => exact reservedKept_changeRegs id id
  | maxReqCount i => exact .of_regs rfl id (by simp [namedWrite, Regs.banksOk])
  | _ => exact .of_regs rfl id id

theorem reservedKept_setFence (i : Nat) (f : Fence) (s : State) : ReservedKept s (setFence i f s) :=
  .of_regs rfl id (by simp [setFence, Regs.banksOk])

/-! ### Writes of the PCI registers -/

/-- A write to Page Request Control sets PRE, and of the status bit 8, or bits 1:0 and 8 (R73, R74). -/
theorem reservedOk_writePriControl (w : Word) {s : State} (h : s.pci.reservedOk = true) :
    (writePriControl w s).pci.reservedOk = true := by
  obtain ⟨hpasid, hats, -, hhigh, hlow⟩ := (reservedOk_iff _).1 h
  have hcontrol : ∀ b : Bool, field (if b then 1 else 0 : BitVec 16) 1 15 = 0 := by decide
  unfold writePriControl
  dsimp only
  split
  · split
    · exact (reservedOk_iff _).2 ⟨hpasid, hats, hcontrol _, field_and_mask _ (by decide), field_and_mask _ (by decide)⟩
    · exact (reservedOk_iff _).2 ⟨hpasid, hats, hcontrol _, field_zero .., field_zero ..⟩
  · split
    · exact (reservedOk_iff _).2
        ⟨hpasid, hats, hcontrol _, field_or_zero hhigh (by decide), field_or_zero hlow (by decide)⟩
    · exact h

/-- It changes the PCI registers alone. -/
theorem writePriControl_regs (w : Word) (s : State) : (writePriControl w s).regs = s.regs := by
  unfold writePriControl
  dsimp only
  split
  · split <;> rfl
  · split <;> rfl

/-- A write to a capability register keeps its reserved bits 0 (R66-R75). -/
theorem reservedKept_pciWrite {r : PciReg} {w : Word} {s t : State} (h : pciWrite r w s = .ok t) : ReservedKept s t := by
  cases r with
  | pasidControl =>
    unfold pciWrite at h
    dsimp only at h
    split at h <;> cases h
    refine .of_pci rfl fun hs => ?_
    obtain ⟨-, hats, hpri, hhigh, hlow⟩ := (reservedOk_iff _).1 hs
    exact (reservedOk_iff _).2 ⟨field_and_mask _ (by decide), hats, hpri, hhigh, hlow⟩
  | atsControl =>
    cases h
    refine .of_pci rfl fun hs => ?_
    obtain ⟨hpasid, -, hpri, hhigh, hlow⟩ := (reservedOk_iff _).1 hs
    exact (reservedOk_iff _).2 ⟨hpasid, field_and_mask _ (by decide), hpri, hhigh, hlow⟩
  | priControl => cases h; exact .of_pci (writePriControl_regs w s) (reservedOk_writePriControl w)
  | priStatus =>
    cases h
    refine .of_pci rfl fun hs => ?_
    obtain ⟨hpasid, hats, hpri, hhigh, hlow⟩ := (reservedOk_iff _).1 hs
    exact (reservedOk_iff _).2 ⟨hpasid, hats, hpri, field_and_zero _ hhigh, field_and_zero _ hlow⟩
  | _ => cases h; exact .of_pci rfl id

theorem reservedKept_configWrite {off : BitVec 12} {n : Nat} {w : Word} {s t : State} (h : configWrite off n w s = .ok t) :
    ReservedKept s t := by
  unfold configWrite at h
  split at h
  · exact reservedKept_pciWrite h
  · obtain ⟨u, hu, h⟩ := bind_ok.1 h
    exact (reservedKept_pciWrite hu).trans (reservedKept_pciWrite h)
  · cases h

/-! ### Contexts: what is restored keeps the reserved bits (R40, R52) -/

/-- The value of a DWord of an image has no bit outside its mask, unless the image does not hold it. -/
theorem field_imageOr {s : State} {e : Engine} {lrca : BitVec 20} {k lo len : Nat} {mask old : Word} (hm : field mask lo len = 0)
    (ho : field old lo len = 0) : field (imageOr s e lrca k mask old) lo len = 0 := by
  unfold imageOr
  split
  · exact field_and_mask _ hm
  · exact ho

theorem trttReservedOk_restoreTrtt (s : State) (e : Engine) (lrca : BitVec 20) {g : Regs} (h : g.trttReservedOk = true) :
    (restoreTrtt s e lrca g).trttReservedOk = true := by
  obtain ⟨hhi, hlo, hva, he⟩ := (trttReservedOk_iff g).1 h
  unfold restoreTrtt
  split
  · refine (trttReservedOk_iff _).2 ⟨?_, ?_, field_imageOr (by decide) hva, field_imageOr (by decide) he⟩
    · rw [show 48 = 32 + 16 from rfl, field_append_high]
      exact field_imageOr (by decide) ((field_extractLsb' g.l3Ptr (by decide)).trans hhi)
    · rw [field_append_low _ _ (by decide)]
      exact field_imageOr (by decide) ((field_extractLsb' g.l3Ptr (by decide)).trans hlo)
  · exact h

/-- A restore changes the TR-TT registers alone beside GAM_MOCS (R40). -/
theorem restoreTrtt_banks (s : State) (e : Engine) (lrca : BitVec 20) (g : Regs) :
    (restoreTrtt s e lrca g).maxReqCounts = g.maxReqCounts ∧ (restoreTrtt s e lrca g).fences = g.fences ∧
      (restoreTrtt s e lrca g).lncf = g.lncf := by
  unfold restoreTrtt
  split <;> exact ⟨rfl, rfl, rfl⟩

theorem reservedKept_restoreContext (s : State) (e : Engine) (lrca : BitVec 20) : ReservedKept s (restoreContext s e lrca) := by
  refine .of_regs rfl ?_ ?_
  · rw [restoreContext_regs]
    exact trttReservedOk_restoreTrtt s e lrca
  · obtain ⟨hcounts, hfences, hlncf⟩ := restoreTrtt_banks s e lrca s.regs
    rw [restoreContext_regs, banksOk_iff, banksOk_iff]
    simp [hcounts, hfences, hlncf]

/-! ### Contexts: the handshake, the switch-out and the page response change no reserved bit -/

theorem reservedKept_setEngine (s : State) (e : Engine) (x : EngineSt) : ReservedKept s (setEngine s e x) :=
  .of_same rfl rfl

theorem reservedKept_updEngine (s : State) (e : Engine) (f : EngineSt → EngineSt) : ReservedKept s (updEngine s e f) :=
  reservedKept_setEngine s e _

/-- Closing a context changes no register. -/
theorem reservedKept_closeContext (s : State) (e : Engine) : ReservedKept s (closeContext s e) := by
  rw [closeContext_eq]
  exact .of_same rfl rfl

theorem reservedKept_broadcastInvalidation (s : State) : ReservedKept s (broadcastInvalidation s) := by
  rw [broadcastInvalidation_eq]
  exact .of_same rfl rfl

theorem reservedKept_contextAvailable (s : State) (e : Engine) : ReservedKept s (contextAvailable s e) := by
  unfold contextAvailable
  split
  · exact .of_same rfl rfl
  · split
    · exact .of_same rfl rfl
    · rw [broadcastInvalidation_eq]
      exact (reservedKept_closeContext s e).then_same (by simp) (by simp)

theorem reservedKept_fillCaches (s : State) (e : Engine) : ReservedKept s (fillCaches s e) := by
  unfold fillCaches
  dsimp only
  split
  · split
    · split <;> exact .of_same rfl rfl
    · exact .of_same rfl rfl
  · exact .of_same rfl rfl

theorem reservedKept_contextLaunched (s : State) (e : Engine) : ReservedKept s (contextLaunched s e) := by
  have hflag : ∀ (u : State) (b : Bool), ReservedKept u (if b then u else raiseEvent u e .descriptorError) := by
    intro u b
    cases b <;> exact .of_same rfl rfl
  unfold contextLaunched
  dsimp only
  split
  · exact (reservedKept_setEngine s e _).trans ((hflag _ _).trans ((reservedKept_fillCaches _ e).trans
      ((reservedKept_restoreContext _ e _).trans (.of_kept (kept_inputs _ _)))))
  · exact .of_same rfl rfl

theorem reservedKept_gamMessage (e : Engine) (w : Word) (s : State) : ReservedKept s (gamMessage e w s) := by
  have havailable : ReservedKept s (if messageBit w 0 then contextAvailable s e else s) := by
    split
    · exact reservedKept_contextAvailable s e
    · exact .of_same rfl rfl
  unfold gamMessage
  dsimp only
  split
  · exact havailable.trans (reservedKept_contextLaunched _ e)
  · exact havailable

/-- The messages to a command streamer change no register outside its engine. -/
theorem reservedKept_csMessage (e : Engine) (w : Word) (s : State) : ReservedKept s (csMessage e w s) := by
  have hconfirmed : ∀ u, ReservedKept u (contextConfirmed u e) := by
    intro u
    unfold contextConfirmed
    dsimp only
    split
    · exact .of_same (by simp) (by simp)
    · exact reservedKept_setEngine u e _
  have hready : ReservedKept s (if messageBit w 0 then contextReceiveReady s e else s) := by
    split <;> exact .of_same rfl rfl
  unfold csMessage
  dsimp only
  split
  · exact hready.trans (hconfirmed _)
  · exact hready

theorem reservedKept_notifyOut (s : State) (e : Engine) (c : Word) : ReservedKept s (notifyOut s e c) := by
  unfold notifyOut
  split <;> exact .of_same rfl rfl

theorem reservedKept_switchOut (s : State) (e : Engine) : ReservedKept s (switchOut s e) := by
  unfold switchOut
  dsimp only
  split
  · exact .of_same rfl rfl
  · split
    · exact .of_same rfl rfl
    · split
      · exact reservedKept_closeContext s e
      · exact (reservedKept_closeContext s e).trans (reservedKept_notifyOut _ e _)

theorem reservedKept_queueLast (s : State) (f : PageFault) : ReservedKept s (queueLast s f) := by
  unfold queueLast
  split <;> exact .of_same rfl rfl

theorem reservedKept_terminate (s : State) (c : Word) : ReservedKept s (terminate s c) := by
  unfold terminate
  split
  · dsimp only
    split
    · exact (reservedKept_updEngine s _ _).trans ((reservedKept_queueLast _ _).trans (reservedKept_updEngine _ _ _))
    · exact (reservedKept_updEngine s _ _).trans (reservedKept_switchOut _ _)
  · split <;> exact .of_same rfl rfl

/-- A page response sets bit 0 or bit 1 of Page Request Status, no reserved one (R74). -/
theorem reservedKept_orStatus {s t : State} {m : BitVec 16} (hr : t.regs = s.regs)
    (hp : t.pci = { s.pci with priStatus := s.pci.priStatus ||| m }) (hhigh : field m 9 7 = 0) (hlow : field m 2 6 = 0) :
    ReservedKept s t := by
  refine .of_pci hr fun h => ?_
  obtain ⟨hpasid, hats, hpri, h9, h2⟩ := (reservedOk_iff _).1 h
  rw [hp]
  exact (reservedOk_iff _).2 ⟨hpasid, hats, hpri, field_or_zero h9 hhigh, field_or_zero h2 hlow⟩

theorem reservedKept_setRf (s : State) : ReservedKept s (setRf s) :=
  reservedKept_orStatus (m := 1) rfl rfl (by decide) (by decide)

theorem reservedKept_setUprgi (s : State) : ReservedKept s (setUprgi s) :=
  reservedKept_orStatus (m := 2) rfl rfl (by decide) (by decide)

theorem reservedKept_failRequest (s : State) (prg : Nat) (c : ResponseCode) : ReservedKept s (failRequest s prg c) := by
  unfold failRequest
  split
  · split
    · exact (reservedKept_setRf s).trans (.foldl (fun u e => reservedKept_updEngine u e _) _ _)
    · exact reservedKept_setRf s
  · exact .of_same rfl rfl

theorem reservedKept_dropAnswered (s : State) (prg : Nat) : ReservedKept s (dropAnswered s prg) :=
  .foldl (fun u e => reservedKept_updEngine u e _) _ s

theorem reservedKept_dropScopeEverywhere (s : State) (m : ScopeMark) : ReservedKept s (dropScopeEverywhere s m) :=
  .foldl (fun u e => reservedKept_updEngine u e _) _ s

theorem reservedKept_failWaiting (s : State) (e : Engine) (w : Waiting) (c : ResponseCode) :
    ReservedKept s (failWaiting s e w c) :=
  (reservedKept_updEngine s e _).trans (.of_kept (kept_invalidAccess _ w.req _))

theorem reservedKept_failStream (s : State) (e : Engine) (w : Waiting) (c : ResponseCode) :
    ReservedKept s (failStream s e w c) := by
  unfold failStream
  split
  · exact reservedKept_failWaiting s e w c
  · exact reservedKept_updEngine s e _

theorem reservedKept_resumeStalled (s : State) (e : Engine) (l : List Request) : ReservedKept s (resumeStalled s e l) :=
  .of_same rfl rfl

/-- A response takes its page request out of the queue, and a Response Failure is recorded (R74). -/
theorem reservedKept_detachedResponse (s : State) (prg : Nat) (c : ResponseCode) :
    ReservedKept s (detachedResponse s prg c) :=
  .then_same (t := dropAnswered (failRequest s prg c) prg)
    ((reservedKept_failRequest s prg c).trans (reservedKept_dropAnswered _ prg))
    (by simp only [detachedResponse, dropPageRequest_regs]) (by simp only [detachedResponse, dropPageRequest_pci])

theorem reservedKept_endWaits (s : State) (e : Engine) (prg : Nat) (c : ResponseCode) : ReservedKept s (endWaits s e prg c) := by
  unfold endWaits
  dsimp only
  refine ((reservedKept_updEngine s e (clearWaits prg (decide (c = .success)))).trans (reservedKept_detachedResponse _ prg c)).trans ?_
  split
  · exact (ReservedKept.foldl (fun u w => reservedKept_dropScopeEverywhere u _) _ _).trans (reservedKept_resumeStalled _ e _)
  · exact (ReservedKept.foldl (fun u w => reservedKept_failStream u e w _) _ _).trans
      ((ReservedKept.foldl (fun u w => reservedKept_failWaiting u e w _) _ _).trans (reservedKept_resumeStalled _ e _))

theorem reservedKept_lastResponse (s : State) (e : Engine) (c : Word) : ReservedKept s (lastResponse s e c) := by
  unfold lastResponse
  split
  · exact .of_same rfl rfl
  · exact reservedKept_setUprgi s

theorem reservedKept_pageResponse (s : State) (prg : Nat) (c : ResponseCode) : ReservedKept s (pageResponse s prg c) := by
  unfold pageResponse
  split
  · exact reservedKept_endWaits s _ prg c
  · split
    · exact reservedKept_detachedResponse s prg c
    · split
      · exact ((reservedKept_failRequest s prg c).trans (reservedKept_dropAnswered _ prg)).trans
          (reservedKept_lastResponse _ _ _)
      · exact reservedKept_setUprgi s

/-! ### Invalidations and resets -/

theorem reservedKept_invalidateScope (s : State) (p : BitVec 20) (g : Option (BitVec 36)) (c : CacheStage) :
    ReservedKept s (invalidateScope s p g c) :=
  (reservedKept_dropScopeEverywhere s _).trans (reservedKept_broadcastInvalidation _)

theorem reservedKept_dropAllRetained (s : State) : ReservedKept s (dropAllRetained s) :=
  .foldl (f := dropRetained) (fun u e => reservedKept_updEngine u e _) allEngines s

theorem reservedKept_refillPasidCaches (l : List Engine) (s : State) : ReservedKept s (l.foldl refillPasidCache s) :=
  .foldl (fun u e => reservedKept_updEngine u e _) l s

/-- The Context Cache is no register. -/
theorem reservedKept_contextCache (s : State) (l : List IommuCtx) : ReservedKept s { s with contextCache := l } :=
  .of_same rfl rfl

theorem reservedKept_invalidateAll (s : State) : ReservedKept s (invalidateAll s) :=
  (reservedKept_contextCache s []).trans ((reservedKept_dropAllRetained _).trans
    ((reservedKept_refillPasidCaches allEngines _).trans (reservedKept_broadcastInvalidation _)))

theorem reservedKept_invalidatePasid (s : State) (p : BitVec 20) : ReservedKept s (invalidatePasid s p) :=
  (reservedKept_contextCache s _).trans ((reservedKept_invalidateScope _ p none .all).trans
    (reservedKept_refillPasidCaches _ _))

theorem reservedKept_engineReset (s : State) (e : Engine) : ReservedKept s (engineReset s e) := by
  have hcount : ∀ (u : State) (b : Bool) (p : BitVec 20), ReservedKept u (if b then countPasid u p (-1) else u) := by
    intro u b p
    cases b <;> exact .of_same rfl rfl
  exact (ReservedKept.of_kept (kept_settle (inFlight s e) s)).trans ((hcount _ _ _).trans (.of_same rfl rfl))

/-- The registers after a device reset: the TR-TT registers 0, the banks of their sizes (R85). -/
theorem resetRegs_ok (s : State) : (resetRegs s).trttReservedOk = true ∧ (resetRegs s).banksOk = true := by
  refine ⟨(trttReservedOk_iff _).2 ⟨field_zero .., field_zero .., field_zero .., field_zero ..⟩,
    (banksOk_iff _).2 ⟨?_, ?_, rfl, ?_⟩⟩ <;>
    simp [resetRegs]

theorem resetPci_ok (p : PciCaps) : (resetPci p).reservedOk = true :=
  (reservedOk_iff _).2 ⟨field_zero .., field_zero .., field_zero .., field_zero .., field_zero ..⟩

/-- A device reset puts both sets of registers at their reset values (R872, R873). -/
theorem flr_registers (s : State) : ∃ u, (flr s).regs = resetRegs u ∧ (flr s).pci = resetPci u.pci := by
  simp only [flr, advanceDraws_regs, advanceDraws_pci]
  exact ⟨_, rfl, rfl⟩

theorem reservedKept_flr (s : State) : ReservedKept s (flr s) := by
  obtain ⟨u, hregs, hpci⟩ := flr_registers s
  exact ⟨fun _ => hregs ▸ (resetRegs_ok u).1, fun _ => hpci ▸ resetPci_ok u.pci, fun _ => hregs ▸ (resetRegs_ok u).2⟩

/-- A bus reset resets the registers as a device reset does (R870). -/
theorem reservedKept_busReset (s : State) : ReservedKept s (busReset s) := by
  refine (reservedKept_flr s).then_same ?_ ?_ <;> simp only [busReset, advanceDraws_regs, advanceDraws_pci]

theorem reservedKept_requestFlr (s : State) : ReservedKept s (requestFlr s) := by
  by_cases hheld : ∃ e, (engineOf s e).mmioRequests ≠ []
  · obtain ⟨-, heq⟩ := requestFlr_held hheld
    exact .of_same (by rw [heq]) (by rw [heq])
  · rw [requestFlr_free (by simpa using hheld)]
    exact reservedKept_flr s

theorem reservedKept_requestReset (s : State) (e : Engine) : ReservedKept s (requestReset s e) := by
  unfold requestReset
  split
  · exact reservedKept_engineReset s e
  · exact reservedKept_updEngine s e _

theorem reservedKept_holdPageRequest (s : State) (prg : Nat) : ReservedKept s (holdPageRequest s prg) := by
  unfold holdPageRequest
  split <;> exact .of_same rfl rfl

/-- A reset that waited is presented again as an input. -/
theorem reservedKept_completeResets (s : State) : ReservedKept s (completeResets s) := by
  unfold completeResets
  split
  · split <;> exact .of_same rfl rfl
  · refine .foldl (fun u e => ?_) _ s
    unfold completeReset
    split <;> exact .of_same rfl rfl

theorem reservedKept_servicePageRequest (s : State) (prg : Nat) : ReservedKept s (servicePageRequest s prg) :=
  (ReservedKept.foldl (fun u e => reservedKept_updEngine u e _) allEngines s).trans (reservedKept_completeResets _)

/-! ### Every step -/

theorem reservedKept_mmioWrite {ag : Agent} {off : Nat} {w : Word} {s t : State} (h : mmioWrite ag off w s = .ok t) :
    ReservedKept s t := by
  unfold mmioWrite at h
  split at h
  · cases h
  · generalize mmioReg s.params off = r at h
    cases r with
    | undefined => cases h
    | mchbar | nullRange | toCs e => cases h; exact .of_same rfl rfl
    | desc e i b =>
      cases h
      unfold writeDescHalf
      split <;> exact .of_same rfl rfl
    | toGam e =>
      cases h
      split
      · exact (reservedKept_gamMessage e w s).then_same rfl rfl
      · exact .of_same rfl rfl
    | lncf i =>
      obtain ⟨u, hu, h⟩ := bind_ok.1 h
      obtain ⟨v, hv, h⟩ := bind_ok.1 h
      cases h
      exact ((reservedKept_writeLncf hu).trans (reservedKept_writeLncf hv)).then_same rfl rfl
    | gamMocs i =>
      obtain ⟨u, hu, h⟩ := bind_ok.1 h
      cases h
      exact (reservedKept_writeGamMocs hu).then_same rfl rfl
    | _ =>
      cases h
      exact reservedKept_changeRegs (trttReservedOk_writeReg _ w) fun hb => (banksOk_writeReg _ w s.regs).trans hb

/-- An access of the host or a peer that keeps what `Kept` says or is a register write. -/
theorem reservedKept_of_access {s t : State} (h : Kept s t ∨ ∃ off v, mmioWrite .host off v s = .ok t) : ReservedKept s t :=
  h.elim .of_kept fun ⟨_, _, hw⟩ => reservedKept_mmioWrite hw

/-- The HDC port is no register. -/
theorem reservedKept_hdc (s : State) (p : HdcPort) : ReservedKept s { s with hdc := p } := .of_same rfl rfl

theorem reservedKept_hdcPageRequest {a : HdcRequest} {s t : State} (h : hdcPageRequest a s = .ok t) : ReservedKept s t := by
  unfold hdcPageRequest at h
  split at h
  · cases h; exact .of_same rfl rfl
  · split at h
    · cases h; exact .of_same rfl rfl
    · exact (reservedKept_hdc s _).trans (.of_kept (kept_serveLoaded h))

/-- An acknowledgement of an HDC is counted; the last one ends the invalidation (R375). -/
theorem reservedKept_tlbInvResponse (a : HdcAck) (s : State) : ReservedKept s (tlbInvResponse a s) := by
  unfold tlbInvResponse
  split
  · exact .of_same rfl rfl
  · dsimp only
    generalize (if s.hdc.acks.contains a.src = true then s.hdc.acks else s.hdc.acks ++ [a.src]) = acks
    split <;> exact .of_same rfl rfl

theorem reservedKept_instr {s t : State} (h : InstrEffect s t) : ReservedKept s t := by
  cases h with
  | kept h => exact .of_kept h
  | toGam e w => exact reservedKept_gamMessage e w s
  | toCs e w => exact reservedKept_csMessage e w s
  | descriptors d a => unfold writeDescriptors; split <;> exact .of_same rfl rfl
  | hdcRequest a h => exact reservedKept_hdcPageRequest h
  | hdcAck a => exact reservedKept_tlbInvResponse a s
  | hdcResponse a => unfold gamPageResponse; split <;> exact .of_same rfl rfl
  | hdcStart | hdcEnd => exact .of_same rfl rfl
  | lncf i w h => exact reservedKept_writeLncf h
  | gamMocs i w h => exact reservedKept_writeGamMocs h

theorem reservedKept_runOp {o : Op} {s t : State} (h : runOp o s = .ok t) : ReservedKept s t := by
  cases o with
  | hostAccess w addr n d => exact reservedKept_of_access (hostAccess_cases h)
  | peerAccess w addr n d =>
    have hpeer : (if n = 0 ∨ 8 < n then refuse .undecodable else peerAccess w addr n d s) = .ok t := h
    split at hpeer
    · cases hpeer
    · exact reservedKept_of_access (peerAccess_cases hpeer)
  | mmioWrite off d | csMmioWrite e off d => exact reservedKept_mmioWrite h
  | namedWrite r d => cases h; exact reservedKept_namedWrite r d s
  | setFence i f => cases h; exact reservedKept_setFence i f s
  | pciWrite r d => exact reservedKept_pciWrite h
  | configWrite off n d => exact reservedKept_configWrite h
  | setIommu _ | setMemRanges _ | setPalette _ _ => cases h; exact .of_same rfl rfl
  | setMchbarAlias _ | enablePowerGating => cases h; exact .of_regs rfl id id
  | pageResponse prg c => cases h; exact reservedKept_pageResponse s prg c
  | lastResponse e c => cases h; exact reservedKept_lastResponse s e c
  | switchOut e => cases h; exact reservedKept_switchOut s e
  | terminate c => cases h; exact reservedKept_terminate s c
  | invalidateEngine e => cases h; exact (reservedKept_updEngine s e _).trans (reservedKept_broadcastInvalidation _)
  | invalidateAll => cases h; exact reservedKept_invalidateAll s
  | invalidatePasid p => cases h; exact reservedKept_invalidatePasid s p
  | invalidateScope p g c => cases h; exact reservedKept_invalidateScope s p g c
  | holdPageRequest prg => cases h; exact reservedKept_holdPageRequest s prg
  | servicePageRequest prg => cases h; exact reservedKept_servicePageRequest s prg
  | engineReset e => cases h; exact reservedKept_requestReset s e
  | flr => cases h; exact reservedKept_requestFlr s
  | busReset => cases h; exact reservedKept_busReset s
  | _ => exact .of_kept (kept_runOp rfl h)

/-- A step keeps the reserved bits 0 and the banks at their sizes. -/
theorem reservedKept_step {s t : State} (h : step s = .next t) : ReservedKept s t := by
  rcases step_cases h with hk | ⟨u, hu, hi | ⟨o, ho⟩⟩
  · exact .of_kept hk
  · exact (ReservedKept.of_kept hu).trans (reservedKept_instr hi)
  · exact (ReservedKept.of_kept hu).trans (reservedKept_runOp ho)

/-- Settles O6: what a step can do, operation by operation, keeps the three invariants. -/
theorem stepKeepsReservedBits : Obligations.StepKeepsReservedBits := by
  unfold Obligations.StepKeepsReservedBits
  intro s t h
  obtain ⟨htrtt, hpci, hbanks⟩ := reservedKept_step h
  exact ⟨htrtt, hpci, hbanks⟩

end Sys2Proof.Machine

/-! ## The page response that no request waits for (O30; R837, R841) -/

namespace Sys2Proof.Machine

open Sys2Proof

/-- Where no request waits for a group index, no engine is found that awaits it. -/
theorem find_awaits_none {s : State} {prg : Nat}
    (h : ∀ e, (∀ w, (engineOf s e).miss = some w → w.prg ≠ prg) ∧ ∀ w ∈ (engineOf s e).outstanding, w.prg ≠ prg) :
    allEngines.find? (awaits s prg) = none := by
  rw [List.find?_eq_none]
  intro e _ hm
  obtain ⟨hmiss, hout⟩ := h e
  rcases (awaits_iff _ _ _).1 hm with ⟨w, hw, hp⟩ | ⟨w, hw, hp⟩
  · exact hmiss w hw hp
  · exact hout w hw hp

/-- A response to an abandoned page request is the response of R837. -/
theorem pageResponse_detached {s : State} {prg : Nat} (code : ResponseCode)
    (h : ∀ e, (∀ w, (engineOf s e).miss = some w → w.prg ≠ prg) ∧ ∀ w ∈ (engineOf s e).outstanding, w.prg ≠ prg)
    (hd : prg ∈ s.detached) : pageResponse s prg code = detachedResponse s prg code := by
  have hc : s.detached.contains prg = true := by simpa using hd
  simp only [pageResponse, find_awaits_none h, hc, if_true]

/-- Changing engines one after the other changes the engines alone. -/
theorem foldl_updEngine_eq (f : EngineSt → EngineSt) (l : List Engine) (s : State) :
    l.foldl (fun u e => updEngine u e f) s = { s with engines := (l.foldl (fun u e => updEngine u e f) s).engines } := by
  induction l generalizing s with
  | nil => rfl
  | cons e l ih =>
    rw [List.foldl_cons, ih]
    rfl

/-- A change that leaves the faulted entries of an engine alone leaves those of every engine alone. -/
theorem faulted_foldl_updEngine {f : EngineSt → EngineSt} (hf : ∀ x, (f x).faulted = x.faulted) (l : List Engine) (s : State)
    (e : Engine) : (engineOf (l.foldl (fun u e => updEngine u e f) s) e).faulted = (engineOf s e).faulted := by
  induction l generalizing s with
  | nil => rfl
  | cons e' l ih =>
    rw [List.foldl_cons, ih, engineOf_updEngine]
    split
    · rename_i he
      rw [he, hf]
    · rfl

/-- Terminating the contexts of a PASID sets RF and changes engines, but none of their faulted entries (R841). -/
theorem failPasid_eq (s : State) (p : BitVec 20) :
    failPasid s p = { setRf s with engines := (failPasid s p).engines } ∧
      ∀ e, (engineOf (failPasid s p) e).faulted = (engineOf s e).faulted := by
  unfold failPasid
  refine ⟨foldl_updEngine_eq _ _ _, fun e => ?_⟩
  rw [faulted_foldl_updEngine, engineOf_setRf]
  exact fun _ => rfl

/-- A response that is no Response Failure does nothing besides. -/
theorem failRequest_other {code : ResponseCode} (s : State) (prg : Nat) (h : code ≠ .responseFailure) :
    failRequest s prg code = s := if_neg h

/-- A Response Failure sets RF and changes engines, but none of their faulted entries (R74, R841). -/
theorem failRequest_failure (s : State) (prg : Nat) :
    failRequest s prg .responseFailure = { setRf s with engines := (failRequest s prg .responseFailure).engines } ∧
      ∀ e, (engineOf (failRequest s prg .responseFailure) e).faulted = (engineOf s e).faulted := by
  unfold failRequest
  rw [if_pos rfl]
  cases pasidOfRequest s prg with
  | none => exact ⟨rfl, fun e => by rw [engineOf_setRf]⟩
  | some p =>
    exact failPasid_eq s p

/-- Whatever its code, a response changes of the machine the engines and the PCI registers alone before its page request leaves the
queue. -/
theorem failRequest_eq (s : State) (prg : Nat) (code : ResponseCode) :
    failRequest s prg code = { s with engines := (failRequest s prg code).engines, pci := (failRequest s prg code).pci } ∧
      ∀ e, (engineOf (failRequest s prg code) e).faulted = (engineOf s e).faulted := by
  by_cases h : code = .responseFailure
  · subst h
    obtain ⟨heq, hfaulted⟩ := failRequest_failure s prg
    refine ⟨?_, hfaulted⟩
    rw [heq]
    rfl
  · rw [failRequest_other s prg h]
    exact ⟨rfl, fun _ => rfl⟩

/-- The faulted entries that a response drops are all that it changes of the engines, and of the machine (R370). -/
theorem dropAnswered_eq (s : State) (prg : Nat) : dropAnswered s prg = { s with engines := (dropAnswered s prg).engines } :=
  foldl_updEngine_eq (fun x => { x with faulted := x.faulted.filter fun p => !p.answered prg (pagesOf s prg) }) allEngines s

/-- The response of R837 ends with its index, its page request and their faulted entries gone. -/
theorem detachedResponse_eq (s : State) (prg : Nat) (code : ResponseCode) :
    detachedResponse s prg code = { failRequest s prg code with
      engines := (dropAnswered (failRequest s prg code) prg).engines
      pageRequests := (failRequest s prg code).pageRequests.filter fun q => q.prg != prg
      detached := (failRequest s prg code).detached.filter (· != prg) } := by
  unfold detachedResponse
  generalize failRequest s prg code = u
  have hdrop := dropAnswered_eq u prg
  generalize dropAnswered u prg = v at hdrop ⊢
  rw [hdrop]
  rfl

/-- The response of R837: what it leaves of each engine, of the queue and of the abandoned indices. -/
theorem detachedResponse_spec (s : State) (prg : Nat) (code : ResponseCode) :
    (detachedResponse s prg code).mem = s.mem ∧
    (detachedResponse s prg code).pci = (failRequest s prg code).pci ∧
    (detachedResponse s prg code).detached = s.detached.filter (· != prg) ∧
    (detachedResponse s prg code).pageRequests = (s.pageRequests.filter fun q => q.prg != prg) ∧
    ∀ e, engineOf (detachedResponse s prg code) e = { engineOf (failRequest s prg code) e with
      faulted := (engineOf s e).faulted.filter fun p => !p.answered prg (pagesOf s prg) } := by
  obtain ⟨heq, hfaulted⟩ := failRequest_eq s prg code
  rw [detachedResponse_eq]
  generalize failRequest s prg code = u at heq hfaulted
  have hmem : u.mem = s.mem := (congrArg State.mem heq :)
  have hdetached : u.detached = s.detached := (congrArg State.detached heq :)
  have hqueue : u.pageRequests = s.pageRequests := (congrArg State.pageRequests heq :)
  have hpages : pagesOf u prg = pagesOf s prg := by rw [pagesOf, pagesOf, hqueue]
  refine ⟨hmem, rfl, by rw [hdetached], by rw [hqueue], fun e => ?_⟩
  have hdrop := engineOf_dropAnswered u prg e
  rw [hfaulted, hpages] at hdrop
  generalize dropAnswered u prg = v at hdrop ⊢
  exact (engineOf_congr rfl e).trans hdrop

/-- The page of a page request under an index is among the pages of that index. -/
theorem answered_of_page {s : State} {prg : Nat} {q : PageRequest} {p : FaultedPage} (hq : q ∈ s.pageRequests) (hprg : q.prg = prg)
    (hpasid : p.pasid = q.fault.pasid) (hpage : p.vaPage = q.fault.vaPage) : p.answered prg (pagesOf s prg) = true := by
  have hmem : (p.pasid, p.vaPage) ∈ pagesOf s prg := by
    rw [hpasid, hpage, pagesOf]
    exact List.mem_map.2 ⟨q, List.mem_filter.2 ⟨hq, by simp [hprg]⟩, rfl⟩
  simp [FaultedPage.answered, hmem]

/-- Settles O30: a response that matches nothing sets UPRGI; one to an abandoned page request drops its faulted entries, and sets RF if it
is a Response Failure. -/
theorem unexpectedResponseIsIgnored : Obligations.UnexpectedResponseIsIgnored := by
  unfold Obligations.UnexpectedResponseIsIgnored
  intro s prg code rest hin hwaits
  have hstep : step s = .next (pageResponse { s with inputs := rest } prg code) := step_of_inputs_cons hin
  have hengine : ∀ e, engineOf { s with inputs := rest } e = engineOf s e := fun e => engineOf_congr rfl e
  have hwaits' : ∀ e, (∀ w, (engineOf { s with inputs := rest } e).miss = some w → w.prg ≠ prg) ∧
      ∀ w ∈ (engineOf { s with inputs := rest } e).outstanding, w.prg ≠ prg := fun e => by rw [hengine]; exact hwaits e
  refine ⟨fun hdetached hlast => ?_, fun q hq hdetached hprg => ?_⟩
  · rw [hstep, pageResponse_unexpected code hwaits' hdetached hlast]
    rfl
  · obtain ⟨hmem, hpci, hdet, hqueue, hengines⟩ := detachedResponse_spec { s with inputs := rest } prg code
    refine ⟨_, by rw [hstep, pageResponse_detached code hwaits' hdetached], fun a => by rw [hmem], ?_, ?_, ?_, ?_, ?_⟩
    · simp [hdet]
    · simp [hqueue]
    · intro e p hp hpasid hpage
      have hanswered := answered_of_page (s := { s with inputs := rest }) hq hprg hpasid hpage
      rw [hengines] at hp
      simp [hanswered] at hp
    · rintro rfl
      rw [hpci, (failRequest_failure { s with inputs := rest } prg).1]
      rw [setRf, bit, BitVec.getLsbD_or]
      simp
    · intro hcode
      rw [failRequest_other _ prg hcode] at hpci hengines
      exact ⟨hpci, fun e => by rw [hengines, hengine]⟩

end Sys2Proof.Machine

/-! ## Register writes one by one, and the reset state (O10, O12, O24, O59, O60) -/

namespace Sys2Proof.Machine

open Sys2Proof

/-! ### The control tables (R50, R52, R490) -/

/-- An entry that no request in flight uses, or that keeps its value, is written. -/
theorem writeLncf_of_free {s : State} {i : Nat} {w : BitVec 16} (h : lncfInUse s i = false ∨ s.regs.lncf.getD i 0 = w) :
    writeLncf i w s = .ok { s with regs := { s.regs with lncf := s.regs.lncf.set i w } } := by
  refine if_neg ?_
  rintro ⟨hchange, huse⟩
  rcases h with hfree | hsame
  · simp [hfree] at huse
  · exact hchange hsame

/-- A change of an entry that a request in flight uses is refused. -/
theorem writeLncf_of_used {s : State} {i : Nat} {w : BitVec 16} (huse : lncfInUse s i = true) (hchange : s.regs.lncf.getD i 0 ≠ w) :
    writeLncf i w s = refuse .mocsChangedInFlight :=
  if_pos ⟨hchange, huse⟩

/-- The same of a memory-interface control entry. -/
theorem writeGamMocs_of_free {s : State} {i : Nat} {w : Word} (h : gamMocsInUse s i = false ∨ s.regs.gamMocs.getD i 0 = w) :
    writeGamMocs i w s = .ok { s with regs := { s.regs with gamMocs := s.regs.gamMocs.set i w } } := by
  refine if_neg ?_
  rintro ⟨hchange, huse⟩
  rcases h with hfree | hsame
  · simp [hfree] at huse
  · exact hchange hsame

theorem writeGamMocs_of_used {s : State} {i : Nat} {w : Word} (huse : gamMocsInUse s i = true)
    (hchange : s.regs.gamMocs.getD i 0 ≠ w) : writeGamMocs i w s = refuse .mocsChangedInFlight :=
  if_pos ⟨hchange, huse⟩

/-- The two objects of the control tables are these writes. -/
theorem exec_lncfcmocsEntry (w : BitVec 16) (a : MocsIndex) (s : State) :
    exec (.lncfcmocsEntry w a) s = toOutcome (writeLncf a.index.toNat w s) := rfl

theorem exec_gamMocsEntry (w : Word) (b : MocsSlot) (s : State) :
    exec (.gamMocsEntry w b) s = toOutcome (writeGamMocs (64 * b.block.toNat + b.index.toNat) w s) := rfl

/-- Settles O59: each table by the two cases of its write. -/
theorem controlTableEntries : Obligations.ControlTableEntries := by
  unfold Obligations.ControlTableEntries
  intro s w16 w a b
  dsimp only
  rw [exec_lncfcmocsEntry, exec_gamMocsEntry]
  refine ⟨fun h => ?_, fun h => ?_, fun huse hchange => ?_, fun huse hchange => ?_⟩
  · rw [writeLncf_of_free h, toOutcome_ok]
  · rw [writeGamMocs_of_free h, toOutcome_ok]
  · rw [writeLncf_of_used huse hchange, toOutcome_refuse]
  · rw [writeGamMocs_of_used huse hchange, toOutcome_refuse]

/-! ### Page Request Control (R73, R74) -/

/-- PRE falls: the register is 0 and Stopped is set. -/
theorem writePriControl_stop {s : State} {w : Word} (hpre : bit s.pci.priControl 0 = true) (hnew : bit w 0 = false) :
    (writePriControl w s).pci = { s.pci with priControl := 0, priStatus := s.pci.priStatus ||| 0x0100 } := by
  simp [writePriControl, hpre, hnew]

/-- PRE rises, with nothing outstanding from before a stop: the register is 1 and the status 0. -/
theorem writePriControl_start {s : State} {w : Word} (hpre : bit s.pci.priControl 0 = false) (hnew : bit w 0 = true)
    (hfresh : bit s.pci.priStatus 8 = false ∨ s.pageRequests = []) :
    (writePriControl w s).pci = { s.pci with priControl := 1, priStatus := 0 } := by
  have hnone : (bit s.pci.priStatus 8 && !s.pageRequests.isEmpty) = false := by
    rcases hfresh with h | h <;> simp [h]
  simp [writePriControl, hpre, hnew, hnone]

/-- The write leaves memory and the engines alone, whichever of its cases it is. -/
theorem writePriControl_frame (w : Word) (s : State) :
    (writePriControl w s).mem = s.mem ∧ (writePriControl w s).engines = s.engines := by
  unfold writePriControl
  dsimp only
  split
  · split <;> exact ⟨rfl, rfl⟩
  · split <;> exact ⟨rfl, rfl⟩

/-- Settles O60: the step is the write to the register, on the machine with the input taken. -/
theorem pageRequestEnable : Obligations.PageRequestEnable := by
  unfold Obligations.PageRequestEnable
  intro s w rest hin
  obtain ⟨hmem, hengines⟩ := writePriControl_frame w { s with inputs := rest }
  refine ⟨noEffect (writePriControl w { s with inputs := rest }), step_of_inputs_cons hin, fun a => ?_, ?_, ?_, ?_, ?_⟩
  · rw [noEffect_mem, hmem]
  · rw [noEffect_engines, hengines]
  · rw [noEffect_regs, writePriControl_regs]
  · intro hpre hnew
    rw [noEffect_pci, writePriControl_stop (s := { s with inputs := rest }) hpre hnew]
  · intro hpre hnew hfresh
    rw [noEffect_pci, writePriControl_start (s := { s with inputs := rest }) hpre hnew hfresh]

/-! ### The descriptor registers (R30-R33, R850) -/

/-- Settles O24: in its place in the handshake the write changes the registers of its engine, elsewhere nothing. -/
theorem descriptorWrite : Obligations.DescriptorWrite := by
  unfold Obligations.DescriptorWrite
  intro s d a
  refine ⟨writeDescriptors d a s, rfl, ?_⟩
  by_cases hphase : (engineOf s a.eng).phase = .ready
  · rw [writeDescriptors_ready d hphase, if_pos hphase]
    exact ⟨fun e he => engineOf_updEngine_other s _ he, rfl, engineOf_updEngine_same s a.eng _⟩
  · rw [writeDescriptors_other d hphase, if_neg hphase]
    exact ⟨fun _ _ => rfl, rfl, rfl⟩

/-! ### The reset state (R85, R873) -/

/-- After reset every engine is the same, idle with nothing waiting and no event. -/
theorem engineOf_reset (e : Engine) : engineOf State.reset e = EngineSt.reset := by
  cases e <;> rfl

/-- No HDC holds a credit after reset. -/
theorem creditsUsed_reset (src : HdcId) : creditsUsed State.reset.hdc src = 0 := rfl

/-- The register banks have their sizes after reset, GAM_MOCS its eight blocks of 64 (R52). -/
theorem reset_banksOk : State.reset.regs.banksOk = true := by
  have hblock : gamMocsBlock.length = 64 := rfl
  refine (banksOk_iff _).2 ⟨rfl, rfl, rfl, ?_⟩
  simp [State.reset, Regs.reset, hblock]

/-- Settles O10, invariant by invariant. -/
theorem resetMeetsTheInvariants : Obligations.ResetMeetsTheInvariants := by
  unfold Obligations.ResetMeetsTheInvariants
  refine ⟨rfl, by decide, by decide, reset_banksOk, fun e => ?_, fun e => ?_, fun src => ?_⟩
  · rw [engineOf_reset]
    rfl
  · rw [engineOf_reset]
    exact List.nodup_nil
  · rw [creditsUsed_reset]
    exact Nat.zero_le 2

/-- A list repeated `n` times is read modulo its length. -/
theorem getD_flatten_replicate {α : Type} (l : List α) (d : α) {n i : Nat} (h : i < n * l.length) :
    (List.replicate n l).flatten.getD i d = l.getD (i % l.length) d := by
  induction n generalizing i with
  | zero => omega
  | succ n ih =>
    rw [List.replicate_succ, List.flatten_cons]
    rw [Nat.succ_mul] at h
    by_cases hi : i < l.length
    · rw [List.getD_append _ _ _ _ hi, Nat.mod_eq_of_lt hi]
    · rw [List.getD_append_right _ _ _ _ (by omega), ih (by omega), ← Nat.mod_eq_sub_mod (by omega)]

/-- The L3 control table after reset is one period of 16 entries, four times (R51). -/
theorem reset_lncf_periodic : State.reset.regs.lncf = (List.replicate 4 lncfPeriod).flatten := rfl

/-- Settles O12: entry `i` is entry `i` mod 16 of the period, and the sixteen words of the period are those of the table. -/
theorem resetL3ControlTable : Obligations.ResetL3ControlTable := by
  unfold Obligations.ResetL3ControlTable
  intro word rows i hi
  have hrow : ∀ k, k < 16 → (lncfPeriod.getD k 0).toNat = rows.getD k 0 := by decide
  rw [reset_lncf_periodic, getD_flatten_replicate lncfPeriod 0 hi]
  exact hrow (i % 16) (Nat.mod_lt i (by decide))

end Sys2Proof.Machine

/-! ## Memory: a QWord stored reads back, and every step keeps the canonical form (O5, O11; 20_memory.md R110, R130) -/

namespace Sys2Proof.Machine

open Sys2Proof

/-- Settles O11: the frame of a store, its value read back, and the form it keeps. -/
theorem storeThenLoad : Obligations.StoreThenLoad := by
  unfold Obligations.StoreThenLoad
  intro s pa v w
  have houtside : sameMemoryOutside s (store s pa 8 v w) pa 8 := memRead_store_outside s pa 8 v w
  exact ⟨houtside, fun hwf => ⟨mem64_store_same s pa v w hwf, wf_store s pa 8 v w hwf⟩⟩

/-! ### Operations that leave memory as it is: contexts and their handshake (R850) -/

/-- An operation that leaves memory alone leaves it alone for each element of a list. -/
theorem foldl_mem {α : Type} {f : State → α → State} (hf : ∀ s a, (f s a).mem = s.mem) (l : List α) (s : State) :
    (l.foldl f s).mem = s.mem := by
  induction l generalizing s with
  | nil => rfl
  | cons a l ih => exact (ih (f s a)).trans (hf s a)

@[simp] theorem broadcastInvalidation_mem (s : State) : (broadcastInvalidation s).mem = s.mem := by
  rw [broadcastInvalidation_eq]

@[simp] theorem queueLast_mem (s : State) (f : PageFault) : (queueLast s f).mem = s.mem := by
  unfold queueLast
  split <;> rfl

@[simp] theorem notifyOut_mem (s : State) (e : Engine) (c : Word) : (notifyOut s e c).mem = s.mem := by
  unfold notifyOut
  split <;> rfl

/-- A context that is restored is read from memory, not written to it (R40, R52). -/
@[simp] theorem restoreContext_mem (s : State) (e : Engine) (lrca : BitVec 20) : (restoreContext s e lrca).mem = s.mem := rfl

@[simp] theorem fillCaches_mem (s : State) (e : Engine) : (fillCaches s e).mem = s.mem := by
  unfold fillCaches
  dsimp only
  split
  · split
    · split <;> rfl
    · rfl
  · rfl

@[simp] theorem contextLaunched_mem (s : State) (e : Engine) : (contextLaunched s e).mem = s.mem := by
  unfold contextLaunched
  dsimp only
  split
  · rw [restoreContext_mem, fillCaches_mem]
    split <;> rfl
  · rfl

@[simp] theorem contextReceiveReady_mem (s : State) (e : Engine) : (contextReceiveReady s e).mem = s.mem := rfl

@[simp] theorem contextConfirmed_mem (s : State) (e : Engine) : (contextConfirmed s e).mem = s.mem := by
  unfold contextConfirmed
  dsimp only
  split
  · rw [resumeStalled_mem, dropRetained_mem, updEngine_mem, setEngine_mem]
  · exact setEngine_mem s e _

@[simp] theorem csMessage_mem (e : Engine) (w : Word) (s : State) : (csMessage e w s).mem = s.mem := by
  have hready : (if messageBit w 0 then contextReceiveReady s e else s).mem = s.mem := by
    split
    · exact contextReceiveReady_mem s e
    · rfl
  unfold csMessage
  dsimp only
  split
  · rw [contextConfirmed_mem, hready]
  · exact hready

@[simp] theorem writeDescriptors_mem (d : QWord) (a : DescArgs) (s : State) : (writeDescriptors d a s).mem = s.mem := by
  unfold writeDescriptors
  split <;> rfl

@[simp] theorem writeDescHalf_mem (ag : Agent) (e : Engine) (i : Nat) (b : Bool) (w : Word) (s : State) :
    (writeDescHalf ag e i b w s).mem = s.mem := by
  unfold writeDescHalf
  split <;> rfl

/-! ### Page responses, invalidations and the waits of resets leave memory as it is (R841, R371, R871) -/

@[simp] theorem failRequest_mem (s : State) (prg : Nat) (c : ResponseCode) : (failRequest s prg c).mem = s.mem := by
  rw [(failRequest_eq s prg c).1]

@[simp] theorem dropAnswered_mem (s : State) (prg : Nat) : (dropAnswered s prg).mem = s.mem := by
  rw [dropAnswered_eq]

@[simp] theorem detachedResponse_mem (s : State) (prg : Nat) (c : ResponseCode) : (detachedResponse s prg c).mem = s.mem :=
  (detachedResponse_spec s prg c).1

@[simp] theorem lastResponse_mem (s : State) (e : Engine) (c : Word) : (lastResponse s e c).mem = s.mem := by
  unfold lastResponse
  split <;> rfl

@[simp] theorem dropScopeEverywhere_mem (s : State) (m : ScopeMark) : (dropScopeEverywhere s m).mem = s.mem :=
  foldl_mem (fun u e => updEngine_mem u e _) allEngines s

@[simp] theorem dropPage_mem (s : State) (w : Waiting) : (dropPage s w).mem = s.mem :=
  dropScopeEverywhere_mem s _

@[simp] theorem dropAllRetained_mem (s : State) : (dropAllRetained s).mem = s.mem :=
  foldl_mem dropRetained_mem allEngines s

@[simp] theorem refillPasidCache_mem (s : State) (e : Engine) : (refillPasidCache s e).mem = s.mem := rfl

@[simp] theorem invalidateAll_mem (s : State) : (invalidateAll s).mem = s.mem := by
  rw [invalidateAll, broadcastInvalidation_mem, foldl_mem refillPasidCache_mem, dropAllRetained_mem]

@[simp] theorem invalidateScope_mem (s : State) (p : BitVec 20) (g : Option (BitVec 36)) (c : CacheStage) :
    (invalidateScope s p g c).mem = s.mem := by
  rw [invalidateScope, broadcastInvalidation_mem, dropScopeEverywhere_mem]

@[simp] theorem invalidatePasid_mem (s : State) (p : BitVec 20) : (invalidatePasid s p).mem = s.mem := by
  rw [invalidatePasid, foldl_mem refillPasidCache_mem, invalidateScope_mem]

@[simp] theorem holdPageRequest_mem (s : State) (prg : Nat) : (holdPageRequest s prg).mem = s.mem := by
  unfold holdPageRequest
  split <;> rfl

@[simp] theorem completeReset_mem (s : State) (e : Engine) : (completeReset s e).mem = s.mem := by
  unfold completeReset
  split <;> rfl

@[simp] theorem completeResets_mem (s : State) : (completeResets s).mem = s.mem := by
  unfold completeResets
  split
  · split <;> rfl
  · exact foldl_mem completeReset_mem _ s

@[simp] theorem servicePageRequest_mem (s : State) (prg : Nat) : (servicePageRequest s prg).mem = s.mem := by
  rw [servicePageRequest, completeResets_mem]
  exact foldl_mem (fun u e => updEngine_mem u e _) allEngines s

/-! ### Register writes and the HDC port leave memory as it is -/

@[simp] theorem namedWrite_mem (r : NamedReg) (w : Word) (s : State) : (namedWrite r w s).mem = s.mem := by
  cases r with
  | adNonWb => exact changeRegs_mem _ s
  | _ => rfl

theorem pciWrite_mem {r : PciReg} {w : Word} {s t : State} (h : pciWrite r w s = .ok t) : t.mem = s.mem := by
  cases r with
  | pasidControl =>
    unfold pciWrite at h
    dsimp only at h
    split at h <;> cases h
    rfl
  | priControl => cases h; exact (writePriControl_frame w s).1
  | _ => cases h; rfl

theorem configWrite_mem {off : BitVec 12} {n : Nat} {w : Word} {s t : State} (h : configWrite off n w s = .ok t) :
    t.mem = s.mem := by
  unfold configWrite at h
  split at h
  · exact pciWrite_mem h
  · obtain ⟨u, hu, h⟩ := bind_ok.1 h
    exact (pciWrite_mem h).trans (pciWrite_mem hu)
  · cases h

theorem writeLncf_mem {i : Nat} {w : BitVec 16} {s t : State} (h : writeLncf i w s = .ok t) : t.mem = s.mem := by
  rw [writeLncf_ok h]

theorem writeGamMocs_mem {i : Nat} {w : Word} {s t : State} (h : writeGamMocs i w s = .ok t) : t.mem = s.mem := by
  rw [writeGamMocs_ok h]

@[simp] theorem gamPageResponse_mem (g : GamResponse) (s : State) : (gamPageResponse g s).mem = s.mem := by
  unfold gamPageResponse
  split <;> rfl

@[simp] theorem tlbInvResponse_mem (a : HdcAck) (s : State) : (tlbInvResponse a s).mem = s.mem := by
  unfold tlbInvResponse
  split
  · rfl
  · dsimp only
    generalize (if s.hdc.acks.contains a.src = true then s.hdc.acks else s.hdc.acks ++ [a.src]) = acks
    split <;> rfl

/-! ### What changes memory keeps its canonical form

Memory is changed by the stores of what `Kept` describes, by the context image that is saved when a context leaves, and by a bus reset. -/

/-- Memory in its canonical form stays in it. -/
def KeepsCanonical (s t : State) : Prop := Memory.wf s.mem = true → Memory.wf t.mem = true

theorem KeepsCanonical.trans {s t u : State} (h : KeepsCanonical s t) (g : KeepsCanonical t u) : KeepsCanonical s u := g ∘ h

theorem KeepsCanonical.of_same {s t : State} (h : t.mem = s.mem) : KeepsCanonical s t := fun hs => h ▸ hs

theorem KeepsCanonical.of_kept {s t : State} (k : Kept s t) : KeepsCanonical s t := k.mem

/-- What follows leaves memory as it is. -/
theorem KeepsCanonical.then_same {s t u : State} (h : KeepsCanonical s t) (hu : u.mem = t.mem) : KeepsCanonical s u :=
  h.trans (.of_same hu)

theorem KeepsCanonical.foldl {α : Type} {f : State → α → State} (hf : ∀ s a, KeepsCanonical s (f s a)) (l : List α)
    (s : State) : KeepsCanonical s (l.foldl f s) := by
  induction l generalizing s with
  | nil => exact .of_same rfl
  | cons a l ih => exact (hf s a).trans (ih _)

/-- The context that leaves is saved in its image (R40, R52); nothing else of closing it is in memory. -/
theorem keepsCanonical_closeContext (s : State) (e : Engine) : KeepsCanonical s (closeContext s e) := by
  rw [closeContext_eq]
  exact wf_saveLoaded s e

theorem keepsCanonical_contextAvailable (s : State) (e : Engine) : KeepsCanonical s (contextAvailable s e) := by
  unfold contextAvailable
  split
  · exact .of_same rfl
  · split
    · exact .of_same rfl
    · exact (keepsCanonical_closeContext s e).then_same (broadcastInvalidation_mem _)

theorem keepsCanonical_gamMessage (e : Engine) (w : Word) (s : State) : KeepsCanonical s (gamMessage e w s) := by
  have havailable : KeepsCanonical s (if messageBit w 0 then contextAvailable s e else s) := by
    split
    · exact keepsCanonical_contextAvailable s e
    · exact .of_same rfl
  unfold gamMessage
  dsimp only
  split
  · exact havailable.then_same (contextLaunched_mem _ e)
  · exact havailable

theorem keepsCanonical_switchOut (s : State) (e : Engine) : KeepsCanonical s (switchOut s e) := by
  unfold switchOut
  dsimp only
  split
  · exact .of_same rfl
  · split
    · exact .of_same rfl
    · split
      · exact keepsCanonical_closeContext s e
      · exact (keepsCanonical_closeContext s e).then_same (notifyOut_mem _ e _)

theorem keepsCanonical_terminate (s : State) (c : Word) : KeepsCanonical s (terminate s c) := by
  unfold terminate
  split
  · dsimp only
    split
    · exact .of_same (queueLast_mem _ _)
    · exact keepsCanonical_switchOut (updEngine s _ _) _
  · split <;> exact .of_same rfl

/-- A wait that fails ends as an invalid access, which `Kept` describes (R832). -/
theorem keepsCanonical_failWaiting (s : State) (e : Engine) (w : Waiting) (c : ResponseCode) :
    KeepsCanonical s (failWaiting s e w c) :=
  (KeepsCanonical.of_same (wedge_mem s e c)).trans (.of_kept (kept_invalidAccess _ w.req _))

theorem keepsCanonical_failStream (s : State) (e : Engine) (w : Waiting) (c : ResponseCode) :
    KeepsCanonical s (failStream s e w c) := by
  unfold failStream
  split
  · exact keepsCanonical_failWaiting s e w c
  · exact .of_same rfl

theorem keepsCanonical_endWaits (s : State) (e : Engine) (prg : Nat) (c : ResponseCode) :
    KeepsCanonical s (endWaits s e prg c) := by
  unfold endWaits
  dsimp only
  refine (KeepsCanonical.of_same (detachedResponse_mem (updEngine s e (clearWaits prg (decide (c = .success)))) prg c)).trans ?_
  split
  · exact .of_same (foldl_mem dropPage_mem _ _)
  · exact (KeepsCanonical.foldl (fun u w => keepsCanonical_failStream u e w _) _ _).trans
      (.foldl (fun u w => keepsCanonical_failWaiting u e w _) _ _)

theorem keepsCanonical_pageResponse (s : State) (prg : Nat) (c : ResponseCode) : KeepsCanonical s (pageResponse s prg c) := by
  unfold pageResponse
  split
  · exact keepsCanonical_endWaits s _ prg c
  · split
    · exact .of_same (detachedResponse_mem s prg c)
    · split
      · exact .of_same (by rw [lastResponse_mem, dropAnswered_mem, failRequest_mem])
      · exact .of_same rfl

/-! ### Resets (R870-R873) -/

/-- The requests in flight at an engine reset either happened or did not (R871); the reset itself changes no memory. -/
theorem keepsCanonical_engineReset (s : State) (e : Engine) : KeepsCanonical s (engineReset s e) := by
  have hcount : ∀ (u : State) (b : Bool) (p : BitVec 20), (if b then countPasid u p (-1) else u).mem = u.mem := by
    intro u b p
    cases b <;> rfl
  exact (KeepsCanonical.of_kept (kept_settle (inFlight s e) s)).then_same (hcount _ _ _)

/-- A device reset leaves memory as the resets of the engines do (R873). -/
theorem flr_mem (s : State) : (flr s).mem = (allEngines.foldl engineReset { s with flrPending := false }).mem := by
  have hclear : ∀ u e, (clearEvents u e).mem = u.mem := fun u e => updEngine_mem u e _
  simp only [flr, advanceDraws_mem]
  rw [foldl_mem hclear, dropAllRetained_mem]

theorem keepsCanonical_flr (s : State) : KeepsCanonical s (flr s) :=
  (KeepsCanonical.foldl keepsCanonical_engineReset allEngines { s with flrPending := false }).then_same (flr_mem s)

theorem keepsCanonical_requestReset (s : State) (e : Engine) : KeepsCanonical s (requestReset s e) := by
  unfold requestReset
  split
  · exact keepsCanonical_engineReset s e
  · exact .of_same rfl

theorem keepsCanonical_requestFlr (s : State) : KeepsCanonical s (requestFlr s) := by
  by_cases hheld : ∃ e, (engineOf s e).mmioRequests ≠ []
  · obtain ⟨-, heq⟩ := requestFlr_held hheld
    exact .of_same (by rw [heq])
  · rw [requestFlr_free (by simpa using hheld)]
    exact keepsCanonical_flr s

/-- After a bus reset memory holds open content, in its canonical form whatever it was before (R870, R880). -/
theorem wf_busReset (s : State) : Memory.wf (busReset s).mem = true := by
  rw [busReset, advanceDraws_mem]
  exact wf_freeMemory _

/-! ### Every step -/

theorem keepsCanonical_mmioWrite {ag : Agent} {off : Nat} {w : Word} {s t : State} (h : mmioWrite ag off w s = .ok t) :
    KeepsCanonical s t := by
  unfold mmioWrite at h
  split at h
  · cases h
  · generalize mmioReg s.params off = r at h
    cases r with
    | undefined => cases h
    | mchbar | nullRange | toCs e => cases h; exact .of_same rfl
    | desc e i b => cases h; exact .of_same (writeDescHalf_mem ag e i b w s)
    | toGam e =>
      cases h
      split
      · exact keepsCanonical_gamMessage e w s
      · exact .of_same rfl
    | lncf i =>
      obtain ⟨u, hu, h⟩ := bind_ok.1 h
      obtain ⟨v, hv, h⟩ := bind_ok.1 h
      cases h
      exact (KeepsCanonical.of_same ((writeLncf_mem hv).trans (writeLncf_mem hu))).then_same (noEffect_mem v)
    | gamMocs i =>
      obtain ⟨u, hu, h⟩ := bind_ok.1 h
      cases h
      exact (KeepsCanonical.of_same (writeGamMocs_mem hu)).then_same (noEffect_mem u)
    | _ => cases h; exact .of_same (changeRegs_mem _ s)

/-- An access of the host or a peer stores what `Kept` describes, or is a register write. -/
theorem keepsCanonical_of_access {s t : State} (h : Kept s t ∨ ∃ off v, mmioWrite .host off v s = .ok t) :
    KeepsCanonical s t :=
  h.elim .of_kept fun ⟨_, _, hw⟩ => keepsCanonical_mmioWrite hw

/-- A request at the HDC port is dropped, or served as any other (R376). -/
theorem keepsCanonical_hdcPageRequest {a : HdcRequest} {s t : State} (h : hdcPageRequest a s = .ok t) : KeepsCanonical s t := by
  unfold hdcPageRequest at h
  split at h
  · cases h; exact .of_same rfl
  · split at h
    · cases h; exact .of_same rfl
    · exact (kept_serveLoaded h).mem

theorem keepsCanonical_instr {s t : State} (h : InstrEffect s t) : KeepsCanonical s t := by
  cases h with
  | kept h => exact .of_kept h
  | toGam e w => exact keepsCanonical_gamMessage e w s
  | toCs e w => exact .of_same (csMessage_mem e w s)
  | descriptors d a => exact .of_same (writeDescriptors_mem d a s)
  | hdcRequest a h => exact keepsCanonical_hdcPageRequest h
  | hdcAck a => exact .of_same (tlbInvResponse_mem a s)
  | hdcResponse a => exact .of_same (gamPageResponse_mem a s)
  | hdcStart | hdcEnd => exact .of_same rfl
  | lncf i w h => exact .of_same (writeLncf_mem h)
  | gamMocs i w h => exact .of_same (writeGamMocs_mem h)

theorem keepsCanonical_runOp {o : Op} {s t : State} (h : runOp o s = .ok t) : KeepsCanonical s t := by
  cases o with
  | hostAccess w addr n d => exact keepsCanonical_of_access (hostAccess_cases h)
  | peerAccess w addr n d =>
    have hpeer : (if n = 0 ∨ 8 < n then refuse .undecodable else peerAccess w addr n d s) = .ok t := h
    split at hpeer
    · cases hpeer
    · exact keepsCanonical_of_access (peerAccess_cases hpeer)
  | mmioWrite off d | csMmioWrite e off d => exact keepsCanonical_mmioWrite h
  | namedWrite r d => cases h; exact .of_same (namedWrite_mem r d s)
  | pciWrite r d => exact .of_same (pciWrite_mem h)
  | configWrite off n d => exact .of_same (configWrite_mem h)
  | setFence _ _ | setIommu _ | setMemRanges _ | setPalette _ _ | setMchbarAlias _ | enablePowerGating =>
    cases h; exact .of_same rfl
  | pageResponse prg c => cases h; exact keepsCanonical_pageResponse s prg c
  | lastResponse e c => cases h; exact .of_same (lastResponse_mem s e c)
  | switchOut e => cases h; exact keepsCanonical_switchOut s e
  | terminate c => cases h; exact keepsCanonical_terminate s c
  | invalidateEngine e => cases h; exact .of_same (broadcastInvalidation_mem _)
  | invalidateAll => cases h; exact .of_same (invalidateAll_mem s)
  | invalidatePasid p => cases h; exact .of_same (invalidatePasid_mem s p)
  | invalidateScope p g c => cases h; exact .of_same (invalidateScope_mem s p g c)
  | holdPageRequest prg => cases h; exact .of_same (holdPageRequest_mem s prg)
  | servicePageRequest prg => cases h; exact .of_same (servicePageRequest_mem s prg)
  | engineReset e => cases h; exact keepsCanonical_requestReset s e
  | flr => cases h; exact keepsCanonical_requestFlr s
  | busReset => cases h; exact fun _ => wf_busReset s
  | _ => exact .of_kept (kept_runOp rfl h)

/-- Settles O5: of what a step can do, only the operations above change memory, and each keeps its form. -/
theorem stepKeepsMemoryCanonical : Obligations.StepKeepsMemoryCanonical := by
  unfold Obligations.StepKeepsMemoryCanonical
  intro s t hs h
  have hstep : KeepsCanonical s t := by
    rcases step_cases h with hk | ⟨u, hu, hi | ⟨o, ho⟩⟩
    · exact .of_kept hk
    · exact (KeepsCanonical.of_kept hu).trans (keepsCanonical_instr hi)
    · exact (KeepsCanonical.of_kept hu).trans (keepsCanonical_runOp ho)
  exact hstep hs

end Sys2Proof.Machine

/-! ## The decoder after the encoder (30_encoding.md R170, R195-R206, R211; O1, O2) -/

namespace Sys2Proof

/-! ### Telling the objects of a port apart -/

/-- A word that agrees with one pattern agrees with none that differs from it in a bit that both fix. -/
theorem matchesPat_false_of_differs {n : Nat} {w : BitVec n} {m p : Nat} (h : matchesPat w m p = true) (m' p' : Nat)
    (hd : BitVec.ofNat n p &&& BitVec.ofNat n m' ≠ BitVec.ofNat n p' &&& BitVec.ofNat n m) : matchesPat w m' p' = false := by
  simp only [matchesPat, beq_iff_eq] at h
  simp only [matchesPat, beq_eq_false_iff_ne]
  intro h'
  apply hd
  rw [← h, ← h', BitVec.and_assoc, BitVec.and_assoc, BitVec.and_comm (BitVec.ofNat n m)]

/-! ### Reading what was written -/

/-- A reader that answers hands its value, and the bytes after it, to what follows. -/
theorem operand_bind {α β : Type} {g : List Byte → Option (α × List Byte)} {bs r : List Byte} {x : α}
    {k : α × List Byte → Except DecodeError β} (h : g bs = some (x, r)) : (operand g bs >>= k) = k (x, r) := by
  simp [operand, h, bind, Except.bind]

theorem getBits16_put_append (w : BitVec 16) (l r : List Byte) : getBits16 (leBytes w 2 ++ l ++ r) = some (w, l ++ r) := by
  rw [List.append_assoc, getBits16_put]

theorem getWord_put_append (w : Word) (l r : List Byte) : getWord (leBytes w 4 ++ l ++ r) = some (w, l ++ r) := by
  rw [List.append_assoc, getWord_put]

theorem getQWord_put_append (w : QWord) (l r : List Byte) : getQWord (leBytes w 8 ++ l ++ r) = some (w, l ++ r) := by
  rw [List.append_assoc, getQWord_put]

theorem getBlock_put_append (w : Block) (l r : List Byte) : getBlock (leBytes w 16 ++ l ++ r) = some (w, l ++ r) := by
  rw [List.append_assoc, getBlock_put]

/-! ### Every object at its port -/

/-- The decoder reads the object from its bytes: its own bits, or its opcode, tell it from the other objects of the port, and its
operands are read back. -/
theorem decodeObject_encode {i : Instr} (rest : List Byte) (h : i.wf = true) :
    decodeObject i.port (encode i ++ rest) = .ok (i, rest) := by
  cases i with
  -- told by an opcode or a code in a byte before the operands
  | atomicPageUpdate0000 a | atomicPageUpdate0001 a | atomicPageUpdate0010 a | atomicPageUpdate0011 a
  | atomicPageUpdate0100 a | atomicPageUpdate0101 a | atomicPageUpdate0110 a | atomicPageUpdate0111 a
  | atomicPageUpdate1000 a | atomicPageUpdate1001 a | atomicPageUpdate1010 a | atomicPageUpdate1011 a
  | atomicPageUpdate1100 a | atomicPageUpdate1101 a | atomicPageUpdate1110 a | atomicPageUpdate1111 a
  | atomicAUpdate000 a | atomicAUpdate001 a | atomicAUpdate010 a | atomicAUpdate011 a | atomicAUpdate100 a
  | atomicAdUpdate101 a | atomicAdUpdate110 a | atomicAdUpdate111 a =>
    exact (operand_bind (getByte_cons _ _)).trans (operand_bind (AtomicArgs.get_put a rest))
  | faultCodeNone a | faultCodeNotPresentOrReserved a | faultCodePrivilege a | faultCodeWritePermission a =>
    exact (operand_bind (getByte_cons _ _)).trans (operand_bind (FaultArgs.get_put a rest))
  | memtypeUc a | memtypeWc a | memtypeWt a | memtypeWp a | memtypeWb a | memtypeReserved2 a | memtypeReserved3 a
  | memtypeReserved7 a => exact (operand_bind (getByte_cons _ _)).trans (operand_bind (TypeArgs.get_put a rest))
  | hdcPageRequest a => exact (operand_bind (getByte_cons _ _)).trans (operand_bind (HdcRequest.get_put a rest))
  | hdcTlbInvResponse a => exact (operand_bind (getByte_cons _ _)).trans (operand_bind (HdcAck.get_put a rest))
  | gamPageResponse a => exact (operand_bind (getByte_cons _ _)).trans (operand_bind (GamResponse.get_put a rest))
  | gamTlbInvStart | gamTlbInvEnd => exact (operand_bind (getByte_cons _ _)).trans (operand_bind (getBool_put false rest))
  | gamResponseOpcodeReserved => exact operand_bind (getByte_cons _ rest)
  -- told by a format code of two bytes
  | astcLdr2d4x4U8srgb | astcLdr2d5x4U8srgb | astcLdr2d5x5U8srgb | astcLdr2d6x5U8srgb | astcLdr2d6x6U8srgb
  | astcLdr2d8x5U8srgb | astcLdr2d8x6U8srgb | astcLdr2d10x5U8srgb | astcLdr2d10x6U8srgb | astcLdr2d8x8U8srgb
  | astcLdr2d10x8U8srgb | astcLdr2d10x10U8srgb | astcLdr2d12x10U8srgb | astcLdr2d12x12U8srgb
  | astcLdr2d4x4Flt16 | astcLdr2d5x4Flt16 | astcLdr2d5x5Flt16 | astcLdr2d6x5Flt16 | astcLdr2d6x6Flt16
  | astcLdr2d8x5Flt16 | astcLdr2d8x6Flt16 | astcLdr2d10x5Flt16 | astcLdr2d10x6Flt16 | astcLdr2d8x8Flt16
  | astcLdr2d10x8Flt16 | astcLdr2d10x10Flt16 | astcLdr2d12x10Flt16 | astcLdr2d12x12Flt16
  | astcFull2d4x4Flt16 | astcFull2d5x4Flt16 | astcFull2d5x5Flt16 | astcFull2d6x5Flt16 | astcFull2d6x6Flt16
  | astcFull2d8x5Flt16 | astcFull2d8x6Flt16 | astcFull2d10x5Flt16 | astcFull2d10x6Flt16 | astcFull2d8x8Flt16
  | astcFull2d10x8Flt16 | astcFull2d10x10Flt16 | astcFull2d12x10Flt16 | astcFull2d12x12Flt16 =>
    exact operand_bind (getBits16_put _ rest)
  -- the only object of its port
  | elementDescriptor d a => exact (operand_bind (getQWord_put_append d _ rest)).trans (operand_bind (DescArgs.get_put a rest))
  | trttL3e e a | trttL2e e a => exact (operand_bind (getQWord_put_append e _ rest)).trans (operand_bind (Access.get_put a rest))
  | trttL1e e a => exact (operand_bind (getWord_put_append e _ rest)).trans (operand_bind (Access.get_put a rest))
  | vaIndex4level v | vaIndexTrtt v => exact operand_bind (getBits48_put v rest)
  | vaIndexPpgtt32 v | vaIndexGgtt v => exact operand_bind (getWord_put v rest)
  | miUpdateGttAddr v a => exact (operand_bind (getWord_put_append v _ rest)).trans (operand_bind (GttUpdateArgs.get_put a rest))
  | etc2Rgb8Pta b f | eacR11 b f | dxt1Rgb b f | bc4 b f =>
    exact (operand_bind (getQWord_put_append b _ rest)).trans (operand_bind (FormatFlags.get_put f rest))
  | etc2EacRgba8 b f | eacRg11 b f | dxt2Dxt3ExplicitAlpha b f | dxt4Dxt5InterpolatedAlpha b f | bc5 b f =>
    exact (operand_bind (getBlock_put_append b _ rest)).trans (operand_bind (FormatFlags.get_put f rest))
  | tileLinear a | tileX a | tileY a | tileW a | tileYf a | tileYs a => exact operand_bind (TileArgs.get_put a rest)
  | lncfcmocsEntry w a => exact (operand_bind (getBits16_put_append w _ rest)).trans (operand_bind (MocsIndex.get_put a rest))
  | gamMocsEntry w a => exact (operand_bind (getWord_put_append w _ rest)).trans (operand_bind (MocsSlot.get_put a rest))
  -- told by a field of the descriptor
  | ctxLegacyGgtt d a | ctxLegacyPpgtt32 d a | ctxLegacyPpgtt48 d a | ctxAdvanced d a =>
    have hmode := eq_of_beq (Bool.and_eq_true_iff.1 h).1
    refine (operand_bind (getQWord_put_append d _ rest)).trans ((operand_bind (Access.get_put a rest)).trans ?_)
    dsimp only; rw [hmode]; rfl
  | faultModelHang d a | faultModelHalt d a | faultModelStreamSwitch d a | faultModelReserved d a =>
    have hmodel := eq_of_beq (Bool.and_eq_true_iff.1 h).1
    refine (operand_bind (getQWord_put_append d _ rest)).trans ((operand_bind (FaultArgs.get_put a rest)).trans ?_)
    dsimp only; rw [hmodel]; rfl
  -- told by the P and PS bits of the entry
  | ia32ePml4e e a | ia32ePdpePd e a | ia32ePdpe1gb e a | ia32ePdePt e a | ia32ePde2mb e a | ia32ePte64kb e a
  | ia32ePte4kb e a | legacy32Pde e a | legacyPte64kb e a | legacyPte4kb e a | legacy64Pml4e e a | legacy64PdpePd e a
  | legacy64Pdpe1gb e a | legacy64PdePt e a | legacy64Pde2mb e a | ggttPte e a =>
    have hpat := (Bool.and_eq_true_iff.1 h).1
    refine (operand_bind (getQWord_put_append e _ rest)).trans ((operand_bind (Access.get_put a rest)).trans ?_)
    simp [hpat, matchesPat_false_of_differs hpat, pure, Except.pure]
  -- told by the mode bits of the block
  | etc1Individual b f | etc1Differential b f =>
    refine (operand_bind (getQWord_put_append b _ rest)).trans ((operand_bind (FormatFlags.get_put f rest)).trans ?_)
    simp only [Instr.wf, Bool.not_eq_true'] at h
    simp [h, pure, Except.pure]
  | etc2T b f | etc2H b f | etc2Planar b f =>
    have hmode := eq_of_beq h
    refine (operand_bind (getQWord_put_append b _ rest)).trans ((operand_bind (FormatFlags.get_put f rest)).trans ?_)
    dsimp only; rw [hmode]; rfl
  | dxt1FourColour b f =>
    refine (operand_bind (getQWord_put_append b _ rest)).trans ((operand_bind (FormatFlags.get_put f rest)).trans ?_)
    exact if_pos h
  | dxt1ThreeColourTransparent b f =>
    have hle : ¬ decide (field b 0 16 > field b 16 16) = true := by simpa using of_decide_eq_true h
    refine (operand_bind (getQWord_put_append b _ rest)).trans ((operand_bind (FormatFlags.get_put f rest)).trans ?_)
    exact if_neg hle
  | fxt1CcHi b f | fxt1CcChroma b f | fxt1CcAlpha b f | fxt1CcMixed b f
  | bc6hMode0 b f | bc6hMode1 b f | bc6hMode2 b f | bc6hMode3 b f | bc6hMode4 b f | bc6hMode5 b f | bc6hMode6 b f
  | bc6hMode7 b f | bc6hMode8 b f | bc6hMode9 b f | bc6hMode10 b f | bc6hMode11 b f | bc6hMode12 b f | bc6hMode13 b f
  | bc6hUndefined10011 b f | bc6hUndefined10111 b f | bc6hUndefined11011 b f | bc6hUndefined11111 b f
  | bc7Mode0 b f | bc7Mode1 b f | bc7Mode2 b f | bc7Mode3 b f | bc7Mode4 b f | bc7Mode5 b f | bc7Mode6 b f | bc7Mode7 b f
  | bc7Undefined b f =>
    refine (operand_bind (getBlock_put_append b _ rest)).trans ((operand_bind (FormatFlags.get_put f rest)).trans ?_)
    have hpat : matchesPat b _ _ = true := h
    simp [hpat, matchesPat_false_of_differs hpat, pure, Except.pure]
  | astcVoidExtent2d b | astcReservedModeA b | astcReservedModeB b | astcModeWBp4HAp2 b | astcModeWBp8HAp2 b
  | astcModeWAp2HBp8 b | astcModeWAp2HBp6 b | astcModeWBp2HAp2 b | astcModeW12HAp2 b | astcModeWAp2H12 b | astcModeW6H10 b
  | astcModeW10H6 b | astcModeWAp6HBp6 b | astcCem0 b | astcCem1 b | astcCem2 b | astcCem3 b | astcCem4 b | astcCem5 b
  | astcCem6 b | astcCem7 b | astcCem8 b | astcCem9 b | astcCem10 b | astcCem11 b | astcCem12 b | astcCem13 b
  | astcCem14 b | astcCem15 b =>
    have hmode := eq_of_beq h
    refine (operand_bind (getBlock_put b rest)).trans ?_
    dsimp only; rw [hmode]; rfl
  -- told by the message bits with their masks
  | msgRcsContextAvailable w | msgRcsContextReceiveReady w | msgBcsContextAvailable w | msgBcsContextReceiveReady w
  | msgVecsContextAvailable w | msgVecsContextReceiveReady w | msgVcs0ContextAvailable w | msgVcs0ContextReceiveReady w
  | msgVcs1ContextAvailable w | msgVcs1ContextReceiveReady w =>
    exact (operand_bind (getWord_put w rest)).trans (if_pos h)
  | msgRcsContextLaunched w | msgRcsContextConfirmed w | msgBcsContextLaunched w | msgBcsContextConfirmed w
  | msgVecsContextLaunched w | msgVecsContextConfirmed w | msgVcs0ContextLaunched w | msgVcs0ContextConfirmed w
  | msgVcs1ContextLaunched w | msgVcs1ContextConfirmed w =>
    have hbit := Bool.not_eq_true' _ ▸ (Bool.and_eq_true_iff.1 h).1
    exact (operand_bind (getWord_put w rest)).trans ((if_neg (by simp [hbit])).trans (if_pos h))

/-- A well-formed object followed by other bytes decodes to itself and those bytes. -/
theorem decode_encode {i : Instr} (rest : List Byte) (h : i.wf = true) : decode i.port (encode i ++ rest) = .ok (i, rest) :=
  decode_of_object (decodeObject_encode rest h) h

/-- The bytes of a well-formed object alone decode to it. -/
theorem decode_of_encode_eq {i : Instr} {bs : List Byte} (hbs : encode i = bs) (h : i.wf = true) :
    decode i.port bs = .ok (i, []) := by
  rw [← hbs, ← List.append_nil (encode i)]
  exact decode_encode [] h

/-- Settles O1: an encoded object is read back, and being well formed it is answered. -/
theorem decodeOfEncode : Obligations.DecodeOfEncode := by
  unfold Obligations.DecodeOfEncode
  exact fun _ rest h => decode_encode rest h

/-- Settles O2: the four words are the encodings of their objects, whose fixed bits are those of their rows. -/
theorem specWordsDecode : Obligations.SpecWordsDecode := by
  unfold Obligations.SpecWordsDecode
  refine ⟨fun a ha => ?_, fun a ha => ?_, fun a ha => ?_, ?_⟩
  · exact decode_of_encode_eq (i := .atomicPageUpdate1101 a) rfl ha
  · exact decode_of_encode_eq (i := .faultModelStreamSwitch 0x2200000093 a) rfl
      (show (field (0x2200000093 : QWord) 6 2 == 2 && a.wf) = true by rw [ha]; decide)
  · exact decode_of_encode_eq (i := .ia32ePde2mb 0x40200083 a) rfl
      (show (matchesPat (0x40200083 : QWord) 0x81 0x81 && a.wf) = true by rw [ha]; decide)
  · exact decode_of_encode_eq (i := .astcFull2d12x12Flt16) rfl rfl

end Sys2Proof

/-! ## Paging entries presented as objects (41_page_walk.md R311-R331; O31, O32, O33, O34) -/

namespace Sys2Proof

/-- A bit that a pattern fixes. -/
theorem bit_of_matchesPat {n : Nat} {w : BitVec n} {m p i : Nat} (h : matchesPat w m p = true)
    (hm : (BitVec.ofNat n m).getLsbD i = true) : bit w i = (BitVec.ofNat n p).getLsbD i := by
  rw [matchesPat, beq_iff_eq] at h
  rw [bit, ← h, BitVec.getLsbD_and, hm, Bool.and_true]

/-- Every row of a paging entry has P = 1. -/
theorem present_of_matchesPat {e : QWord} {a : Access} {m p : Nat} (h : (matchesPat e m p && a.wf) = true)
    (hm : (BitVec.ofNat 64 m).getLsbD 0 = true) (hp : (BitVec.ofNat 64 p).getLsbD 0 = true) : bit e 0 = true :=
  (bit_of_matchesPat (Bool.and_eq_true_iff.1 h).1 hm).trans hp

/-- The PS bit of an entry of a row that fixes it. -/
theorem ps_of_matchesPat {e : QWord} {a : Access} {p : Nat} (h : (matchesPat e 0x81 p && a.wf) = true) :
    bit e 7 = (BitVec.ofNat 64 p).getLsbD 7 :=
  bit_of_matchesPat (Bool.and_eq_true_iff.1 h).1 (by decide)

end Sys2Proof

namespace Sys2Proof.Machine

open Sys2Proof

/-! ### What an entry's result is latched as -/

/-- An entry that points to a table: the walk goes there with the rights after it. -/
theorem walkEntry_next {d : Dialect} {level : Nat} {ips : Bool} {e : QWord} {a : Access} {s : State} {l base : Nat} {ips' : Bool}
    (h : entryStep s.params.haw (entryCtl s d a) level ips a.va (entryRights s d level) e = .next l base ips') :
    walkEntry d level ips e a s =
      .ok { s with walk := ⟨accumulateIn d (entryRights s d level) e, ips', .next l base ips'⟩ } := by
  rw [walkEntry_eq, h]

/-- An entry that maps a page: the walk ends there. -/
theorem walkEntry_translated {d : Dialect} {level : Nat} {ips : Bool} {e : QWord} {a : Access} {s : State} {x : Translation}
    (h : entryStep s.params.haw (entryCtl s d a) level ips a.va (entryRights s d level) e = .translated x) :
    walkEntry d level ips e a s = .ok { s with walk := ⟨Rights.all, false, .translated x⟩ } := by
  rw [walkEntry_eq, h]

/-- An entry that maps a Null page. -/
theorem walkEntry_nullPage {d : Dialect} {level : Nat} {ips : Bool} {e : QWord} {a : Access} {s : State}
    (h : entryStep s.params.haw (entryCtl s d a) level ips a.va (entryRights s d level) e = .nullPage) :
    walkEntry d level ips e a s = .ok { s with walk := ⟨Rights.all, false, .nullPage⟩ } := by
  rw [walkEntry_eq, h]

/-! ### The controls under which an IA-32e entry is read -/

/-- Where all copies of a context are one, that one is in force (R350, R351). -/
theorem contextInForce_of_onlyContext {s : State} {e : Engine} {fn : BitVec 3} {pasid : BitVec 20} {x : IommuCtx}
    (h : onlyContext s e fn pasid x) : contextInForce s e fn pasid = some x := by
  obtain ⟨hne, hall⟩ := h
  unfold contextInForce
  split
  · contradiction
  · rename_i c hc
    rw [hall c (by simp [hc])]
  · rename_i c r _ hc
    have hlt : choiceAt s 6 % (r.length + 1) < (c :: r).length := Nat.mod_lt _ (Nat.succ_pos _)
    have hmem : (c :: r)[choiceAt s 6 % (r.length + 1)] ∈ contextCopies s e fn pasid := by
      rw [hc]; exact List.getElem_mem hlt
    rw [List.getD_eq_getElem _ _ hlt, hall _ hmem]

/-- The controls of the request are those of the access and of its context's descriptor, whatever the IOMMU supplies. -/
theorem entryCtl_ia32e_request (s : State) (a : Access) :
    (entryCtl s .ia32e a).dialect = .ia32e ∧ (entryCtl s .ia32e a).isWrite = (a.kind != .read) ∧
      (entryCtl s .ia32e a).er = a.ifetch ∧
      (entryCtl s .ia32e a).supervisor = bit (pointersOf (engineOf s a.eng)).desc 8 := by
  unfold entryCtl
  dsimp only
  split <;> exact ⟨rfl, rfl, rfl, rfl⟩

/-- NXE and SMEP are those of the context that the IOMMU supplies. -/
theorem entryCtl_ia32e_context {s : State} {a : Access} {x : IommuCtx}
    (h : onlyContext s a.eng ((pointersOf (engineOf s a.eng)).desc.extractLsb' 9 3) (pasidOf (engineOf s a.eng)) x) :
    (entryCtl s .ia32e a).nxe = x.nxe ∧ (entryCtl s .ia32e a).smep = x.smep := by
  unfold entryCtl
  dsimp only
  rw [contextInForce_of_onlyContext h]
  exact ⟨rfl, rfl⟩

/-- What lets a read pass an IA-32e entry after which it has the rights `made` (R320): the controls `x` matter to a fetch alone. -/
structure ReadPasses (s : State) (a : Access) (x : IommuCtx) (made : Rights) : Prop where
  read : a.kind = .read
  context : a.ifetch = true →
    onlyContext s a.eng ((pointersOf (engineOf s a.eng)).desc.extractLsb' 9 3) (pasidOf (engineOf s a.eng)) x
  user : bit (pointersOf (engineOf s a.eng)).desc 8 = true ∨ made.us = true
  execute : a.ifetch = true → x.nxe = true → made.xd = false

/-- Such a read is not refused for its privilege (R320). -/
theorem ReadPasses.privilege {s : State} {a : Access} {x : IommuCtx} {made : Rights} (h : ReadPasses s a x made) :
    privilegeRefused (entryCtl s .ia32e a) made = false := by
  obtain ⟨_, _, her, hsup⟩ := entryCtl_ia32e_request s a
  have huser : (!(entryCtl s .ia32e a).supervisor && !made.us) = false := by
    rw [hsup]; rcases h.user with hu | hu <;> simp [hu]
  have hfetch : ((entryCtl s .ia32e a).er && (entryCtl s .ia32e a).nxe && made.xd) = false := by
    rw [her]
    cases hf : a.ifetch with
    | false => rfl
    | true =>
      rw [(entryCtl_ia32e_context (h.context hf)).1]
      cases hn : x.nxe with
      | false => rfl
      | true => simp [h.execute hf hn]
  rw [privilegeRefused, huser, hfetch, Bool.or_false]

/-- Nor is a read refused for R/W (R320). -/
theorem ReadPasses.write {s : State} {a : Access} {x : IommuCtx} {made : Rights} (h : ReadPasses s a x made) :
    writeRefused (entryCtl s .ia32e a) made = false := by
  obtain ⟨_, hw, _, _⟩ := entryCtl_ia32e_request s a
  simp [writeRefused, hw, h.read]

/-- Nor by SMEP, where some entry has U/S = 0 for a supervisor fetch (R320). -/
theorem ReadPasses.smep {s : State} {a : Access} {x : IommuCtx} {made : Rights} (h : ReadPasses s a x made)
    (hs : a.ifetch = true → x.smep = true → bit (pointersOf (engineOf s a.eng)).desc 8 = true → made.us = false) :
    smepRefused (entryCtl s .ia32e a) made = false := by
  obtain ⟨_, _, her, hsup⟩ := entryCtl_ia32e_request s a
  rw [smepRefused, her, hsup]
  cases hf : a.ifetch with
  | false => simp
  | true =>
    rw [(entryCtl_ia32e_context (h.context hf)).2]
    cases hm : x.smep with
    | false => simp
    | true =>
      cases hd : bit (pointersOf (engineOf s a.eng)).desc 8 with
      | false => rfl
      | true => simp [hs hf hm hd]

/-! ### IA-32e entries (R171-R177) -/

/-- A present IA-32e entry that points to a table, which SMEP does not look at (R320). -/
theorem entryStep_ia32e_pointer {haw : Nat} {c : WalkCtl} {level : Nat} {ips : Bool} {va : QWord} {acc : Rights} {e : QWord}
    (hd : c.dialect = .ia32e) (hp : bit e 0 = true) (hl : isLeaf .ia32e level e = false)
    (hr : reservedViolated haw level ips e = false) (hu : privilegeRefused c (accumulate acc e) = false)
    (hw : writeRefused c (accumulate acc e) = false) :
    entryStep haw c level ips va acc e =
      .next (level - 1) (addrField haw 12 e) (decide (level = 2) && bit e 11 && c.en64k) := by
  simp [entryStep, hd, hp, hl, hr, hu, hw, entryAddr_eq]

/-- Three bits put together as a number and as a bit vector. -/
theorem ofNat_three_bits (x y z : Bool) :
    BitVec.ofNat 3 (x.toNat * 4 + y.toNat * 2 + z.toNat) = BitVec.ofBool x ++ BitVec.ofBool y ++ BitVec.ofBool z := by
  revert x y z
  decide

/-- PAT, PCD and PWT of a leaf as three bits (R173-R177). -/
theorem typeBitsOf_eq (large : Bool) (e : QWord) :
    typeBitsOf large e =
      BitVec.ofBool (bit e (if large then 12 else 7)) ++ BitVec.ofBool (bit e 4) ++ BitVec.ofBool (bit e 3) := by
  cases large <;> exact ofNat_three_bits _ _ _

/-- A read that an IA-32e pointer lets pass goes to its table with the rights after it. -/
theorem walkEntry_ia32e_pointer {s : State} {e : QWord} {a : Access} {x : IommuCtx} {level : Nat} (hp : bit e 0 = true)
    (hl : isLeaf .ia32e level e = false) (hr : reservedViolated s.params.haw level false e = false)
    (h : ReadPasses s a x (accumulate (entryRights s .ia32e level) e)) :
    walkEntry .ia32e level false e a s = .ok { s with walk :=
      { rights := accumulate (entryRights s .ia32e level) e
        ips := decide (level = 2) && bit e 11 && (entryCtl s .ia32e a).en64k
        result := .next (level - 1) (addrField s.params.haw 12 e)
          (decide (level = 2) && bit e 11 && (entryCtl s .ia32e a).en64k) } } :=
  walkEntry_next (entryStep_ia32e_pointer (entryCtl_ia32e_request s a).1 hp hl hr h.privilege h.write)

/-- A read that an IA-32e leaf lets pass ends in its page. -/
theorem walkEntry_ia32e_leaf {s : State} {e : QWord} {a : Access} {x : IommuCtx} {level : Nat} {ips : Bool} (hp : bit e 0 = true)
    (hl : isLeaf .ia32e level e = true) (hr : reservedViolated s.params.haw level ips e = false)
    (h : ReadPasses s a x (accumulate (entryRights s .ia32e level) e))
    (hs : a.ifetch = true → x.smep = true → bit (pointersOf (engineOf s a.eng)).desc 8 = true →
      (accumulate (entryRights s .ia32e level) e).us = false) :
    walkEntry .ia32e level ips e a s = .ok { s with walk :=
      { rights := Rights.all, ips := false
        result := .translated
          { pa := addrField s.params.haw (leafBits level ips) e + a.va.toNat % 2 ^ leafBits level ips
            pageBits := leafBits level ips
            rights := accumulate (entryRights s .ia32e level) e
            dirty := bit e 6
            typeBits := BitVec.ofBool (bit e (if decide (level ≠ 1) then 12 else 7)) ++ BitVec.ofBool (bit e 4)
              ++ BitVec.ofBool (bit e 3) } } } := by
  have hstep := entryStep_ia32e (va := a.va) (entryCtl_ia32e_request s a).1 hp hr h.privilege (h.smep hs) h.write
  rw [if_pos hl] at hstep
  rw [walkEntry_translated hstep, ← typeBitsOf_eq, ← entryAddr_eq]
  rfl

/-- Settles O31: the three rows are pointers of levels 4, 3 and 2, whose one other reserved bit is PS = 0. -/
theorem ia32ePointerEntries : Obligations.Ia32ePointerEntries := by
  unfold Obligations.Ia32ePointerEntries
  intro s e a x i level hi hwf hread hres desc hctx acc made huser hxd
  simp only [List.mem_cons, Prod.mk.injEq, List.not_mem_nil, or_false] at hi
  rcases hi with ⟨rfl, rfl⟩ | ⟨rfl, rfl⟩ | ⟨rfl, rfl⟩ <;>
  · have hps := ps_of_matchesPat hwf
    exact toOutcome_next.2 (walkEntry_ia32e_pointer (x := x) (present_of_matchesPat hwf (by decide) (by decide))
      (by simp [isLeaf, hps]) (by simp [reservedViolated, hres, hps]) ⟨hread, hctx, huser, hxd⟩)

/-- Settles O32: the four rows are leaves, at level 3 and 2 by PS = 1, whose low address bits are 0. -/
theorem ia32eLeafEntries : Obligations.Ia32eLeafEntries := by
  unfold Obligations.Ia32eLeafEntries
  intro s e a x i k hi hwf hread hres h30 h21 h16 desc hctx acc made huser hxd hsmep
  have hpass : ReadPasses s a x made := ⟨hread, hctx, huser, hxd⟩
  simp only [List.mem_cons, Prod.mk.injEq, List.not_mem_nil, or_false] at hi
  rcases hi with ⟨rfl, rfl⟩ | ⟨rfl, rfl⟩ | ⟨rfl, rfl⟩ | ⟨rfl, rfl⟩
  · exact toOutcome_next.2 (walkEntry_ia32e_leaf (level := 3) (present_of_matchesPat hwf (by decide) (by decide))
      (by simp [isLeaf, ps_of_matchesPat hwf]) (by simp [reservedViolated, hres, h30]) hpass hsmep)
  · exact toOutcome_next.2 (walkEntry_ia32e_leaf (level := 2) (present_of_matchesPat hwf (by decide) (by decide))
      (by simp [isLeaf, ps_of_matchesPat hwf]) (by simp [reservedViolated, hres, h21]) hpass hsmep)
  · exact toOutcome_next.2 (walkEntry_ia32e_leaf (level := 1) (ips := true)
      (present_of_matchesPat hwf (by decide) (by decide)) rfl (by simp [reservedViolated, hres, h16]) hpass hsmep)
  · exact toOutcome_next.2 (walkEntry_ia32e_leaf (level := 1) (ips := false)
      (present_of_matchesPat hwf (by decide) (by decide)) rfl (by simp [reservedViolated, hres]) hpass hsmep)

/-! ### Legacy and Global GTT entries (R178-R186) -/

/-- The controls of a walk without IOMMU (R321). -/
theorem entryCtl_legacy (s : State) {d : Dialect} (a : Access) (hd : d ≠ .ia32e) :
    entryCtl s d a = legacyCtl s.params d (a.kind != .read) := by
  cases d with
  | ia32e => contradiction
  | legacy64 | legacy32 | ggtt => rfl

/-- A present legacy entry that is no leaf points to a table, and the rights stay (R189, R321). -/
theorem walkEntry_legacy_pointer {s : State} {d : Dialect} {level : Nat} {e : QWord} {a : Access} (hd : d ≠ .ia32e)
    (hp : bit e 0 = true) (hl : isLeaf d level e = false) :
    walkEntry d level false e a s = .ok { s with walk :=
      { rights := entryRights s d level
        ips := decide (level = 2) && bit e 11 && s.params.page64k
        result := .next (level - 1) (addrField s.params.haw 12 e) (decide (level = 2) && bit e 11 && s.params.page64k) } } := by
  have hc := entryCtl_legacy s a hd
  have hstep := entryStep_legacy_pointer (haw := s.params.haw) (c := entryCtl s d a) (ips := false) (va := a.va)
    (acc := entryRights s d level) (by rw [hc]; exact hd) hp (by rw [hc]; exact hl)
  rw [walkEntry_next hstep, accumulateIn_other _ _ hd, hc]
  rfl

/-- A present legacy leaf with N = 1 is a Null page, whatever the access (R322). -/
theorem walkEntry_legacy_null {s : State} {level : Nat} {ips : Bool} {e : QWord} {a : Access} (hp : bit e 0 = true)
    (hl : isLeaf .legacy64 level e = true) (hn : bit e 9 = true) :
    walkEntry .legacy64 level ips e a s = .ok { s with walk := ⟨Rights.all, false, .nullPage⟩ } := by
  refine walkEntry_nullPage ((entryStep_legacy_leaf ?_ hp hl).trans (if_pos ⟨?_, hn⟩)) <;> exact Dialect.noConfusion

/-- A present legacy leaf that is no Null page maps its page for a read, and for a write with R/W = 1 (R321). -/
theorem walkEntry_legacy_page {s : State} {level : Nat} {ips : Bool} {e : QWord} {a : Access} (hp : bit e 0 = true)
    (hl : isLeaf .legacy64 level e = true) (hn : bit e 9 = false) (hw : a.kind = .read ∨ bit e 1 = true) :
    walkEntry .legacy64 level ips e a s = .ok { s with walk := ⟨Rights.all, false,
      .translated (leafTranslation s.params.haw .legacy64 level ips a.va e (entryRights s .legacy64 level))⟩ } := by
  have hallowed : ¬((entryCtl s .legacy64 a).isWrite = true ∧ bit e 1 = false) := by
    rw [entryCtl_legacy s a (by decide)]
    rcases hw with hw | hw <;> simp [legacyCtl, hw]
  refine walkEntry_translated ((entryStep_legacy_leaf ?_ hp hl).trans ?_)
  · exact Dialect.noConfusion
  · rw [if_neg (by simp [hn]), if_neg (fun h => hallowed h.2)]
    rfl

/-- A present Global GTT entry maps its page, for reads and writes (R321, R340). -/
theorem walkEntry_ggtt {s : State} {e : QWord} {a : Access} (hp : bit e 0 = true) :
    walkEntry .ggtt 1 false e a s = .ok { s with walk := ⟨Rights.all, false,
      .translated (leafTranslation s.params.haw .ggtt 1 false a.va e (entryRights s .ggtt 1))⟩ } := by
  have hg : (entryCtl s .ggtt a).dialect = .ggtt := rfl
  refine walkEntry_translated ((entryStep_legacy_leaf ?_ hp rfl).trans ?_)
  · exact Dialect.noConfusion
  · rw [if_neg (fun h => h.1 hg), if_neg (fun h => h.1 hg)]
    rfl

/-- The page of a leaf (R312). -/
theorem leafTranslation_page (haw : Nat) (d : Dialect) (level : Nat) (ips : Bool) (va e : QWord) (acc : Rights) :
    (leafTranslation haw d level ips va e acc).pageBits = leafBits level ips ∧
      (leafTranslation haw d level ips va e acc).pa =
        addrField haw (leafBits level ips) e + va.toNat % 2 ^ leafBits level ips :=
  ⟨rfl, by rw [← entryAddr_eq]; rfl⟩

/-- Settles O33: each row is a pointer, at levels 4 and 2 of the two dialects by its level alone, else by PS = 0. -/
theorem legacyPointerEntries : Obligations.LegacyPointerEntries := by
  unfold Obligations.LegacyPointerEntries
  intro s e a i level top hi hwf
  simp only [List.mem_cons, Prod.mk.injEq, List.not_mem_nil, or_false] at hi
  rcases hi with ⟨rfl, rfl, rfl⟩ | ⟨rfl, rfl, rfl⟩ | ⟨rfl, rfl, rfl⟩ | ⟨rfl, rfl, rfl⟩
  · exact ⟨_, toOutcome_next.2 (walkEntry_legacy_pointer (d := .legacy32) (level := 2) (by decide)
      (present_of_matchesPat hwf (by decide) (by decide)) (by simp [isLeaf])), rfl, rfl, rfl, rfl⟩
  · exact ⟨_, toOutcome_next.2 (walkEntry_legacy_pointer (d := .legacy64) (level := 4) (by decide)
      (present_of_matchesPat hwf (by decide) (by decide)) (by simp [isLeaf])), rfl, rfl, rfl, rfl⟩
  · exact ⟨_, toOutcome_next.2 (walkEntry_legacy_pointer (d := .legacy64) (level := 3) (by decide)
      (present_of_matchesPat hwf (by decide) (by decide)) (by simp [isLeaf, ps_of_matchesPat hwf])), rfl, rfl, rfl, rfl⟩
  · exact ⟨_, toOutcome_next.2 (walkEntry_legacy_pointer (d := .legacy64) (level := 2) (by decide)
      (present_of_matchesPat hwf (by decide) (by decide)) (by simp [isLeaf, ps_of_matchesPat hwf])), rfl, rfl, rfl, rfl⟩

/-- What a leaf of the legacy 48-bit dialect does to the machine: N = 1 is a Null page, else the page is mapped. -/
theorem walkEntry_legacy_leaf {s : State} {level : Nat} {ips : Bool} {e : QWord} {a : Access} (hp : bit e 0 = true)
    (hl : isLeaf .legacy64 level e = true) (hw : bit e 9 = true ∨ a.kind = .read ∨ bit e 1 = true) :
    ∃ t, toOutcome (walkEntry .legacy64 level ips e a s) = .next t ∧ t = { s with walk := t.walk } ∧
      (bit e 9 = true → t.walk.result = .nullPage) ∧
      (bit e 9 = false → ∃ x, t.walk.result = .translated x ∧ x.pageBits = leafBits level ips ∧
        x.pa = addrField s.params.haw (leafBits level ips) e + a.va.toNat % 2 ^ leafBits level ips) := by
  cases hn : bit e 9 with
  | true => exact ⟨_, toOutcome_next.2 (walkEntry_legacy_null hp hl hn), rfl, fun _ => rfl, nofun⟩
  | false =>
    have hpage := walkEntry_legacy_page (s := s) (ips := ips) hp hl hn (hw.resolve_left (by simp [hn]))
    exact ⟨_, toOutcome_next.2 hpage, rfl, nofun, fun _ => ⟨_, rfl, leafTranslation_page _ _ _ _ _ _ _⟩⟩

/-- Settles O34: each legacy row is a leaf of its level and page size; a present Global GTT entry maps its page. -/
theorem legacyLeafEntries : Obligations.LegacyLeafEntries := by
  unfold Obligations.LegacyLeafEntries
  refine fun s e a => ⟨fun i k hi hwf hw => ?_, fun hwf => ?_⟩
  · simp only [List.mem_cons, Prod.mk.injEq, List.not_mem_nil, or_false] at hi
    rcases hi with ⟨rfl, rfl⟩ | ⟨rfl, rfl⟩ | ⟨rfl, rfl⟩ | ⟨rfl, rfl⟩
    · exact walkEntry_legacy_leaf (level := 1) (ips := true) (present_of_matchesPat hwf (by decide) (by decide)) rfl hw
    · exact walkEntry_legacy_leaf (level := 1) (ips := false) (present_of_matchesPat hwf (by decide) (by decide)) rfl hw
    · exact walkEntry_legacy_leaf (level := 3) (ips := false) (present_of_matchesPat hwf (by decide) (by decide))
        (by simp [isLeaf, ps_of_matchesPat hwf]) hw
    · exact walkEntry_legacy_leaf (level := 2) (ips := false) (present_of_matchesPat hwf (by decide) (by decide))
        (by simp [isLeaf, ps_of_matchesPat hwf]) hw
  · have hp := present_of_matchesPat hwf (by decide) (by decide)
    exact ⟨_, _, toOutcome_next.2 (walkEntry_ggtt hp), rfl, rfl, leafTranslation_page _ _ _ _ _ _ _⟩

end Sys2Proof.Machine

/-! ## Tiled-resource entries presented as objects (42_trtt.md R400-R404; O36) -/

namespace Sys2Proof.Machine

open Sys2Proof

/-- The access that meets an Invalid tile ends with zeros and the null indicator, and its engine's event is pending (R403). -/
theorem trEntry_invalidTile {a : Access} (s : State) (h : a.tileX = false) :
    trEntry .invalidTile a s = .ok (complete (raiseEvent { s with trWalk := .invalidTile } a.eng .trttInvalidTile)
      ⟨.invalidTile, 0, true, 0, 0, .wb, faultModeBits (pointersOf (engineOf s a.eng)).desc⟩) := by
  simp [trEntry, noteTile, h]

/-- The access that meets a Null tile ends with zeros and the null indicator, and is counted (R402). -/
theorem trEntry_nullTile {a : Access} (s : State) (h : a.tileX = false) :
    trEntry .nullTile a s = .ok (complete
      { s with trWalk := .nullTile, regs := { s.regs with nullTileCount := s.regs.nullTileCount + 1 } }
      ⟨.nullTile, 0, true, 0, 0, .wb, faultModeBits (pointersOf (engineOf s a.eng)).desc⟩) := by
  simp [trEntry, noteTile, h]

/-- Any other end of the step is latched, and that is all. -/
theorem trEntry_other {x : TrEnd} (a : Access) (s : State) (hi : x ≠ .invalidTile) (hn : x ≠ .nullTile) :
    trEntry x a s = .ok { s with trWalk := x } := by
  cases x with
  | invalidTile | nullTile => contradiction
  | _ => rfl

/-- What an entry that is Invalid, else Null, else leads on, does to the machine (R400, R404). -/
theorem trEntry_ends {s : State} {a : Access} {invalid null : Prop} [Decidable invalid] [Decidable null] {next x : TrEnd}
    (htile : a.tileX = false) (hx : x = if invalid then .invalidTile else if null then .nullTile else next)
    (hi : next ≠ .invalidTile) (hn : next ≠ .nullTile) :
    let mode := faultModeBits (pointersOf (engineOf s a.eng)).desc
    ∃ t, toOutcome (trEntry x a s) = .next t ∧ sameMemory s t ∧
      (invalid → t.trWalk = .invalidTile ∧ t.completion = ⟨.invalidTile, 0, true, 0, 0, .wb, mode⟩ ∧
        .trttInvalidTile ∈ (engineOf t a.eng).events ∧ t.regs = s.regs) ∧
      (¬invalid → null → t.trWalk = .nullTile ∧ t.completion = ⟨.nullTile, 0, true, 0, 0, .wb, mode⟩ ∧
        t.regs = { s.regs with nullTileCount := s.regs.nullTileCount + 1 } ∧ t.engines = s.engines) ∧
      (¬invalid → ¬null → t = { s with trWalk := next }) := by
  by_cases hinv : invalid
  · rw [hx, if_pos hinv, trEntry_invalidTile s htile]
    refine ⟨_, rfl, fun _ => rfl, fun _ => ⟨rfl, rfl, ?_, rfl⟩, fun h => absurd hinv h, fun h => absurd hinv h⟩
    rw [engineOf_complete, engineOf_raiseEvent, if_pos rfl]
    exact mem_addEvent _ _
  · by_cases hnull : null
    · rw [hx, if_neg hinv, if_pos hnull, trEntry_nullTile s htile]
      exact ⟨_, rfl, fun _ => rfl, fun h => absurd h hinv, fun _ _ => ⟨rfl, rfl, rfl, rfl⟩, fun _ h => absurd hnull h⟩
    · rw [hx, if_neg hinv, if_neg hnull, trEntry_other a s hi hn]
      exact ⟨_, rfl, fun _ => rfl, fun h => absurd h hinv, fun _ h => absurd h hnull, fun _ _ => rfl⟩

/-- The new address: the entry in bits 47:16 over the low bits of the address (R192). -/
theorem newVa_eq (e : Word) (va : QWord) :
    BitVec.ofNat 64 (e.toNat * 65536 + field va 0 16) = (0#16 ++ e ++ va.extractLsb' 0 16 : QWord) := by
  apply BitVec.eq_of_toNat_eq
  have hlow : (va.extractLsb' 0 16).toNat < 2 ^ 16 := (va.extractLsb' 0 16).isLt
  have he := e.isLt
  rw [BitVec.toNat_append, BitVec.toNat_append, ← Nat.shiftLeft_add_eq_or_of_lt hlow, BitVec.toNat_ofNat, field]
  simp only [BitVec.toNat_ofNat, Nat.zero_mod, Nat.shiftLeft_eq, Nat.zero_mul, Nat.zero_or]
  omega

/-- Settles O36: bit 0 before bit 1, the Invalid value before the Null value, as the steps of the walk test them. -/
theorem trttEntries : Obligations.TrttEntries := by
  unfold Obligations.TrttEntries
  refine fun s a htile => ⟨fun e i hi => ?_, fun e => ?_⟩
  · simp only [List.mem_cons, List.not_mem_nil, or_false] at hi
    rcases hi with rfl | rfl <;> exact trEntry_ends htile rfl TrEnd.noConfusion TrEnd.noConfusion
  · rw [← newVa_eq]
    exact trEntry_ends htile rfl TrEnd.noConfusion TrEnd.noConfusion

end Sys2Proof.Machine

/-! ## Index splits and MI_UPDATE_GTT (30_encoding.md R205, R206; O38, O39) -/

namespace Sys2Proof.Machine

open Sys2Proof

/-- A field of a value that is only widened. -/
theorem field_setWidth_of_le {n m : Nat} (w : BitVec n) (lo len : Nat) (h : n ≤ m) :
    field (w.setWidth m) lo len = field w lo len := by
  rw [field_eq, field_eq, BitVec.toNat_setWidth_of_le h]

/-- Settles O38: the fields of a split are consecutive and together all of the address. -/
theorem indexSplits : Obligations.IndexSplits := by
  unfold Obligations.IndexSplits
  intro s v w
  have hv := v.isLt
  have hw := w.isLt
  refine ⟨⟨_, rfl, ?_⟩, ⟨_, rfl, ?_⟩, ⟨_, rfl, ?_⟩, ⟨_, rfl, ?_⟩⟩
  · simp only [splitVa, levelIndex, index64k, field_setWidth_of_le v _ _ (show 48 ≤ 64 by omega), field_eq]
    omega
  · simp only [splitVa32, levelIndex, index64k, field_setWidth_of_le w _ _ (show 32 ≤ 64 by omega), field_eq]
    omega
  · simp only [splitGgtt, field_setWidth_of_le w _ _ (show 32 ≤ 64 by omega), field_eq]
    omega
  · simp only [splitTrtt, field_setWidth_of_le v _ _ (show 48 ≤ 64 by omega), field_eq]
    omega

/-- The entry of the GGTT that an address names (R206). -/
theorem ggttEntryOffset_eq (v : Word) : ggttEntryOffset v = v.toNat / 4096 * 8 := by
  have := v.isLt
  rw [ggttEntryOffset, field_eq]
  omega

/-- MI_UPDATE_GTT within the table latches the offset and stores the entry there (R206). -/
theorem updateGgtt_store {s : State} {v : Word} (a : GttUpdateArgs) (hin : ggttEntryOffset v + 8 ≤ s.params.gsmSize)
    (hp : physExists s (s.params.gsmBase + ggttEntryOffset v) 8 = true) :
    updateGgtt v a s = .ok (store { s with ggttOffset := ggttEntryOffset v } (s.params.gsmBase + ggttEntryOffset v) 8 a.entry
      Writer.ggtt) := by
  have hcheck := (checkPhys_ok { s with ggttOffset := ggttEntryOffset v } (s.params.gsmBase + ggttEntryOffset v) 8).2 hp
  simp only [updateGgtt, if_neg (Nat.not_lt.2 hin), hcheck]
  rfl

/-- Settles O39: the store reads back and leaves the other bytes. -/
theorem updateGttStoresTheEntry : Obligations.UpdateGttStoresTheEntry := by
  unfold Obligations.UpdateGttStoresTheEntry
  intro s v a hmem off pa hin hp
  have hoff : off = ggttEntryOffset v := (ggttEntryOffset_eq v).symm
  have hstore : updateGgtt v a s = .ok (store { s with ggttOffset := off } pa 8 a.entry Writer.ggtt) := by
    simp only [pa, hoff] at hin hp ⊢
    exact updateGgtt_store a hin hp
  exact ⟨_, toOutcome_next.2 hstore, rfl, mem64_store_same _ _ _ _ hmem, memRead_store_outside _ _ _ _ _, rfl⟩

end Sys2Proof.Machine

/-! ## The HDC port and the codes that travel with requests (30_encoding.md R196-R199; O28, O40, O41, O43, O44) -/

namespace Sys2Proof.Machine

open Sys2Proof

/-! ### A page request of an HDC in the Global GTT mode (R197, R340, R376) -/

/-- A walk of the Global GTT that may use no retained value ends in the page of a present entry (R340). -/
theorem walkGgtt_present {s : State} {e : Engine} {c : WalkCtl} {fresh : Bool} {va : QWord} (hd : c.dialect = .ggtt)
    (had : c.ad = false) (hr : fresh = true ∨ nothingRetained s e = true) (hp : ggttPresent s va = true) :
    walkGgtt e c fresh va s =
      .ok (.translated (leafTranslation s.params.haw .ggtt 1 false va (mem64 s (ggttSlot s va)) Rights.all), s) := by
  simp only [ggttPresent, Bool.and_eq_true, decide_eq_true_eq] at hp
  obtain ⟨⟨hin, hexists⟩, hbit⟩ := hp
  have hread := readEntry_plain fresh va 1 false hr had hexists
  have hstep := entryStep_legacy_leaf (haw := s.params.haw) (c := c) (level := 1) (ips := false) (va := va)
    (acc := Rights.all) (by rw [hd]; decide) hbit rfl
  rw [if_neg (fun h => h.1 hd), if_neg (fun h => h.1 hd), hd] at hstep
  rw [ggttSlot] at hread hstep ⊢
  simp only [walkGgtt, if_neg (Nat.not_lt.2 hin), hread, bind, Except.bind, hstep, pure, Except.pure]

/-- The page request of an HDC that resolved to a page of memory is answered with its translation (R376). -/
theorem perform_hdc {s : State} {r : Request} {t : Translation} {n : Nat} {h : HdcRequest} (ho : r.origin = .hdc h)
    (hp : physExists s t.pa n = true) :
    perform s r [⟨.pa t, n⟩] = .ok (sendHdcResponse
      (advanceDraws (complete s ⟨.done, 0, false, 0, t.pa, reportedType s r t, faultModeBits r.desc⟩) 8) h
      (hdcPageResponse s r h (some t) (reportedType s r t))) := by
  have hc : checkPhys s t.pa n = .ok () := (checkPhys_ok _ _ _).2 hp
  simp [perform, checkPieces, piecesStatus, piecesTranslation, ho, hc, bind, Except.bind, pure, Except.pure, noteTiles_pa]

/-- While the service path is open a response goes out at once (R375). -/
theorem sendHdcResponse_open {s : State} (h : HdcRequest) (g : GamResponse) (ho : s.hdc.serviceOff = false) :
    sendHdcResponse s h g = { s with inputs := .message (.gamPageResponse g) :: s.inputs } := by
  simp [sendHdcResponse, ho]

/-- The request that GAM serves for an HDC under the loaded context (R376). -/
abbrev hdcLoaded (s : State) (h : HdcRequest) (c : DescRegs) : Request := loadedRequest s (hdcAccess h) c.desc (.hdc h) []

/-- The translation that a present Global GTT entry gives the page of an HDC's request (R340). -/
abbrev hdcTranslation (s : State) (h : HdcRequest) : Translation :=
  leafTranslation s.params.haw .ggtt 1 false (h.vaPage <<< 12) (mem64 s (ggttSlot s (h.vaPage <<< 12))) Rights.all

/-- Its physical address. -/
theorem hdcTranslation_pa (s : State) (h : HdcRequest) : (hdcTranslation s h).pa = ggttTarget s (h.vaPage <<< 12) :=
  (leafTranslation_page _ _ _ _ _ _ _).2

/-- A page request in a context in the Global GTT mode is translated by the entry of its page. -/
theorem translate_hdcLoaded {s : State} {h : HdcRequest} {c : DescRegs} (hmode : walkMode c.desc = .ggtt)
    (hkept : nothingRetained s .rcs = true) (hp : ggttPresent s (h.vaPage <<< 12) = true) (isWrite : Bool) :
    translate s (hdcLoaded s h c) (h.vaPage <<< 12) isWrite false =
      .ok (.translated (hdcTranslation s h), advanceDraws s 8) := by
  have hwalk : walkModeOf (hdcLoaded s h c) = .ggtt := by
    simp [walkModeOf, usesGgtt, loadedRequest, hmode]
  refine translate_of_walk ?_ rfl
  rw [walkOnce, hwalk]
  exact walkGgtt_present rfl rfl (.inr hkept) hp

/-- The page request of an HDC whose engine serves at once is answered with the translation. -/
theorem serveLoaded_hdc {s : State} {h : HdcRequest} {c : DescRegs} (hctx : (engineOf s .rcs).ctx = some c)
    (hmode : walkMode c.desc = .ggtt) (hserves : servesNow s .rcs = true) (hkept : nothingRetained s .rcs = true)
    (htr : trttOn s = false) (hp : ggttPresent s (h.vaPage <<< 12) = true) :
    serveLoaded s (hdcAccess h) (.hdc h) [] =
      perform (advanceDraws s 8) (hdcLoaded s h c) [⟨.pa (hdcTranslation s h), 1⟩] := by
  have hwalk : (hdcLoaded s h c).isAccess = false := rfl
  have hone : inOnePage (hdcAccess h) = true := decide_eq_true (Nat.mod_lt _ (by omega))
  calc serveLoaded s (hdcAccess h) (.hdc h) []
      = serve s (hdcLoaded s h c) false := by
        have hctx' : (engineOf s (hdcAccess h).eng).ctx = some c := hctx
        simp only [serveLoaded, hctx']
    _ = serveNow s (hdcLoaded s h c) false .take :=
        serve_now false hserves (keepsBehind_walk hwalk) (keepsFurther_walk hwalk) (outstandingBefore_walk hwalk)
    _ = _ := serveNow_one ⟨rfl, rfl, le_refl _⟩ rfl hone htr (translate_hdcLoaded hmode hkept hp _) rfl rfl

/-- The machine with a request of an HDC pending, which holds a credit (R376). -/
abbrev withPending (s : State) (h : HdcRequest) : State := { s with hdc := { s.hdc with pending := s.hdc.pending ++ [h] } }

/-- A valid request within the credits is pending from then on and is served (R376). -/
theorem hdcPageRequest_served {s : State} {h : HdcRequest} (hv : h.valid = true) (hc : creditsUsed s.hdc h.src < 2)
    (ho : s.hdc.serviceOff = false) :
    hdcPageRequest h s = serveLoaded (withPending s h) (hdcAccess h) (.hdc h) [] := by
  rw [hdcPageRequest, if_neg (by simp [hv, hc]), if_neg (by simp [ho])]

/-- Settles O40: the request is pending, its page is found in the Global GTT, and the response goes out. -/
theorem hdcRequestIsTranslated : Obligations.HdcRequestIsTranslated := by
  unfold Obligations.HdcRequestIsTranslated
  intro s h c _ hv hcredit hopen hctx hmode hserves hkept htr hp pa hexists
  have hpa : (hdcTranslation (withPending s h) h).pa = pa := hdcTranslation_pa _ h
  have hserved := (hdcPageRequest_served hv hcredit hopen).trans
    (serveLoaded_hdc (s := withPending s h) hctx hmode hserves hkept htr hp)
  rw [perform_hdc (h := h) rfl (by rw [hpa]; exact hexists), sendHdcResponse_open h _ (by exact hopen)] at hserved
  refine ⟨_, _, toOutcome_next.2 hserved, rfl, rfl, rfl, ?_, rfl, rfl, rfl, rfl, rfl, fun _ => rfl, rfl⟩
  rw [← hpa]; rfl

/-! ### Responses to an HDC (R197, R376) -/

/-- A valid response to a pending request claims it: its credit is free, and a translation enters the mini-TLB (R376). -/
theorem gamPageResponse_claimed {s : State} {g : GamResponse} {h : HdcRequest} (hv : g.valid = true)
    (hfind : s.hdc.pending.find? (answers g) = some h) :
    gamPageResponse g s = { s with hdc := { s.hdc with
      pending := s.hdc.pending.erase h
      miniTlb := s.hdc.miniTlb ++
        (if g.code = 0 ∧ g.kind = .translation then [⟨g.dst, h.vaPage, g.pa, g.isWrite, g.memType⟩] else []) } } := by
  rw [gamPageResponse, if_pos hv, hfind]

/-- A response that is not valid, or answers no pending request, is claimed by no HDC. -/
theorem gamPageResponse_unclaimed {s : State} {g : GamResponse}
    (h : g.valid = false ∨ s.hdc.pending.find? (answers g) = none) : gamPageResponse g s = s := by
  have hnone : (if g.valid then s.hdc.pending.find? (answers g) else none) = none := by
    rcases h with hv | hfind
    · rw [if_neg (by simp [hv])]
    · rw [hfind, ite_self]
  rw [gamPageResponse, hnone]

/-- Settles O41: a response claims the request it answers, if it is valid and there is one. -/
theorem gamResponseReleasesTheCredit : Obligations.GamResponseReleasesTheCredit := by
  unfold Obligations.GamResponseReleasesTheCredit
  exact fun s g => ⟨fun h hv hfind => congrArg Host.Outcome.next (gamPageResponse_claimed hv hfind),
    fun hnone => congrArg Host.Outcome.next (gamPageResponse_unclaimed hnone)⟩

/-! ### Fault codes and fault models (R198, R801, R821) -/

/-- Code 00 presented as a fault completes (R801). -/
theorem presentFault_none (desc : QWord) (a : FaultArgs) (s : State) :
    presentFault desc a 0 s = .ok (complete s ⟨.done, 0, false, 0, 0, .wb, 0⟩) := if_pos rfl

/-- A fault for which no mode is given stops as the choice of the mode does (R821). -/
theorem presentFault_refused {desc : QWord} {a : FaultArgs} {code : BitVec 2} {s : State} {why : Refusal} (hc : code ≠ 0)
    (hm : faultModeOf s (ownRequest s a.acc desc) = refuse why) : presentFault desc a code s = refuse why := by
  rw [presentFault, if_neg hc, takePageFault, hm]
  rfl

/-- Settles O28: each of the five objects presents code 00. -/
theorem faultCodeZeroIsNoFault : Obligations.FaultCodeZeroIsNoFault := by
  unfold Obligations.FaultCodeZeroIsNoFault
  refine fun s d a => ⟨toOutcome_next.2 (presentFault_none (faultDesc s a.acc.eng) a s), fun hcode i hi => ?_⟩
  have hnone : toOutcome (presentFault d a a.code s) = .next (complete s ⟨.done, 0, false, 0, 0, .wb, 0⟩) := by
    rw [hcode, presentFault_none, toOutcome_ok]
  simp only [List.mem_cons, List.not_mem_nil, or_false] at hi
  rcases hi with rfl | rfl | rfl | rfl <;> exact hnone

/-- Settles O43: each object latches its type and the control bits of that type. -/
theorem memoryTypeCodes : Obligations.MemoryTypeCodes := by
  unfold Obligations.MemoryTypeCodes
  refine fun s a => ⟨rfl, rfl, rfl, ?_, rfl⟩
  obtain ⟨isWrite⟩ := a
  cases isWrite <;> rfl

/-- Settles O44: the reserved codes have no meaning; without the override the Fault Model field decides, and its values 11 and 00
stop. -/
theorem reservedCodesStop : Obligations.ReservedCodesStop := by
  unfold Obligations.ReservedCodesStop
  refine fun s y => ⟨rfl, rfl, rfl, rfl, fun d a hover hd hg hclient hcode => ?_⟩
  have hmode := faultModeOf_field (s := s) (r := ownRequest s a.acc d) (usesGgtt_false hg hclient hd) hd hover
  refine ⟨fun hfield => ?_, fun hfield => ?_⟩
  · have hrefused := hmode.trans (by rw [show field (ownRequest s a.acc d).desc 6 2 = 3 from hfield])
    exact congrArg toOutcome (presentFault_refused hcode hrefused)
  · have hrefused := hmode.trans (by rw [show field (ownRequest s a.acc d).desc 6 2 = 0 from hfield])
    exact congrArg toOutcome (presentFault_refused hcode hrefused)

end Sys2Proof.Machine

/-! ## The tiling functions (40_tiling.md R240-R285; O51-O54) -/

namespace Sys2Proof.Machine

open Sys2Proof

/-! ### Swizzle rows (R260, R261) -/

/-- The address bits of two parts of a row, one above the other. -/
theorem offsetInTile_append (u v ss : Nat) (l r : List Src) :
    offsetInTile u v ss (l ++ r) = offsetInTile u v ss l + 2 ^ l.length * offsetInTile u v ss r := by
  induction l with
  | nil => simp [offsetInTile]
  | cons b l ih =>
    rw [List.cons_append, offsetInTile, offsetInTile, ih, List.length_cons, Nat.pow_succ']
    ring

/-- `n` address bits that are consecutive bits of one coordinate, from bit `lo` of it upward. -/
abbrev bitRun (src : Nat → Src) (lo n : Nat) : List Src := (List.range' lo n).map src

/-- A run of consecutive bits of a coordinate is a field of it. -/
theorem offsetInTile_bitRun {u v ss x : Nat} {src : Nat → Src} (hsrc : ∀ i, srcBit u v ss (src i) = nbit x i) (lo n : Nat) :
    offsetInTile u v ss (bitRun src lo n) = x / 2 ^ lo % 2 ^ n := by
  induction n generalizing lo with
  | zero => simp [bitRun, offsetInTile, Nat.mod_one]
  | succ n ih =>
    rw [bitRun, List.range'_succ, List.map_cons, offsetInTile, hsrc, ih, nbit, pow_succ' 2 n, Nat.mod_mul,
      Nat.div_div_eq_div_mul, ← pow_succ]

@[simp] theorem offsetInTile_uRun (u v ss lo n : Nat) : offsetInTile u v ss (bitRun .u lo n) = u / 2 ^ lo % 2 ^ n :=
  offsetInTile_bitRun (fun _ => rfl) lo n

@[simp] theorem offsetInTile_vRun (u v ss lo n : Nat) : offsetInTile u v ss (bitRun .v lo n) = v / 2 ^ lo % 2 ^ n :=
  offsetInTile_bitRun (fun _ => rfl) lo n

@[simp] theorem offsetInTile_ssRun (u v ss lo n : Nat) : offsetInTile u v ss (bitRun .ss lo n) = ss / 2 ^ lo % 2 ^ n :=
  offsetInTile_bitRun (fun _ => rfl) lo n

/-- The place in the tile is made of all its address bits and of nothing else. -/
theorem offsetInTile_inj {u v ss u' v' ss' : Nat} (bits : List Src) :
    offsetInTile u v ss bits = offsetInTile u' v' ss' bits ↔ ∀ b ∈ bits, srcBit u v ss b = srcBit u' v' ss' b := by
  induction bits with
  | nil => simp [offsetInTile]
  | cons b r ih =>
    rw [List.forall_mem_cons, ← ih, offsetInTile, offsetInTile]
    have h := srcBit_lt u v ss b
    have h' := srcBit_lt u' v' ss' b
    omega

/-! ### No two elements share an offset (R254) -/

/-- TileID numbers the tiles of a surface row by row, so that each column of tiles within the pitch has its own (R261). -/
theorem tileId_inj {cv cu u v u' v' pitch : Nat} (hp : pitch % 2 ^ cu = 0) (hu : u < pitch) (hu' : u' < pitch)
    (h : tileId cv cu u v pitch = tileId cv cu u' v' pitch) : u / 2 ^ cu = u' / 2 ^ cu ∧ v / 2 ^ cv = v' / 2 ^ cv := by
  have hcol : ∀ x, x < pitch → x / 2 ^ cu < pitch / 2 ^ cu := fun x hx =>
    Nat.div_lt_div_of_lt_of_dvd (Nat.dvd_of_mod_eq_zero hp) hx
  have htile (y x : Nat) (hx : x < pitch) : tileId cv cu x y pitch % (pitch / 2 ^ cu) = x / 2 ^ cu := by
    rw [tileId, Nat.mul_add_mod_self_right, Nat.mod_eq_of_lt (hcol x hx)]
  have hcols : u / 2 ^ cu = u' / 2 ^ cu := by rw [← htile v u hu, h, htile v' u' hu']
  rw [tileId, tileId, hcols, Nat.add_right_cancel_iff] at h
  exact ⟨hcols, Nat.eq_of_mul_eq_mul_right (Nat.zero_lt_of_lt (hcol u hu)) h⟩

/-- Under a row that names every bit of the place in a tile, an offset belongs to one element only. -/
theorem swizzledOffset_inj {w : Swizzle} (hcu : ∀ i < w.cu, .u i ∈ w.bits) (hcv : ∀ i < w.cv, .v i ∈ w.bits)
    {u v ss u' v' ss' pitch : Nat} (hp : pitch % 2 ^ w.cu = 0) (hu : u < pitch) (hu' : u' < pitch)
    (h : swizzledOffset w u v ss pitch = swizzledOffset w u' v' ss' pitch) : u = u' ∧ v = v' := by
  have hbits : ∀ b ∈ w.bits, srcBit u v ss b = srcBit u' v' ss' b := by
    rw [← offsetInTile_inj, ← swizzledOffset_inTile w u v ss pitch, h, swizzledOffset_inTile]
  have hrun {n : Nat} {src : Nat → Src} (hin : ∀ i < n, src i ∈ w.bits) :
      offsetInTile u v ss (bitRun src 0 n) = offsetInTile u' v' ss' (bitRun src 0 n) := by
    refine (offsetInTile_inj _).2 fun b hb => ?_
    obtain ⟨i, hi, rfl⟩ := List.mem_map.1 hb
    exact hbits _ (hin i (by simpa using hi))
  obtain ⟨hcol, hrow⟩ := tileId_inj hp hu hu' (by rw [← swizzledOffset_tile w u v ss pitch, h, swizzledOffset_tile])
  have hx : u % 2 ^ w.cu = u' % 2 ^ w.cu := by simpa using hrun hcu
  have hy : v % 2 ^ w.cv = v' % 2 ^ w.cv := by simpa using hrun hcv
  constructor
  · rw [← Nat.div_add_mod u (2 ^ w.cu), ← Nat.div_add_mod u' (2 ^ w.cu), hcol, hx]
  · rw [← Nat.div_add_mod v (2 ^ w.cv), ← Nat.div_add_mod v' (2 ^ w.cv), hrow, hy]

/-- Settles O53: each legacy row names every bit of the place in its tile. -/
theorem legacyTilesAreInjective : Obligations.LegacyTilesAreInjective := by
  unfold Obligations.LegacyTilesAreInjective
  intro w hw x y x' y' pitch hp hx hx' h
  simp only [List.mem_cons, List.not_mem_nil, or_false] at hw
  rcases hw with rfl | rfl | rfl <;> exact swizzledOffset_inj (by decide) (by decide) hp hx hx' h

/-! ### Offsets and addresses (R243, R250-R253, R260-R263, R283) -/

/-- The offset of an element whose place in the tile is `inTile`, for tiles of `size` bytes in `height` rows of `width` (R261). -/
theorem swizzledOffset_eq {w : Swizzle} {size height width u v ss inTile : Nat} (pitch : Nat) (hsize : 2 ^ w.bits.length = size)
    (hheight : 2 ^ w.cv = height) (hwidth : 2 ^ w.cu = width) (h : offsetInTile u v ss w.bits = inTile) :
    swizzledOffset w u v ss pitch = size * (v / height * (pitch / width) + u / width) + inTile := by
  rw [swizzledOffset, tileId, h, hsize, hheight, hwidth, Nat.mul_comm size]

/-- The same for tiles of 4 KB as the legacy formulas write it, with the pitch in tiles as the first factor (R251-R253). -/
theorem swizzledOffset_legacy {w : Swizzle} {height width u v ss inTile : Nat} (pitch : Nat) (hsize : 2 ^ w.bits.length = 4096)
    (hheight : 2 ^ w.cv = height) (hwidth : 2 ^ w.cu = width) (h : offsetInTile u v ss w.bits = inTile) :
    swizzledOffset w u v ss pitch = 4096 * (pitch / width * (v / height) + u / width) + inTile := by
  rw [swizzledOffset_eq pitch hsize hheight hwidth h, Nat.mul_comm (pitch / width)]

/-- The preconditions of a tiled surface (R244, R285); the sample slice is one of them in TileYS alone, whose row has sample bits
(R263). -/
theorem tileOffset_tiled {m : TileMode} {e : ElemBits} {sm : Samples} {w : Swizzle} {ss u v pitch : Nat} (base : Nat)
    (hw : swizzleOf m e sm = .ok (.tiled w)) (hb : base % baseAlign m = 0) (hp : pitch % 2 ^ w.cu = 0)
    (hmax : pitch ≤ 262144) (hs : m = .ys → ss < 2 ^ samplesLog sm)
    (ho : swizzledOffset w u v ss pitch + elemBitsOf e / 8 ≤ maxSurface) :
    tileOffset m e sm ss u v pitch base = .ok (some (swizzledOffset w u v ss pitch)) := by
  have hslice : ¬(m = .ys ∧ 2 ^ samplesLog sm ≤ ss) := fun h => Nat.not_le.2 (hs h.1) h.2
  simp [tileOffset, checkedRow_of pitch base hw (.inl rfl), bind, Except.bind, checkTiled_ok e sm hb hp hmax, hslice,
    withinSurface_some ho, pure, Except.pure]

/-- A tiling object whose preconditions hold latches the offset that its row gives, and the address (R261, R283). -/
theorem tileObject_tiled {m : TileMode} {a : TileArgs} {w : Swizzle} {o : Nat} (s : State)
    (hw : swizzleOf m a.elem a.samples = .ok (.tiled w)) (hb : a.base.toNat % baseAlign m = 0)
    (hp : a.pitch.toNat % 2 ^ w.cu = 0) (hmax : a.pitch.toNat ≤ 262144) (hs : m = .ys → a.ss.toNat < 2 ^ samplesLog a.samples)
    (hoff : swizzledOffset w a.u.toNat a.v.toNat a.ss.toNat a.pitch.toNat = o) (ho : o + elemBitsOf a.elem / 8 ≤ 2 ^ 38) :
    toOutcome (tileObject m a s) = .next { s with tile := ⟨o, a.base + BitVec.ofNat 64 o, 0, 0⟩ } := by
  subst hoff
  exact toOutcome_next.2 (tileObject_of (tileOffset_tiled _ hw hb hp hmax hs ho))

/-- The place in a tile of TileX (R253). -/
theorem offsetInTile_swizzleX (u v ss : Nat) : offsetInTile u v ss swizzleX.bits = 512 * (v % 8) + u % 512 := by
  have hbits : swizzleX.bits = bitRun .u 0 9 ++ bitRun .v 0 3 := rfl
  simp [hbits, offsetInTile_append, Nat.add_comm]

/-- The place in a tile of TileY (R251). -/
theorem offsetInTile_swizzleY (u v ss : Nat) :
    offsetInTile u v ss swizzleY.bits = 512 * (u % 128 / 16) + 16 * (v % 32) + u % 16 := by
  have hbits : swizzleY.bits = bitRun .u 0 4 ++ (bitRun .v 0 5 ++ bitRun .u 4 3) := rfl
  simp only [hbits, offsetInTile_append, offsetInTile_uRun, offsetInTile_vRun, List.length_map, List.length_range']
  omega

/-- The place in a tile of TileW (R252). -/
theorem offsetInTile_swizzleW (u v ss : Nat) :
    offsetInTile u v ss swizzleW.bits = 512 * (u % 64 / 8) + 64 * (v % 64 / 8) + 32 * (v % 64 / 4 % 2)
      + 16 * (u % 64 / 4 % 2) + 8 * (v % 64 / 2 % 2) + 4 * (u % 64 / 2 % 2) + 2 * (v % 64 % 2) + u % 64 % 2 := by
  have hbits : swizzleW.bits = [.u 0, .v 0, .u 1, .v 1, .u 2, .v 2] ++ (bitRun .v 3 3 ++ bitRun .u 3 3) := rfl
  simp only [hbits, offsetInTile_append, offsetInTile_uRun, offsetInTile_vRun, List.length_map, List.length_range',
    offsetInTile, srcBit, nbit, List.length_cons, List.length_nil]
  omega

/-- Settles O51: the place in the tile that each row names is that of the mode's formula. -/
theorem legacyTileOffsets : Obligations.LegacyTileOffsets := by
  unfold Obligations.LegacyTileOffsets
  intro s a hb hmax
  refine ⟨fun hp ho => ?_, fun hp ho => ?_, fun hp ho => ?_⟩
  · exact tileObject_tiled (m := .x) s rfl hb hp hmax TileMode.noConfusion
      (swizzledOffset_legacy _ rfl rfl rfl (offsetInTile_swizzleX _ _ _)) ho
  · exact tileObject_tiled (m := .y) s rfl hb hp hmax TileMode.noConfusion
      (swizzledOffset_legacy _ rfl rfl rfl (offsetInTile_swizzleY _ _ _)) ho
  · exact tileObject_tiled (m := .w) s rfl hb hp hmax TileMode.noConfusion
      (swizzledOffset_legacy _ rfl rfl rfl (offsetInTile_swizzleW _ _ _)) ho

/-- The place in the tile of 4 KB that all of TileYF and the low part of TileYS share, for each class of element sizes (R260). -/
def placeIn4K (u v : Nat) : SizeClass → Nat
  | .c8 => u % 16 + 16 * (v % 32) + 512 * nbit u 4 + 1024 * nbit v 5 + 2048 * nbit u 5
  | .c16 => u % 16 + 16 * (v % 8) + 128 * nbit u 4 + 256 * nbit v 3 + 512 * nbit u 5 + 1024 * nbit v 4 + 2048 * nbit u 6
  | .c64 => u % 16 + 16 * (v % 4) + 64 * (u / 16 % 4) + 256 * nbit v 2 + 512 * nbit u 6 + 1024 * nbit v 3 + 2048 * nbit u 7

/-- The address bits of a class's 4 KB tile, with the runs among them. -/
theorem yfBits_eq (c : SizeClass) : yfBits c = bitRun .u 0 4 ++ match c with
    | .c8 => bitRun .v 0 5 ++ [.u 4, .v 5, .u 5]
    | .c16 => bitRun .v 0 3 ++ [.u 4, .v 3, .u 5, .v 4, .u 6]
    | .c64 => bitRun .v 0 2 ++ (bitRun .u 4 2 ++ [.v 2, .u 6, .v 3, .u 7]) := by
  cases c <;> rfl

theorem offsetInTile_yfBits (u v ss : Nat) (c : SizeClass) : offsetInTile u v ss (yfBits c) = placeIn4K u v c := by
  cases c <;>
    simp only [yfBits_eq, offsetInTile_append, offsetInTile_uRun, offsetInTile_vRun, List.length_map, List.length_range',
      offsetInTile, srcBit, placeIn4K] <;>
    omega

/-- Bits 12 to 15 of a TileYS offset: v and u bits in turn, of which the bits of the sample's index take the place from the top
down (R263). -/
def ysUpperBits (c : SizeClass) : Samples → List Src
  | .s1 => [.v (yfCv c), .u (yfCu c), .v (yfCv c + 1), .u (yfCu c + 1)]
  | .s2 => [.v (yfCv c), .u (yfCu c), .v (yfCv c + 1)] ++ bitRun .ss 0 1
  | .s4 => [.v (yfCv c), .u (yfCu c)] ++ bitRun .ss 0 2
  | .s8 => [.v (yfCv c)] ++ bitRun .ss 0 3
  | .s16 => bitRun .ss 0 4

/-- TileYS is TileYF's tile with four more address bits; each doubling of the samples halves the tile's width or its height (R263). -/
theorem swizzleYs_eq (c : SizeClass) (sm : Samples) :
    swizzleYs c (samplesLog sm) = ⟨yfCv c + 2 - samplesLog sm / 2, yfCu c + 2 - (samplesLog sm + 1) / 2,
      yfBits c ++ ysUpperBits c sm⟩ := by
  cases sm <;> rfl

/-- The number that bits 12 to 15 of a TileYS offset make, of a slice in range. -/
def ysUpper (u v ss cv cu : Nat) : Samples → Nat
  | .s1 => nbit v cv + 2 * nbit u cu + 4 * nbit v (cv + 1) + 8 * nbit u (cu + 1)
  | .s2 => nbit v cv + 2 * nbit u cu + 4 * nbit v (cv + 1) + 8 * ss
  | .s4 => nbit v cv + 2 * nbit u cu + 4 * ss
  | .s8 => nbit v cv + 2 * ss
  | .s16 => ss

theorem offsetInTile_ysUpperBits {u v ss : Nat} {sm : Samples} (c : SizeClass) (hs : ss < 2 ^ samplesLog sm) :
    offsetInTile u v ss (ysUpperBits c sm) = ysUpper u v ss (yfCv c) (yfCu c) sm := by
  cases sm <;>
    simp only [samplesLog] at hs <;>
    simp only [ysUpperBits, ysUpper, offsetInTile_append, offsetInTile_ssRun, offsetInTile, srcBit, List.length_cons,
      List.length_nil] <;>
    omega

theorem offsetInTile_swizzleYs {u v ss : Nat} {sm : Samples} (c : SizeClass) (hs : ss < 2 ^ samplesLog sm) :
    offsetInTile u v ss (swizzleYs c (samplesLog sm)).bits =
      4096 * ysUpper u v ss (yfCv c) (yfCu c) sm + placeIn4K u v c := by
  have hlen : (yfBits c).length = 12 := by cases c <;> rfl
  simp only [swizzleYs_eq, offsetInTile_append, hlen, offsetInTile_yfBits, offsetInTile_ysUpperBits c hs]
  omega

/-- The printed row of TileYF is that of one sample (R260). -/
theorem swizzleOf_yf {e : ElemBits} {c : SizeClass} (sm : Samples) (hc : sizeClass e = some c) :
    swizzleOf .yf e sm = .ok (if sm = .s1 then .tiled (swizzleYf c) else .unstated (swizzleYf c)) := by
  simp only [swizzleOf, hc]

/-- TileYS has a row for every number of samples (R263). -/
theorem swizzleOf_ys {e : ElemBits} {c : SizeClass} (sm : Samples) (hc : sizeClass e = some c) :
    swizzleOf .ys e sm = .ok (.tiled (swizzleYs c (samplesLog sm))) := by
  simp only [swizzleOf, hc]

/-- An element of a TileYF surface with one sample (R260, R261). -/
theorem execTileYf_single {a : TileArgs} {c : SizeClass} (s : State) (hc : sizeClass a.elem = some c)
    (hmax : a.pitch.toNat ≤ 262144) (hsm : a.samples = .s1) (hb : a.base.toNat % 4096 = 0)
    (hp : a.pitch.toNat % 2 ^ yfCu c = 0) {o : Nat}
    (hoff : o = 4096 * (a.v.toNat / 2 ^ yfCv c * (a.pitch.toNat / 2 ^ yfCu c) + a.u.toNat / 2 ^ yfCu c)
      + placeIn4K a.u.toNat a.v.toNat c) (ho : o + elemBitsOf a.elem / 8 ≤ 2 ^ 38) :
    exec (.tileYf a) s = .next { s with tile := ⟨o, a.base + BitVec.ofNat 64 o, 0, 0⟩ } := by
  have hrow : swizzleOf .yf a.elem a.samples = .ok (.tiled (swizzleYf c)) := by rw [swizzleOf_yf _ hc, if_pos hsm]
  have hsize : 2 ^ (swizzleYf c).bits.length = 4096 := by cases c <;> rfl
  exact tileObject_tiled s hrow hb hp hmax TileMode.noConfusion
    ((swizzledOffset_eq _ hsize rfl rfl (offsetInTile_yfBits _ _ _ c)).trans hoff.symm) ho

/-- An element of a multisampled TileYF surface has an open offset inside the limit on a surface's size (log entry 72). -/
theorem execTileYf_multisampled {a : TileArgs} {c : SizeClass} (s : State) (hc : sizeClass a.elem = some c)
    (hmax : a.pitch.toNat ≤ 262144) (hsm : a.samples ≠ .s1) (hb : a.base.toNat % 4096 = 0)
    (hp : a.pitch.toNat % 2 ^ yfCu c = 0) :
    ∃ o, o < 2 ^ 38 ∧
      exec (.tileYf a) s = .next { s with tile := ⟨o, a.base + BitVec.ofNat 64 o, 0, 0⟩, draws := s.draws + 1 } := by
  have hrow : swizzleOf .yf a.elem a.samples = .ok (.unstated (swizzleYf c)) := by rw [swizzleOf_yf _ hc, if_neg hsm]
  exact ⟨(freeAt s 0).toNat % maxSurface, Nat.mod_lt _ (Nat.two_pow_pos 38),
    toOutcome_next.2 (tileObject_open (tileOffset_unstated _ _ _ hrow hb hp hmax))⟩

/-- An element of a TileYS surface (R261, R263). -/
theorem execTileYs_slice {a : TileArgs} {c : SizeClass} (s : State) (hc : sizeClass a.elem = some c)
    (hmax : a.pitch.toNat ≤ 262144) (hs : a.ss.toNat < 2 ^ samplesLog a.samples) (hb : a.base.toNat % 65536 = 0)
    {cv cu : Nat} (hcv : cv = yfCv c + 2 - samplesLog a.samples / 2) (hcu : cu = yfCu c + 2 - (samplesLog a.samples + 1) / 2)
    (hp : a.pitch.toNat % 2 ^ cu = 0) {o : Nat}
    (hoff : o = 65536 * (a.v.toNat / 2 ^ cv * (a.pitch.toNat / 2 ^ cu) + a.u.toNat / 2 ^ cu)
      + 4096 * ysUpper a.u.toNat a.v.toNat a.ss.toNat (yfCv c) (yfCu c) a.samples + placeIn4K a.u.toNat a.v.toNat c)
    (ho : o + elemBitsOf a.elem / 8 ≤ 2 ^ 38) :
    exec (.tileYs a) s = .next { s with tile := ⟨o, a.base + BitVec.ofNat 64 o, 0, 0⟩ } := by
  have hsize : 2 ^ (swizzleYs c (samplesLog a.samples)).bits.length = 65536 := by
    cases c <;> cases a.samples <;> rfl
  have hheight : (swizzleYs c (samplesLog a.samples)).cv = cv := by rw [swizzleYs_eq, hcv]
  have hwidth : (swizzleYs c (samplesLog a.samples)).cu = cu := by rw [swizzleYs_eq, hcu]
  refine tileObject_tiled s (swizzleOf_ys _ hc) hb (by rwa [hwidth]) hmax (fun _ => hs) ?_ ho
  rw [swizzledOffset_eq _ hsize rfl rfl (offsetInTile_swizzleYs c hs), hheight, hwidth, hoff, Nat.add_assoc]

/-- Settles O52: a linear element, and the element sizes of each class of the swizzle tables. -/
theorem standardTileOffsets : Obligations.StandardTileOffsets := by
  unfold Obligations.StandardTileOffsets
  intro s a u v pitch ss completes b
  refine ⟨fun ho => toOutcome_next.2 (tileObject_of (tileOffset_linear _ _ _ ho)), fun cv cu inner hrow hmax => ?_⟩
  obtain ⟨c, hc, rfl, rfl, rfl⟩ : ∃ c, sizeClass a.elem = some c ∧ cv = yfCv c ∧ cu = yfCu c ∧ inner = placeIn4K u v c := by
    simp only [List.mem_cons, List.not_mem_nil, or_false, Prod.mk.injEq] at hrow
    rcases hrow with ⟨he, hrow⟩ | ⟨he, hrow⟩ | ⟨he, hrow⟩ | ⟨he, hrow⟩ | ⟨he, hrow⟩ <;> rw [he]
    · exact ⟨.c8, rfl, hrow⟩
    · exact ⟨.c16, rfl, hrow⟩
    · exact ⟨.c16, rfl, hrow⟩
    · exact ⟨.c64, rfl, hrow⟩
    · exact ⟨.c64, rfl, hrow⟩
  refine ⟨fun hsm hb hp ho => execTileYf_single s hc hmax hsm hb hp rfl ho,
    fun hsm hb hp => execTileYf_multisampled s hc hmax hsm hb hp, fun hs hb hp ho => ?_⟩
  refine execTileYs_slice s hc hmax hs hb rfl rfl hp ?_ ho
  cases a.samples <;> rfl

/-! ### What the spec forbids of tiled surfaces (R244, R285, R405) -/

/-- A mode's row, printed or not, whose surface has a pitch that is no whole number of tiles or above 256 KB (R285). -/
theorem tileObject_badPitch {m : TileMode} {a : TileArgs} {w : Swizzle} {width : Nat} (s : State)
    (hw : swizzleOf m a.elem a.samples = .ok (.tiled w) ∨ swizzleOf m a.elem a.samples = .ok (.unstated w))
    (hwidth : 2 ^ w.cu = width) (hb : a.base.toNat % baseAlign m = 0)
    (hp : a.pitch.toNat % width ≠ 0 ∨ 262144 < a.pitch.toNat) : toOutcome (tileObject m a s) = .refused .badPitch := by
  subst hwidth
  rw [tileObject_stop (tileOffset_badPitch _ _ _ hw hb hp), toOutcome_refuse]

/-- A mode's row, printed or not, whose surface has a base that is not aligned and of no level of a mip tail (R244). -/
theorem tileObject_misaligned {m : TileMode} {a : TileArgs} {w : Swizzle} (s : State)
    (hw : swizzleOf m a.elem a.samples = .ok (.tiled w) ∨ swizzleOf m a.elem a.samples = .ok (.unstated w))
    (hb : a.base.toNat % baseAlign m ≠ 0) (ht : tailBase m a.elem a.samples w a.base.toNat = false) :
    toOutcome (tileObject m a s) = .refused .misalignedTileBase := by
  rw [tileObject_stop (tileOffset_misaligned _ _ _ _ hw hb ht), toOutcome_refuse]

/-- The exception of R244 is for elements of 64 and 128 bits: smaller ones have no slot in a mip tail that a base may name. -/
theorem tailBase_small {e : ElemBits} (m : TileMode) (sm : Samples) (w : Swizzle) (base : Nat)
    (he : e ∈ [ElemBits.e8, .e16, .e32]) : tailBase m e sm w base = false := by
  have hslots : ∀ p q, tailSlots e p q = [] := by
    simp only [List.mem_cons, List.not_mem_nil, or_false] at he
    rcases he with rfl | rfl | rfl <;> exact fun _ _ => rfl
  simp [tailBase, hslots]

/-- The row of a TileYF surface: printed for one sample, unstated else (R263). -/
theorem swizzleOf_yf_cases {e : ElemBits} {c : SizeClass} (sm : Samples) (hc : sizeClass e = some c) :
    swizzleOf .yf e sm = .ok (.tiled (swizzleYf c)) ∨ swizzleOf .yf e sm = .ok (.unstated (swizzleYf c)) := by
  rw [swizzleOf_yf sm hc]
  split
  · exact .inl rfl
  · exact .inr rfl

/-- A Null or Invalid tile has no defined result on a TileX surface (R405). -/
theorem trEntry_tileX {t : TrEnd} {a : Access} (s : State) (ha : a.tileX = true) (ht : t = .invalidTile ∨ t = .nullTile) :
    toOutcome (trEntry t a s) = .refused .nullTileOnTileX := by
  rcases ht with rfl | rfl <;> simp [trEntry, ha]

/-- An L3 or L2 entry with bit 0 or bit 1 set maps no tile (R400). -/
theorem trPointerStep_unmapped {e : QWord} (h : bit e 0 = true ∨ bit e 1 = true) :
    trPointerStep e = .invalidTile ∨ trPointerStep e = .nullTile := by
  rw [trPointerStep]
  by_cases hinvalid : bit e 0 = true
  · exact .inl (if_pos hinvalid)
  · rw [if_neg hinvalid, if_pos (h.resolve_left hinvalid)]
    exact .inr rfl

/-- An L1 entry that is the Invalid or the Null value maps no tile (R400). -/
theorem trLeafStep_unmapped {s : State} {w : Word} (va : QWord) (h : w = s.regs.invalidTile ∨ w = s.regs.nullTile) :
    trLeafStep s w va = .invalidTile ∨ trLeafStep s w va = .nullTile := by
  rw [trLeafStep]
  by_cases hinvalid : w = s.regs.invalidTile
  · exact .inl (if_pos hinvalid)
  · rw [if_neg hinvalid, if_pos (h.resolve_left hinvalid)]
    exact .inr rfl

/-- Settles O54: the base is examined first, then the pitch; an entry that maps no tile stops a TileX access. -/
theorem tilingPreconditionsStop : Obligations.TilingPreconditionsStop := by
  unfold Obligations.TilingPreconditionsStop
  refine fun s a e w x => ⟨fun hb => ⟨?_, ?_, ?_⟩, fun he => ?_, fun hb => ⟨?_, ?_, ?_⟩, fun k hk hek => ?_, fun hx => ⟨?_, ?_⟩⟩
  · exact tileObject_misaligned (m := .x) s (.inl rfl) hb (tailBase_legacy _ _ _ _ TileMode.noConfusion TileMode.noConfusion)
  · exact tileObject_misaligned (m := .y) s (.inl rfl) hb (tailBase_legacy _ _ _ _ TileMode.noConfusion TileMode.noConfusion)
  · exact tileObject_misaligned (m := .w) s (.inl rfl) hb (tailBase_legacy _ _ _ _ TileMode.noConfusion TileMode.noConfusion)
  · obtain ⟨c, hc⟩ : ∃ c, sizeClass a.elem = some c := by
      simp only [List.mem_cons, List.not_mem_nil, or_false] at he
      rcases he with he | he | he <;> exact ⟨_, by rw [he]; rfl⟩
    exact ⟨fun hb => tileObject_misaligned s (swizzleOf_yf_cases _ hc) hb (tailBase_small _ _ _ _ he),
      fun hb => tileObject_misaligned s (.inl (swizzleOf_ys _ hc)) hb (tailBase_small _ _ _ _ he)⟩
  · exact tileObject_badPitch (m := .x) s (.inl rfl) rfl hb
  · exact tileObject_badPitch (m := .y) s (.inl rfl) rfl hb
  · exact tileObject_badPitch (m := .w) s (.inl rfl) rfl hb
  · obtain ⟨c, hc, hwidth⟩ : ∃ c, sizeClass a.elem = some c ∧ 2 ^ yfCu c = k.2 := by
      simp only [List.mem_cons, List.not_mem_nil, or_false] at hk
      rw [hek]
      rcases hk with rfl | rfl | rfl | rfl | rfl
      · exact ⟨.c8, rfl, rfl⟩
      · exact ⟨.c16, rfl, rfl⟩
      · exact ⟨.c16, rfl, rfl⟩
      · exact ⟨.c64, rfl, rfl⟩
      · exact ⟨.c64, rfl, rfl⟩
    refine ⟨fun hb hp => tileObject_badPitch s (swizzleOf_yf_cases _ hc) hwidth hb hp,
      fun hb hp => tileObject_badPitch s (.inl (swizzleOf_ys _ hc)) ?_ hb hp⟩
    rw [← hwidth]
    cases c <;> cases a.samples <;> rfl
  · exact fun he => ⟨trEntry_tileX s hx (trPointerStep_unmapped he), trEntry_tileX s hx (trPointerStep_unmapped he)⟩
  · exact fun hw => trEntry_tileX s hx (trLeafStep_unmapped _ hw)

end Sys2Proof.Machine

/-! ## The invalidation protocol of the HDC port (41_page_walk.md R375; O42) -/

namespace Sys2Proof.Machine

open Sys2Proof

/-- The acknowledgements collected once that of an HDC has come (R375). -/
def acksWith (s : State) (i : HdcId) : List HdcId := if s.hdc.acks.contains i then s.hdc.acks else s.hdc.acks ++ [i]

theorem mem_acksWith {s : State} {i j : HdcId} : j ∈ acksWith s i ↔ j = i ∨ j ∈ s.hdc.acks := by
  unfold acksWith
  split
  · rename_i hi
    have hi : i ∈ s.hdc.acks := by simpa using hi
    exact ⟨.inr, fun h => h.elim (fun h => h ▸ hi) id⟩
  · simp [or_comm]

/-- What a valid acknowledgement does while an invalidation is in progress (R375). -/
theorem tlbInvResponse_valid {s : State} (i : HdcId) (ho : s.hdc.serviceOff = true) :
    tlbInvResponse ⟨true, i⟩ s =
      if s.params.hdcs.all (acksWith s i).contains then
        { s with hdc := { s.hdc with serviceOff := false, acks := [] }, inputs := .message (.gamTlbInvEnd) :: s.inputs }
      else { s with hdc := { s.hdc with acks := acksWith s i } } := by
  simp only [tlbInvResponse, ho, Bool.not_true, Bool.or_false, Bool.false_eq_true, if_false]
  rfl

/-- With every acknowledgement collected the service goes on and End is sent (R375 step 4). -/
theorem tlbInvResponse_last {s : State} {i : HdcId} (ho : s.hdc.serviceOff = true)
    (hall : ∀ j ∈ s.params.hdcs, j = i ∨ j ∈ s.hdc.acks) :
    tlbInvResponse ⟨true, i⟩ s =
      { s with hdc := { s.hdc with serviceOff := false, acks := [] }, inputs := .message (.gamTlbInvEnd) :: s.inputs } := by
  have hcollected : s.params.hdcs.all (acksWith s i).contains = true :=
    List.all_eq_true.2 fun j hj => List.contains_iff_mem.2 (mem_acksWith.2 (hall j hj))
  rw [tlbInvResponse_valid i ho, if_pos hcollected]

/-- While another HDC has not acknowledged, an acknowledgement is collected (R375 step 3). -/
theorem tlbInvResponse_early {s : State} {i : HdcId} (ho : s.hdc.serviceOff = true) (hi : i ∉ s.hdc.acks)
    (hmissing : ∃ j ∈ s.params.hdcs, j ≠ i ∧ j ∉ s.hdc.acks) :
    tlbInvResponse ⟨true, i⟩ s = { s with hdc := { s.hdc with acks := s.hdc.acks ++ [i] } } := by
  obtain ⟨j, hj, hne, hnot⟩ := hmissing
  have hopen : ¬ s.params.hdcs.all (acksWith s i).contains = true := fun h =>
    (mem_acksWith.1 (List.contains_iff_mem.1 (List.all_eq_true.1 h j hj))).elim hne hnot
  have hacks : acksWith s i = s.hdc.acks ++ [i] := if_neg (by simpa using hi)
  rw [tlbInvResponse_valid i ho, if_neg hopen, hacks]

/-- Bytes that the decoder reads as a broadcast without its Valid bit are taken and change nothing (log entry 46). -/
theorem step_notValid {s : State} {p : Port} {bs : List Byte} {rest : List Input} (hin : s.inputs = .object p bs :: rest)
    (hdec : decode p bs = .error .notValid) : step s = .next { s with inputs := rest } := by
  have hrejected : fetched (.object p bs) = .rejected p .notValid := by simp only [fetched, hdec]
  rw [step_of_inputs_cons hin, hrejected]
  rfl

/-- Settles O42, message by message. -/
theorem hdcInvalidationProtocol : Obligations.HdcInvalidationProtocol := by
  unfold Obligations.HdcInvalidationProtocol
  intro s i
  exact ⟨rfl, fun ho hall => congrArg Host.Outcome.next (tlbInvResponse_last ho hall),
    fun ho hi hmissing => congrArg Host.Outcome.next (tlbInvResponse_early ho hi hmissing), rfl, rfl,
    fun bs rest hin hdec => step_notValid hin hdec⟩

end Sys2Proof.Machine

/-! ## The codes with which an IA-32e entry refuses an access (41_page_walk.md R320, R331; 60_exceptions.md R804; O35) -/

namespace Sys2Proof.Machine

open Sys2Proof

/-! ### Refusals in the order of R804 -/

/-- A set reserved bit comes first: code 01 (R331, D34). -/
theorem entryStep_reserved {haw : Nat} {c : WalkCtl} {level : Nat} {ips : Bool} {va : QWord} {acc : Rights} {e : QWord}
    (hd : c.dialect = .ia32e) (hp : bit e 0 = true) (hr : reservedViolated haw level ips e = true) :
    entryStep haw c level ips va acc e = .fault 1 level := by
  simp [entryStep, hd, hp, hr]

/-- Then the privilege of the access, with SMEP at a leaf: code 10 (R320, D13). -/
theorem entryStep_privilege {haw : Nat} {c : WalkCtl} {level : Nat} {ips : Bool} {va : QWord} {acc : Rights} {e : QWord}
    (hd : c.dialect = .ia32e) (hp : bit e 0 = true) (hr : reservedViolated haw level ips e = false)
    (hu : (privilegeRefused c (accumulate acc e) || (isLeaf .ia32e level e && smepRefused c (accumulate acc e))) = true) :
    entryStep haw c level ips va acc e = .fault 2 level := by
  simp only [entryStep, accumulateIn_ia32e, hd, hp, hr, hu, Bool.not_true, Bool.false_eq_true, if_true, if_false]

/-- Last the write permission: code 11 (R320). -/
theorem entryStep_write {haw : Nat} {c : WalkCtl} {level : Nat} {ips : Bool} {va : QWord} {acc : Rights} {e : QWord}
    (hd : c.dialect = .ia32e) (hp : bit e 0 = true) (hr : reservedViolated haw level ips e = false)
    (hu : privilegeRefused c (accumulate acc e) = false) (hs : smepRefused c (accumulate acc e) = false)
    (hw : writeRefused c (accumulate acc e) = true) :
    entryStep haw c level ips va acc e = .fault 3 level := by
  simp [entryStep, hd, hp, hr, hu, hs, hw]

/-- Of a 4 KB page the reserved bits are those from HAW up (R331). -/
theorem reservedViolated_pte4kb (haw : Nat) (e : QWord) :
    reservedViolated haw 1 false e = decide (field e haw (52 - haw) ≠ 0) := by
  simp [reservedViolated]

/-! ### The fault of an entry presented alone under the GAM override (R801, R822, R825) -/

/-- The request of an IA-32e entry presented alone is one of an advanced context, in the mode of the override. -/
theorem faultModeOf_entryRequest {s : State} {a : Access} (hover : bit s.regs.r404c 0 = true) (hg : a.useGgtt = false)
    (hc : a.client ≠ .displayOverlay) : faultModeOf s (entryRequest s .ia32e a) = .ok .halt := by
  have hmask : (0xFFFFFFFFFFFFFFF7 : QWord).getLsbD 3 = false := by decide
  have hadvanced : bit (entryRequest s .ia32e a).desc 3 = false := by
    rw [entryRequest, ownRequest, bit, BitVec.getLsbD_and, hmask, Bool.and_false]
  exact faultModeOf_override (usesGgtt_false hg hc hadvanced) hadvanced hover

/-- An engine of which no fault and no reset waits, and no faulted entry of the page: a fault of the entry is reported at once (R825, R358,
R871). -/
structure ReportsFault (s : State) (a : Access) : Prop where
  override : bit s.regs.r404c 0 = true
  ppgtt : a.useGgtt = false
  client : a.client ≠ .displayOverlay
  noMiss : (engineOf s a.eng).miss = none
  unfaulted : pageNotFaulted s a.eng a.va
  noReset : (engineOf s a.eng).resetting = false

/-- An IA-32e entry whose step is a fault: the page request tells it, and memory stays as it is. -/
theorem walkEntry_fault_reported {s : State} {level l : Nat} {ips : Bool} {e : QWord} {a : Access} {code : BitVec 2}
    (hf : ReportsFault s a)
    (hstep : entryStep s.params.haw (entryCtl s .ia32e a) level ips a.va (entryRights s .ia32e level) e = .fault code l) :
    ∃ t q, walkEntry .ia32e level ips e a s = .ok t ∧ t.pageRequests = s.pageRequests ++ [q] ∧ q.fault.code = code ∧
      q.fault.level = l ∧ q.fault.er = a.ifetch ∧ q.fault.isWrite = (a.kind != .read) ∧ sameMemory s t := by
  let u : State := { s with walk := ⟨Rights.all, false, .fault code l⟩ }
  let f := faultRecord u (entryRequest u .ia32e a) a.va code l
  have hmode : faultModeOf u (entryRequest u .ia32e a) = .ok .halt :=
    faultModeOf_entryRequest (s := u) hf.override hf.ppgtt hf.client
  have htake := takePageFault_of a.va code l hmode (.inr hf.noReset)
  have hnew : filteringEntry u (entryRequest u .ia32e a).acc.eng f = none := filteringEntry_other hf.unfaulted
  obtain ⟨-, hqueue, -, -, -, hframe⟩ := takeHalt_eq f hf.noMiss hnew
  refine ⟨takeHalt u (entryRequest u .ia32e a) f, _, ?_, hqueue, rfl, rfl, rfl, rfl, fun b => by rw [hframe]⟩
  rw [walkEntry_eq, hstep]
  exact htake

/-- Settles O35: the first refusal of the entry in the order of R804 is the code of the page request. -/
theorem ia32eRefusalCodes : Obligations.Ia32eRefusalCodes := by
  unfold Obligations.Ia32eRefusalCodes
  intro s e a x hwf hover hg hc hmiss hpage hreset desc user us xd reserved write refused
  have hp : bit e 0 = true := present_of_matchesPat hwf (by decide) (by decide)
  obtain ⟨hd, hwrite, her, hsup⟩ := entryCtl_ia32e_request s a
  have hrights : entryRights s .ia32e 1 = s.walk.rights := rfl
  have hres : reservedViolated s.params.haw 1 false e = reserved := reservedViolated_pte4kb _ e
  have hrefused : ∀ code, entryStep s.params.haw (entryCtl s .ia32e a) 1 false a.va s.walk.rights e = .fault code 1 →
      refused code := by
    intro code hstep
    obtain ⟨t, q, hok, h⟩ := walkEntry_fault_reported ⟨hover, hg, hc, hmiss, hpage, hreset⟩ hstep
    exact ⟨t, q, toOutcome_next.2 hok, h⟩
  constructor
  · intro hdata huser hany
    have hsupF : (entryCtl s .ia32e a).supervisor = false := by rw [hsup]; simpa [user] using huser
    have herF : (entryCtl s .ia32e a).er = false := her.trans hdata
    have hpriv : privilegeRefused (entryCtl s .ia32e a) (accumulate s.walk.rights e) = !us := by
      simp [privilegeRefused, hsupF, herF, accumulate, us]
    have hsmep : smepRefused (entryCtl s .ia32e a) (accumulate s.walk.rights e) = false := by simp [smepRefused, hsupF]
    have hwr : writeRefused (entryCtl s .ia32e a) (accumulate s.walk.rights e) = write := by
      simp [writeRefused, hsupF, hwrite, accumulate, write]
    by_cases h1 : reserved = true
    · rw [if_pos h1]
      exact hrefused 1 (entryStep_reserved hd hp (hres.trans h1))
    · have h1 : reserved = false := by simpa using h1
      rw [if_neg (by simp [h1])]
      by_cases h2 : (!us) = true
      · rw [if_pos h2]
        exact hrefused 2 (entryStep_privilege hd hp (hres.trans h1) (by rw [hpriv, h2, Bool.true_or]))
      · have h2 : (!us) = false := by simpa using h2
        rw [if_neg (by rw [h2]; simp)]
        have h3 : write = true := by simpa [h1, h2] using hany
        exact hrefused 3 (entryStep_write hd hp (hres.trans h1) (hpriv.trans h2) hsmep (hwr.trans h3))
  · intro hfetch hctx hany
    obtain ⟨hnxe, hsmepCtl⟩ := entryCtl_ia32e_context hctx
    have hpriv : (privilegeRefused (entryCtl s .ia32e a) (accumulate s.walk.rights e) ||
        (isLeaf .ia32e 1 e && smepRefused (entryCtl s .ia32e a) (accumulate s.walk.rights e))) =
        ((user && !us) || (x.nxe && xd) || (!user && x.smep && us)) := by
      simp [privilegeRefused, smepRefused, isLeaf, hsup, her, hfetch, hnxe, hsmepCtl, accumulate, user, us, xd, desc]
    by_cases h1 : reserved = true
    · rw [if_pos h1]
      exact hrefused 1 (entryStep_reserved hd hp (hres.trans h1))
    · have h1 : reserved = false := by simpa using h1
      rw [if_neg (by simp [h1])]
      refine hrefused 2 (entryStep_privilege hd hp (hres.trans h1) (hpriv.trans ?_))
      simpa only [h1, Bool.false_or] using hany

end Sys2Proof.Machine

/-! ## Every step keeps every HDC within its two credits (41_page_walk.md R376, 10_state.md R62; O8) -/

namespace Sys2Proof.Machine

open Sys2Proof

/-! ### No more credits in use -/

/-- No HDC has more credits in use after than before (R376). -/
def FreesCredits (s t : State) : Prop := ∀ src, creditsUsed t.hdc src ≤ creditsUsed s.hdc src

theorem FreesCredits.trans {s t u : State} (h : FreesCredits s t) (g : FreesCredits t u) : FreesCredits s u :=
  fun src => (g src).trans (h src)

/-- What leaves the HDC port alone changes no credit. -/
theorem FreesCredits.of_same {s t : State} (h : t.hdc = s.hdc) : FreesCredits s t := fun _ => by rw [h]

/-- Serving a request releases or moves credits, and takes none. -/
theorem FreesCredits.of_kept {s t : State} (k : Kept s t) : FreesCredits s t := fun src => (k.credits src).le

theorem FreesCredits.foldl {α : Type} {f : State → α → State} (hf : ∀ s a, FreesCredits s (f s a)) (l : List α)
    (s : State) : FreesCredits s (l.foldl f s) := by
  induction l generalizing s with
  | nil => exact .of_same rfl
  | cons a l ih => exact (hf s a).trans (ih _)

/-- Requests that leave the port, in the order that stays, free their credits. -/
theorem creditsUsed_sublist {p q : HdcPort} (hp : q.pending.Sublist p.pending) (hd : q.droppedReqs.Sublist p.droppedReqs)
    (src : HdcId) : creditsUsed q src ≤ creditsUsed p src :=
  ((hp.append hd).filter _).length_le

/-! ### What leaves the HDC port alone: contexts and their handshake (R850) -/

theorem foldl_hdc {α : Type} {f : State → α → State} (hf : ∀ s a, (f s a).hdc = s.hdc) (l : List α) (s : State) :
    (l.foldl f s).hdc = s.hdc := by
  induction l generalizing s with
  | nil => rfl
  | cons a l ih => exact (ih (f s a)).trans (hf s a)

@[simp] theorem closeContext_hdc (s : State) (e : Engine) : (closeContext s e).hdc = s.hdc := by
  rw [closeContext_eq]

@[simp] theorem broadcastInvalidation_hdc (s : State) : (broadcastInvalidation s).hdc = s.hdc := by
  rw [broadcastInvalidation_eq]

@[simp] theorem contextAvailable_hdc (s : State) (e : Engine) : (contextAvailable s e).hdc = s.hdc := by
  unfold contextAvailable
  split
  · rfl
  · split
    · rfl
    · rw [broadcastInvalidation_hdc]
      exact closeContext_hdc s e

@[simp] theorem fillCaches_hdc (s : State) (e : Engine) : (fillCaches s e).hdc = s.hdc := by
  unfold fillCaches
  dsimp only
  split
  · split
    · split <;> rfl
    · rfl
  · rfl

@[simp] theorem restoreContext_hdc (s : State) (e : Engine) (lrca : BitVec 20) : (restoreContext s e lrca).hdc = s.hdc := rfl

@[simp] theorem contextLaunched_hdc (s : State) (e : Engine) : (contextLaunched s e).hdc = s.hdc := by
  unfold contextLaunched
  dsimp only
  split
  · rw [restoreContext_hdc, fillCaches_hdc]
    split <;> rfl
  · rfl

@[simp] theorem gamMessage_hdc (e : Engine) (w : Word) (s : State) : (gamMessage e w s).hdc = s.hdc := by
  have havailable : (if messageBit w 0 then contextAvailable s e else s).hdc = s.hdc := by
    split
    · exact contextAvailable_hdc s e
    · rfl
  unfold gamMessage
  dsimp only
  split
  · rw [contextLaunched_hdc, havailable]
  · exact havailable

@[simp] theorem contextConfirmed_hdc (s : State) (e : Engine) : (contextConfirmed s e).hdc = s.hdc := by
  unfold contextConfirmed
  dsimp only
  split <;> rfl

@[simp] theorem csMessage_hdc (e : Engine) (w : Word) (s : State) : (csMessage e w s).hdc = s.hdc := by
  have hready : (if messageBit w 0 then contextReceiveReady s e else s).hdc = s.hdc := by split <;> rfl
  unfold csMessage
  dsimp only
  split
  · rw [contextConfirmed_hdc, hready]
  · exact hready

@[simp] theorem writeDescriptors_hdc (d : QWord) (a : DescArgs) (s : State) : (writeDescriptors d a s).hdc = s.hdc := by
  unfold writeDescriptors
  split <;> rfl

@[simp] theorem writeDescHalf_hdc (ag : Agent) (e : Engine) (i : Nat) (b : Bool) (w : Word) (s : State) :
    (writeDescHalf ag e i b w s).hdc = s.hdc := by
  unfold writeDescHalf
  split <;> rfl

@[simp] theorem notifyOut_hdc (s : State) (e : Engine) (c : Word) : (notifyOut s e c).hdc = s.hdc := by
  unfold notifyOut
  split <;> rfl

@[simp] theorem switchOut_hdc (s : State) (e : Engine) : (switchOut s e).hdc = s.hdc := by
  unfold switchOut
  dsimp only
  split
  · rfl
  · split
    · rfl
    · split
      · exact closeContext_hdc s e
      · rw [notifyOut_hdc, closeContext_hdc]

@[simp] theorem queueLast_hdc (s : State) (f : PageFault) : (queueLast s f).hdc = s.hdc := by
  unfold queueLast
  split <;> rfl

@[simp] theorem terminate_hdc (s : State) (c : Word) : (terminate s c).hdc = s.hdc := by
  unfold terminate
  split
  · dsimp only
    split
    · exact queueLast_hdc _ _
    · exact switchOut_hdc _ _
  · split <;> rfl

/-! ### What leaves the HDC port alone: page responses, invalidations, the waits of resets (R841, R371, R871) -/

@[simp] theorem failRequest_hdc (s : State) (prg : Nat) (c : ResponseCode) : (failRequest s prg c).hdc = s.hdc := by
  rw [(failRequest_eq s prg c).1]

@[simp] theorem detachedResponse_hdc (s : State) (prg : Nat) (c : ResponseCode) : (detachedResponse s prg c).hdc = s.hdc := by
  rw [detachedResponse_eq]
  exact failRequest_hdc s prg c

@[simp] theorem lastResponse_hdc (s : State) (e : Engine) (c : Word) : (lastResponse s e c).hdc = s.hdc := by
  unfold lastResponse
  split <;> rfl

@[simp] theorem dropScopeEverywhere_hdc (s : State) (m : ScopeMark) : (dropScopeEverywhere s m).hdc = s.hdc :=
  foldl_hdc (fun u e => updEngine_hdc u e _) allEngines s

@[simp] theorem dropAllRetained_hdc (s : State) : (dropAllRetained s).hdc = s.hdc := foldl_hdc dropRetained_hdc allEngines s

@[simp] theorem refillPasidCache_hdc (s : State) (e : Engine) : (refillPasidCache s e).hdc = s.hdc := rfl

@[simp] theorem invalidateAll_hdc (s : State) : (invalidateAll s).hdc = s.hdc := by
  rw [invalidateAll, broadcastInvalidation_hdc, foldl_hdc refillPasidCache_hdc, dropAllRetained_hdc]

@[simp] theorem invalidateScope_hdc (s : State) (p : BitVec 20) (g : Option (BitVec 36)) (c : CacheStage) :
    (invalidateScope s p g c).hdc = s.hdc := by
  rw [invalidateScope, broadcastInvalidation_hdc, dropScopeEverywhere_hdc]

@[simp] theorem invalidatePasid_hdc (s : State) (p : BitVec 20) : (invalidatePasid s p).hdc = s.hdc := by
  rw [invalidatePasid, foldl_hdc refillPasidCache_hdc, invalidateScope_hdc]

@[simp] theorem holdPageRequest_hdc (s : State) (prg : Nat) : (holdPageRequest s prg).hdc = s.hdc := by
  unfold holdPageRequest
  split <;> rfl

@[simp] theorem completeReset_hdc (s : State) (e : Engine) : (completeReset s e).hdc = s.hdc := by
  unfold completeReset
  split <;> rfl

@[simp] theorem completeResets_hdc (s : State) : (completeResets s).hdc = s.hdc := by
  unfold completeResets
  split
  · split <;> rfl
  · exact foldl_hdc completeReset_hdc _ s

@[simp] theorem servicePageRequest_hdc (s : State) (prg : Nat) : (servicePageRequest s prg).hdc = s.hdc := by
  rw [servicePageRequest, completeResets_hdc]
  exact foldl_hdc (fun u e => updEngine_hdc u e _) allEngines s

/-! ### What leaves the HDC port alone: register writes -/

@[simp] theorem namedWrite_hdc (r : NamedReg) (w : Word) (s : State) : (namedWrite r w s).hdc = s.hdc := by
  cases r with
  | adNonWb => exact changeRegs_hdc _ s
  | _ => rfl

@[simp] theorem writePriControl_hdc (w : Word) (s : State) : (writePriControl w s).hdc = s.hdc := by
  unfold writePriControl
  dsimp only
  split
  · split <;> rfl
  · split <;> rfl

theorem pciWrite_hdc {r : PciReg} {w : Word} {s t : State} (h : pciWrite r w s = .ok t) : t.hdc = s.hdc := by
  cases r with
  | pasidControl =>
    unfold pciWrite at h
    dsimp only at h
    split at h <;> cases h
    rfl
  | priControl => cases h; exact writePriControl_hdc w s
  | _ => cases h; rfl

theorem configWrite_hdc {off : BitVec 12} {n : Nat} {w : Word} {s t : State} (h : configWrite off n w s = .ok t) :
    t.hdc = s.hdc := by
  unfold configWrite at h
  split at h
  · exact pciWrite_hdc h
  · obtain ⟨u, hu, h⟩ := bind_ok.1 h
    exact (pciWrite_hdc h).trans (pciWrite_hdc hu)
  · cases h

theorem writeLncf_hdc {i : Nat} {w : BitVec 16} {s t : State} (h : writeLncf i w s = .ok t) : t.hdc = s.hdc := by
  rw [writeLncf_ok h]

theorem writeGamMocs_hdc {i : Nat} {w : Word} {s t : State} (h : writeGamMocs i w s = .ok t) : t.hdc = s.hdc := by
  rw [writeGamMocs_ok h]

theorem mmioWrite_hdc {ag : Agent} {off : Nat} {w : Word} {s t : State} (h : mmioWrite ag off w s = .ok t) :
    t.hdc = s.hdc := by
  unfold mmioWrite at h
  split at h
  · cases h
  · generalize mmioReg s.params off = r at h
    cases r with
    | undefined => cases h
    | mchbar | nullRange | toCs e => cases h; rfl
    | desc e i b => cases h; exact writeDescHalf_hdc ag e i b w s
    | toGam e =>
      cases h
      split
      · exact gamMessage_hdc e w s
      · rfl
    | lncf i =>
      obtain ⟨u, hu, h⟩ := bind_ok.1 h
      obtain ⟨v, hv, h⟩ := bind_ok.1 h
      cases h
      exact (noEffect_hdc v).trans ((writeLncf_hdc hv).trans (writeLncf_hdc hu))
    | gamMocs i =>
      obtain ⟨u, hu, h⟩ := bind_ok.1 h
      cases h
      exact (noEffect_hdc u).trans (writeGamMocs_hdc hu)
    | _ => cases h; exact changeRegs_hdc _ s

/-! ### What frees credits: failed waits, resets, responses -/

theorem freesCredits_failWaiting (s : State) (e : Engine) (w : Waiting) (c : ResponseCode) :
    FreesCredits s (failWaiting s e w c) :=
  (FreesCredits.of_same (wedge_hdc s e c)).trans (.of_kept (kept_invalidAccess _ w.req _))

theorem freesCredits_failStream (s : State) (e : Engine) (w : Waiting) (c : ResponseCode) :
    FreesCredits s (failStream s e w c) := by
  unfold failStream
  split
  · exact freesCredits_failWaiting s e w c
  · exact .of_same rfl

theorem freesCredits_endWaits (s : State) (e : Engine) (prg : Nat) (c : ResponseCode) :
    FreesCredits s (endWaits s e prg c) := by
  unfold endWaits
  dsimp only
  refine (FreesCredits.of_same (detachedResponse_hdc (updEngine s e (clearWaits prg (decide (c = .success)))) prg c)).trans ?_
  split
  · exact .of_same (foldl_hdc (fun u w => dropScopeEverywhere_hdc u _) _ _)
  · exact (FreesCredits.foldl (fun u w => freesCredits_failStream u e w _) _ _).trans
      (.foldl (fun u w => freesCredits_failWaiting u e w _) _ _)

theorem freesCredits_pageResponse (s : State) (prg : Nat) (c : ResponseCode) : FreesCredits s (pageResponse s prg c) := by
  unfold pageResponse
  split
  · exact freesCredits_endWaits s _ prg c
  · split
    · exact .of_same (detachedResponse_hdc s prg c)
    · split
      · exact .of_same (by rw [lastResponse_hdc, dropAnswered_eq, failRequest_hdc])
      · exact .of_same rfl

/-- A reset of the render engine discards the requests of the HDCs with their credits (R871). -/
theorem creditsUsed_resetHdc (e : Engine) (h : HdcPort) (src : HdcId) : creditsUsed (resetHdc e h) src ≤ creditsUsed h src := by
  unfold resetHdc
  split
  · exact Nat.zero_le _
  · exact le_refl _

theorem freesCredits_engineReset (s : State) (e : Engine) : FreesCredits s (engineReset s e) := by
  have hcount : ∀ (u : State) (b : Bool) (p : BitVec 20), (if b then countPasid u p (-1) else u).hdc = u.hdc := by
    intro u b p
    cases b <;> rfl
  refine (FreesCredits.of_kept (kept_settle (inFlight s e) s)).trans fun src => ?_
  exact (creditsUsed_resetHdc e _ src).trans (by rw [setEngine_hdc, hcount])

/-- A device reset leaves the HDC port empty (R872). -/
@[simp] theorem flr_hdc (s : State) : (flr s).hdc = HdcPort.reset := by simp only [flr, advanceDraws_hdc]

theorem freesCredits_of_reset {s t : State} (h : t.hdc = HdcPort.reset) : FreesCredits s t :=
  fun src => by rw [h]; exact Nat.zero_le _

theorem freesCredits_requestReset (s : State) (e : Engine) : FreesCredits s (requestReset s e) := by
  unfold requestReset
  split
  · exact freesCredits_engineReset s e
  · exact .of_same rfl

theorem freesCredits_requestFlr (s : State) : FreesCredits s (requestFlr s) := by
  by_cases hheld : ∃ e, (engineOf s e).mmioRequests ≠ []
  · obtain ⟨-, heq⟩ := requestFlr_held hheld
    exact .of_same (by rw [heq])
  · rw [requestFlr_free (by simpa using hheld)]
    exact freesCredits_of_reset (flr_hdc s)

/-- A response releases the credit of the request that it answers (R376). -/
theorem freesCredits_gamPageResponse (g : GamResponse) (s : State) : FreesCredits s (gamPageResponse g s) := by
  unfold gamPageResponse
  split
  · exact .of_same rfl
  · exact creditsUsed_sublist List.erase_sublist (List.Sublist.refl _)

/-- The end of an invalidation presents the dropped requests again, each of which takes its credit anew (R375). -/
theorem freesCredits_tlbInvEnd (s : State) : FreesCredits s (tlbInvEnd s) :=
  creditsUsed_sublist (List.Sublist.refl _) (List.nil_sublist _)

theorem freesCredits_tlbInvResponse (a : HdcAck) (s : State) : FreesCredits s (tlbInvResponse a s) := by
  unfold tlbInvResponse
  split
  · exact .of_same rfl
  · dsimp only
    generalize (if s.hdc.acks.contains a.src = true then s.hdc.acks else s.hdc.acks ++ [a.src]) = acks
    split <;> exact creditsUsed_sublist (List.Sublist.refl _) (List.Sublist.refl _)

/-! ### Every step -/

/-- A request more at the port, pending or dropped, holds one credit of its own HDC (R376). -/
theorem creditsUsed_of_perm {p q : HdcPort} {h : HdcRequest}
    (hq : (q.pending ++ q.droppedReqs).Perm (h :: (p.pending ++ p.droppedReqs))) (src : HdcId) :
    creditsUsed q src = creditsUsed p src + if h.src = src then 1 else 0 := by
  rw [creditsUsed, creditsUsed, (hq.filter _).length_eq, List.filter_cons]
  by_cases hs : h.src = src <;> simp [hs]

/-- An HDC that takes a credit had one left (R376). -/
theorem creditsOk_of_perm {p q : HdcPort} {h : HdcRequest}
    (hq : (q.pending ++ q.droppedReqs).Perm (h :: (p.pending ++ p.droppedReqs))) (hleft : creditsUsed p h.src < 2)
    (hp : p.creditsOk) : q.creditsOk := by
  intro src
  rw [creditsUsed_of_perm hq src]
  split
  · rename_i hs
    rw [← hs]
    omega
  · exact hp src

/-- A page request takes a credit only where its HDC has one left (R376). -/
theorem creditsOk_hdcPageRequest {a : HdcRequest} {s t : State} (hs : s.hdc.creditsOk) (h : hdcPageRequest a s = .ok t) :
    t.hdc.creditsOk := by
  unfold hdcPageRequest at h
  split at h
  · cases h; exact hs
  · rename_i hleft
    have hleft : creditsUsed s.hdc a.src < 2 := by simp at hleft; omega
    split at h
    · cases h
      refine creditsOk_of_perm ?_ hleft hs
      rw [← List.append_assoc]
      exact List.perm_append_singleton a _
    · have htaken : (withPending s a).hdc.creditsOk := by
        refine creditsOk_of_perm ?_ hleft hs
        rw [List.append_assoc]
        exact List.perm_middle
      exact fun src => (FreesCredits.of_kept (kept_serveLoaded h) src).trans (htaken src)

/-- What an instruction does, a page request of an HDC aside, frees credits. -/
theorem creditsOk_instr {s t : State} (hs : s.hdc.creditsOk) (h : InstrEffect s t) : t.hdc.creditsOk := by
  have hfrees : FreesCredits s t → t.hdc.creditsOk := fun hf src => (hf src).trans (hs src)
  cases h with
  | kept h => exact hfrees (.of_kept h)
  | toGam e w => exact hfrees (.of_same (gamMessage_hdc e w s))
  | toCs e w => exact hfrees (.of_same (csMessage_hdc e w s))
  | descriptors d a => exact hfrees (.of_same (writeDescriptors_hdc d a s))
  | hdcRequest a h => exact creditsOk_hdcPageRequest hs h
  | hdcAck a => exact hfrees (freesCredits_tlbInvResponse a s)
  | hdcResponse a => exact hfrees (freesCredits_gamPageResponse a s)
  | hdcStart => exact hs
  | hdcEnd => exact hfrees (freesCredits_tlbInvEnd s)
  | lncf i w h => exact hfrees (.of_same (writeLncf_hdc h))
  | gamMocs i w h => exact hfrees (.of_same (writeGamMocs_hdc h))

/-- An access of the host or a peer is served, or is a register write. -/
theorem freesCredits_of_access {s t : State} (h : Kept s t ∨ ∃ off v, mmioWrite .host off v s = .ok t) : FreesCredits s t :=
  h.elim .of_kept fun ⟨_, _, hw⟩ => .of_same (mmioWrite_hdc hw)

theorem freesCredits_runOp {o : Op} {s t : State} (h : runOp o s = .ok t) : FreesCredits s t := by
  cases o with
  | hostAccess w addr n d => exact freesCredits_of_access (hostAccess_cases h)
  | peerAccess w addr n d =>
    have hpeer : (if n = 0 ∨ 8 < n then refuse .undecodable else peerAccess w addr n d s) = .ok t := h
    split at hpeer
    · cases hpeer
    · exact freesCredits_of_access (peerAccess_cases hpeer)
  | mmioWrite off d | csMmioWrite e off d => exact .of_same (mmioWrite_hdc h)
  | namedWrite r d => cases h; exact .of_same (namedWrite_hdc r d s)
  | pciWrite r d => exact .of_same (pciWrite_hdc h)
  | configWrite off n d => exact .of_same (configWrite_hdc h)
  | setFence _ _ | setIommu _ | setMemRanges _ | setPalette _ _ | setMchbarAlias _ | enablePowerGating =>
    cases h; exact .of_same rfl
  | pageResponse prg c => cases h; exact freesCredits_pageResponse s prg c
  | lastResponse e c => cases h; exact .of_same (lastResponse_hdc s e c)
  | switchOut e => cases h; exact .of_same (switchOut_hdc s e)
  | terminate c => cases h; exact .of_same (terminate_hdc s c)
  | invalidateEngine e => cases h; exact .of_same (broadcastInvalidation_hdc _)
  | invalidateAll => cases h; exact .of_same (invalidateAll_hdc s)
  | invalidatePasid p => cases h; exact .of_same (invalidatePasid_hdc s p)
  | invalidateScope p g c => cases h; exact .of_same (invalidateScope_hdc s p g c)
  | holdPageRequest prg => cases h; exact .of_same (holdPageRequest_hdc s prg)
  | servicePageRequest prg => cases h; exact .of_same (servicePageRequest_hdc s prg)
  | engineReset e => cases h; exact freesCredits_requestReset s e
  | flr => cases h; exact freesCredits_requestFlr s
  | busReset => cases h; exact freesCredits_of_reset ((advanceDraws_hdc _ 1).trans (flr_hdc s))
  | _ => exact .of_kept (kept_runOp rfl h)

/-- Settles O8: of what a step can do only the page request of an HDC takes a credit, and it takes one that is left. -/
theorem stepKeepsHdcCredits : Obligations.StepKeepsHdcCredits := by
  unfold Obligations.StepKeepsHdcCredits
  intro s t hs h
  rcases step_cases h with hk | ⟨u, hu, hi | ⟨o, ho⟩⟩
  · exact fun src => (FreesCredits.of_kept hk src).trans (hs src)
  · exact creditsOk_instr (fun src => (FreesCredits.of_kept hu src).trans (hs src)) hi
  · exact fun src => ((FreesCredits.of_kept hu).trans (freesCredits_runOp ho) src).trans (hs src)

end Sys2Proof.Machine

/-! ## Requests under a descriptor, served at once (41_page_walk.md R300, R340-R344) -/

namespace Sys2Proof.Machine

open Sys2Proof

/-! ### The request of a descriptor object -/

/-- The descriptor that a request object carries: the one given, with the bits that select the mode (R31, R300). -/
def descUnder (mode : WalkMode) (d : QWord) : QWord :=
  match mode with
  | .ggtt => (d ||| 0x8) &&& 0xFFFFFFFFFFFFFEFF
  | .ppgtt32 => (d ||| 0x108) &&& 0xFFFFFFFFFFFFFFEF
  | .ppgtt48 => d ||| 0x118
  | .advanced => d &&& 0xFFFFFFFFFFFFFFF7

/-- The request that such an object presents. -/
abbrev requestUnder (s : State) (mode : WalkMode) (d : QWord) (a : Access) : Request := ownRequest s a (descUnder mode d)

theorem serveUnder_eq (mode : WalkMode) (d : QWord) (a : Access) (s : State) :
    serveUnder mode d a s = serve s (requestUnder s mode d a) false := by
  cases mode <;> rfl

/-- The bits select the mode, whatever the rest of the descriptor. -/
theorem walkMode_descUnder (mode : WalkMode) (d : QWord) : walkMode (descUnder mode d) = mode := by
  cases mode <;> simp [walkMode, descUnder, bit]

/-- Bit 3 tells the legacy modes (R31). -/
theorem bit_descUnder_legacy {mode : WalkMode} (d : QWord) (h : mode ≠ .advanced) : bit (descUnder mode d) 3 = true := by
  cases mode with
  | advanced => exact absurd rfl h
  | _ => simp [descUnder, bit]

/-- A data access as the obligations take it: `plainRequest`, part by part. -/
structure PlainAccess (s : State) (a : Access) : Prop where
  serves : servesNow s a.eng = true
  waits : nothingWaits s a.eng = true
  retained : nothingRetained s a.eng = true
  onePage : inOnePage a = true
  data : a.ifetch = false
  sampler : a.client ≠ .samplerCache
  instruction : a.client ≠ .instructionState
  display : a.client ≠ .displayOverlay
  settled : dataSettled s a = true
  gttCache : s.params.gttCache = false
  faultingMode : field (gamMocsOf s a.eng a.mocs.toNat) 11 3 = 0
  trtt : trttOn s = false

theorem PlainAccess.of_plainRequest {s : State} {a : Access} (h : plainRequest s a = true) : PlainAccess s a := by
  simp only [plainRequest, quietRequest, Bool.and_eq_true, Bool.not_eq_true', bne_iff_ne, decide_eq_true_eq] at h
  obtain ⟨⟨⟨⟨⟨⟨⟨⟨⟨⟨⟨h1, h2⟩, h3⟩, h4⟩, h5⟩, h6⟩, h7⟩, h8⟩, h9⟩, h10⟩, h11⟩, h12⟩ := h
  exact ⟨h1, h2, h3, h4, h5, h6, h7, h8, h9, h10, h11, h12⟩

/-- Without the mark for the Global GTT a descriptor of a per-process mode decides the tables (R300). -/
theorem walkModeOf_requestUnder {s : State} {mode : WalkMode} {d : QWord} {a : Access} (hg : a.useGgtt = false)
    (hc : a.client ≠ .displayOverlay) : walkModeOf (requestUnder s mode d a) = mode := by
  simp only [walkModeOf, usesGgtt, ownRequest, walkMode_descUnder, hg, Bool.false_or]
  cases mode <;> simp [hc]

/-- Under a Global GTT descriptor every request is translated by the Global GTT (R300). -/
theorem walkModeOf_requestUnder_ggtt (s : State) (d : QWord) (a : Access) :
    walkModeOf (requestUnder s .ggtt d a) = .ggtt := by
  simp [walkModeOf, usesGgtt, ownRequest, walkMode_descUnder]

/-! ### What a request does once its walk has ended -/

section
variable {s u : State} {mode : WalkMode} {d : QWord} {a : Access}

/-- A plain request keeps behind none, and is served now (R825, R833, R850). -/
theorem serveUnder_now (hp : PlainAccess s a) :
    serveUnder mode d a s = serveNow s (requestUnder s mode d a) false .take := by
  rw [serveUnder_eq]
  exact serve_now false hp.serves (keepsBehind_none hp.waits) (keepsFurther_none hp.waits) (outstandingBefore_none hp.waits)

theorem PlainAccess.reservedPfm (hp : PlainAccess s a) : reservedPfm s (requestUnder s mode d a) = false := by
  simp [Machine.reservedPfm, ownRequest, hp.faultingMode]

theorem bare_requestUnder (s : State) (mode : WalkMode) (d : QWord) (a : Access) : Bare s (requestUnder s mode d a) :=
  ⟨rfl, rfl, le_refl _⟩

/-- A walk that ends in a page: the request is performed on it. -/
theorem serveUnder_page {t : Translation} (hp : PlainAccess s a)
    (hw : walkOnce s (requestUnder s mode d a) a.va (a.kind != .read) false = .ok (.translated t, u)) :
    serveUnder mode d a s = perform (advanceDraws u 8) (requestUnder s mode d a) [⟨.pa t, accessSize a⟩] :=
  (serveUnder_now hp).trans
    (serveNow_one (bare_requestUnder s mode d a) hp.reservedPfm hp.onePage hp.trtt (translate_of_walk hw rfl) rfl rfl)

/-- A walk that ends in a Null page: the request is performed on it. -/
theorem serveUnder_null (hp : PlainAccess s a)
    (hw : walkOnce s (requestUnder s mode d a) a.va (a.kind != .read) false = .ok (.nullPage, u)) :
    serveUnder mode d a s = perform (advanceDraws u 8) (requestUnder s mode d a) [⟨.null .nullPage, accessSize a⟩] :=
  (serveUnder_now hp).trans
    (serveNow_one (bare_requestUnder s mode d a) hp.reservedPfm hp.onePage hp.trtt (translate_of_walk hw rfl) rfl rfl)

/-- The machine after a plain read whose walk left it as `u` (R100). -/
abbrev afterRead (u : State) (r : Request) (t : Translation) : State :=
  advanceDraws (complete (advanceDraws u 8) ⟨.done, memReadLe u.mem t.pa (accessSize r.acc), false, 0, t.pa,
    effectiveType (advanceDraws u 8) r t, faultModeBits r.desc⟩) 16

/-- The machine after a plain write whose walk left it as `u`. -/
abbrev afterWrite (u : State) (r : Request) (t : Translation) : State :=
  advanceDraws (complete
    (store (advanceDraws u 8) t.pa (accessSize r.acc) r.acc.data (writerOf (advanceDraws u 8) r t))
    ⟨.done, 0, false, 0, t.pa, effectiveType (advanceDraws u 8) r t, faultModeBits r.desc⟩) 8

theorem serveUnder_read {t : Translation} (hp : PlainAccess s a) (hk : a.kind = .read)
    (hw : walkOnce s (requestUnder s mode d a) a.va (a.kind != .read) false = .ok (.translated t, u))
    (hsettled : coherencyOf (advanceDraws u 8) (requestUnder s mode d a) t = .full ∨ cpuSettled u = true)
    (hex : physExists u t.pa (accessSize a) = true) :
    serveUnder mode d a s = .ok (afterRead u (requestUnder s mode d a) t) :=
  (serveUnder_page hp hw).trans
    (perform_read (s := advanceDraws u 8) rfl hk ⟨hp.sampler, hp.instruction, hp.display, hsettled⟩ hex)

theorem serveUnder_write {t : Translation} (hp : PlainAccess s a) (hk : a.kind = .write)
    (hw : walkOnce s (requestUnder s mode d a) a.va (a.kind != .read) false = .ok (.translated t, u))
    (hex : physExists u t.pa (accessSize a) = true) :
    serveUnder mode d a s = .ok (afterWrite u (requestUnder s mode d a) t) :=
  (serveUnder_page hp hw).trans (perform_write (s := advanceDraws u 8) rfl hk hex)

/-- The bytes that a plain write stored. -/
theorem memRead_afterWrite_inside {r : Request} {t : Translation} (hm : Memory.wf u.mem = true) {k : Nat}
    (hk : k < accessSize r.acc) : memRead (afterWrite u r t).mem (t.pa + k) = byteAt r.acc.data k :=
  memRead_memWriteLe_inside _ _ _ _ _ hk hm

/-- It stores no others. -/
theorem memRead_afterWrite_outside {r : Request} {t : Translation} {b : Nat}
    (hb : b < t.pa ∨ t.pa + accessSize r.acc ≤ b) : memRead (afterWrite u r t).mem b = memRead u.mem b :=
  memRead_memWriteLe_outside _ _ _ _ _ hb

/-! ### The three ends of a request in a legacy mode -/

/-- In a legacy mode a settled read sees memory: nothing of the processor's waits for a flush, or the MOCS entry makes it coherent
(R154, R463). -/
theorem PlainAccess.legacy_settled (hp : PlainAccess s a) (hk : a.kind = .read) (hmode : mode ≠ .advanced) (t : Translation) :
    coherencyOf (advanceDraws s 8) (requestUnder s mode d a) t = .full ∨ cpuSettled s = true := by
  have hlegacy : isAdvanced (requestUnder s mode d a) = false := by
    simp [isAdvanced, ownRequest, bit_descUnder_legacy d hmode]
  have hsettled := hp.settled
  simp only [dataSettled, hk, Bool.or_eq_true, Bool.and_eq_true, reduceCtorEq, beq_iff_eq, false_or] at hsettled
  rcases hsettled with hcpu | ⟨hcoherent, hllc⟩
  · exact .inr hcpu
  · refine .inl (coherencyOf_full (llcCaches_of_mocs t hllc hlegacy) ?_)
    simp [coherentAccess, ownRequest, hcoherent]

/-- A read in a legacy mode: the bytes of the page, and nothing else changes but the draws. -/
theorem legacy_read {t : Translation} (hp : PlainAccess s a) (hmode : mode ≠ .advanced) (hk : a.kind = .read)
    (hw : walkOnce s (requestUnder s mode d a) a.va (a.kind != .read) false = .ok (.translated t, s))
    (hex : physExists s t.pa (accessSize a) = true) :
    ∃ v, toOutcome (serveUnder mode d a s) = .next v ∧ v.completion.status = .done ∧ v.completion.pa = t.pa ∧
      v.completion.data = memReadLe s.mem t.pa (accessSize a) ∧ v.completion.nullIndicator = false ∧ sameMemory s v ∧
      v = { s with completion := v.completion, draws := v.draws } :=
  ⟨_, toOutcome_next.2 (serveUnder_read hp hk hw (hp.legacy_settled hk hmode t) hex), rfl, rfl, rfl, rfl, fun _ => rfl, rfl⟩

/-- A write: its bytes are stored at the page and only there. -/
theorem plain_write {t : Translation} (hm : Memory.wf s.mem = true) (hp : PlainAccess s a) (hk : a.kind = .write)
    (hw : walkOnce s (requestUnder s mode d a) a.va (a.kind != .read) false = .ok (.translated t, s))
    (hex : physExists s t.pa (accessSize a) = true) :
    ∃ v, toOutcome (serveUnder mode d a s) = .next v ∧ v.completion.status = .done ∧
      (∀ k, k < accessSize a → memRead v.mem (t.pa + k) = byteAt a.data k) ∧ sameMemoryOutside s v t.pa (accessSize a) ∧
      v = { s with mem := v.mem, history := v.history, completion := v.completion, draws := v.draws } :=
  ⟨_, toOutcome_next.2 (serveUnder_write hp hk hw hex), rfl, fun _ hj => memRead_afterWrite_inside hm hj,
    fun _ hb => memRead_afterWrite_outside hb, rfl⟩

/-- An engine that serves requests is not stuck. -/
theorem not_stuck_of_servesNow {e : Engine} (h : servesNow s e = true) : (engineOf s e).stuck = false := by
  simp only [servesNow, Bool.and_eq_true, Bool.or_eq_true, beq_iff_eq] at h
  obtain ⟨-, hm | hm⟩ := h <;> simp [EngineSt.stuck, hm]

/-- A fault that retained values and then memory give (R353, R805). -/
theorem translate_fault {r : Request} {va : QWord} {isWrite : Bool} {code : BitVec 2} {level : Nat}
    (hw : ∀ n fresh, walkOnce (advanceDraws s n) r va isWrite fresh = .ok (.fault code level, advanceDraws s n)) :
    translate s r va isWrite false = .ok (.fault code level, advanceDraws (advanceDraws s 8) 8) := by
  have hfirst : walkOnce s r va isWrite false = .ok (.fault code level, s) := hw 0 false
  simp only [translate, hfirst, bind, Except.bind, WalkEnd.isFault, Bool.not_false, Bool.and_self, if_true, hw 8 true]
  rfl

/-- A fault in a legacy mode with HANG_SKIP off: the engine hangs, the event is pending, the request never completes (R820). -/
theorem legacy_hang {code : BitVec 2} {level : Nat} (hp : PlainAccess s a) (hmode : mode ≠ .advanced)
    (hskip : s.params.hangSkip = false)
    (hw : ∀ n fresh, walkOnce (advanceDraws s n) (requestUnder s mode d a) a.va (a.kind != .read) fresh =
      .ok (.fault code level, advanceDraws s n)) :
    ∃ v, toOutcome (serveUnder mode d a s) = .next v ∧ (engineOf v a.eng).mode = .hung ∧
      .legacyPageFault a.va (a.kind != .read) code ∈ (engineOf v a.eng).events ∧ v.completion.status = .never ∧
      sameMemory s v ∧ sameOtherEngines s v a.eng ∧
      v = { s with engines := v.engines, completion := v.completion, draws := v.draws } := by
  let drawn := advanceDraws (advanceDraws s 8) 8
  let r := requestUnder s mode d a
  let f := faultRecord drawn r a.va code level
  have hhang : faultModeOf drawn r = .ok .hang := faultModeOf_hang _ (.inr (bit_descUnder_legacy d hmode))
  have hserve : serveUnder mode d a s = .ok (takeHang drawn r f a.va) :=
    ((serveUnder_now hp).trans (serveNow_fault (bare_requestUnder s mode d a) hp.reservedPfm hp.onePage hp.trtt
      (translate_fault hw))).trans (takePageFault_of a.va code level hhang (.inl rfl))
  obtain ⟨hdone, hengine, hothers, hframe⟩ := takeHang_eq (s := drawn) (r := r) f a.va hskip
  have hengine : engineOf (takeHang drawn r f a.va) a.eng = _ := hengine
  refine ⟨_, toOutcome_next.2 hserve, ?_, ?_, ?_, fun b => by rw [hframe]; rfl, hothers, by rw [hframe]; rfl⟩
  · rw [hengine]
    exact stick_of_not_stuck .hung (not_stuck_of_servesNow hp.serves)
  · rw [hengine]
    exact mem_addEvent _ _
  · rw [hdone]

end

end Sys2Proof.Machine

/-! ## The Global GTT: requests and the host's aperture (41_page_walk.md R340, 20_memory.md R104, 40_tiling.md R280; O18) -/

namespace Sys2Proof.Machine

open Sys2Proof

/-! ### Requests under a Global GTT descriptor (R340) -/

/-- The translation of a present Global GTT entry. -/
abbrev ggttTranslation (s : State) (va : QWord) : Translation :=
  leafTranslation s.params.haw .ggtt 1 false va (mem64 s (ggttSlot s va)) Rights.all

theorem ggttTranslation_pa (s : State) (va : QWord) : (ggttTranslation s va).pa = ggttTarget s va :=
  (leafTranslation_page _ _ _ _ _ _ _).2

/-- The walk under a Global GTT descriptor goes by the entry of the page where that is present. -/
theorem walkOnce_ggtt_present {s : State} {d : QWord} {a : Access} (isWrite fresh : Bool)
    (hr : nothingRetained s a.eng = true) (hp : ggttPresent s a.va = true) :
    walkOnce s (requestUnder s .ggtt d a) a.va isWrite fresh = .ok (.translated (ggttTranslation s a.va), s) := by
  rw [walkOnce, walkModeOf_requestUnder_ggtt]
  exact walkGgtt_present rfl rfl (.inr hr) hp

/-- An entry of the table that is not present is a fault with code 01 (R802). -/
theorem walkOnce_ggtt_absent {s : State} {d : QWord} {a : Access} (isWrite fresh : Bool)
    (hr : nothingRetained s a.eng = true) (hin : 8 * field a.va 12 20 + 8 ≤ s.params.gsmSize)
    (hexists : physExists s (ggttSlot s a.va) 8 = true) (hbit : bit (mem64 s (ggttSlot s a.va)) 0 = false) :
    walkOnce s (requestUnder s .ggtt d a) a.va isWrite fresh = .ok (.fault 1 1, s) := by
  rw [walkOnce, walkModeOf_requestUnder_ggtt]
  have hread := readEntry_plain (c := legacyCtl s.params .ggtt isWrite) fresh a.va 1 false (.inr hr) rfl hexists
  have hstep := entryStep_not_present s.params.haw (legacyCtl s.params .ggtt isWrite) 1 false a.va Rights.all _ hbit
  rw [ggttSlot] at hread hstep
  simp only [walkGgtt, if_neg (Nat.not_lt.2 hin), ownRequest, hread, bind, Except.bind, hstep, pure, Except.pure]

/-! ### The place of an aperture byte (R104, R280) -/

/-- The place that a fence gives an aperture address: the byte of the tiled region that a linear surface of the fence's pitch shows
there (R280, R251, R253). -/
def fencedPlace (f : Fence) (g : Nat) : Nat :=
  let width := if f.walkY then 128 else 512
  let height := if f.walkY then 32 else 8
  let y := (g - f.base) / (f.pitch * width)
  let x := (g - f.base) % (f.pitch * width)
  let inTile := if f.walkY then 512 * (x % 128 / 16) + 16 * (y % 32) + x % 16 else 512 * (y % 8) + x % 512
  f.base + 4096 * (f.pitch * (y / height) + x / width) + inTile

/-- The row and the column of a byte of a fence, as the model takes them tile by tile. -/
theorem fenceMap_eq (f : Fence) (g : Nat) : fenceMap f g = fencedPlace f g := by
  have hrow : ∀ w, (g - f.base) / w / f.pitch = (g - f.base) / (f.pitch * w) := fun w => by
    rw [Nat.div_div_eq_div_mul, Nat.mul_comm]
  have hcol : ∀ w, (g - f.base) / w % f.pitch * w + (g - f.base) % w = (g - f.base) % (f.pitch * w) := fun w => by
    rw [Nat.mul_comm f.pitch, Nat.mod_mul, Nat.mul_comm, Nat.add_comm]
  cases hy : f.walkY <;>
    simp only [fenceMap, fencedPlace, hy, if_true, if_false, Bool.false_eq_true, hrow, hcol, tiledOffsetX, tiledOffsetY] <;> ring

theorem fenceTile_linear {s : State} {g : Nat} (h : s.regs.fences.filter (fenceCovers g) = []) : fenceTile s g = .ok g := by
  simp [fenceTile, h]

/-- One fence with a pitch of 1 tile to 256 KB tiles the address (R280, R285). -/
theorem fenceTile_fenced {s : State} {g : Nat} {f : Fence} (h : s.regs.fences.filter (fenceCovers g) = [f]) (hpos : 0 < f.pitch)
    (hmax : f.pitch * (if f.walkY then 128 else 512) ≤ 262144) : fenceTile s g = .ok (fencedPlace f g) := by
  simp only [fenceTile, h, if_neg (Nat.ne_of_gt hpos), fencePitch, if_neg (Nat.not_lt.2 hmax), fenceMap_eq]

/-- With nothing retained on any engine the aperture goes by the entry in memory (R351; log entry 85). -/
theorem apertureEntry_eq {s : State} (h : ∀ e, nothingRetained s e = true) (pa : Nat) : apertureEntry s pa = mem64 s pa := by
  have hmark : ∀ e, min s.history.length (engineOf s e).invMark = s.history.length := fun e =>
    Nat.min_eq_left (by simpa [nothingRetained] using h e)
  have hold : oldestMark s = s.history.length := by
    simp only [oldestMark, allEngines, List.foldl_cons, List.foldl_nil, hmark]
  simp [apertureEntry, hold, pickValue]

/-- An aperture byte whose place has a present entry lies where the Global GTT puts that place (R104, R340). -/
theorem apertureByte_present {s : State} {g la : Nat} (hr : ∀ e, nothingRetained s e = true) (hf : fenceTile s g = .ok la)
    (hla : la < 2 ^ 32) (hp : ggttPresent s (BitVec.ofNat 64 la) = true) :
    apertureByte s g = .ok (some (ggttTarget s (BitVec.ofNat 64 la))) := by
  simp only [ggttPresent, Bool.and_eq_true, decide_eq_true_eq] at hp
  obtain ⟨⟨hin, hexists⟩, hbit⟩ := hp
  have hnat : (BitVec.ofNat 64 la).toNat = la := by rw [BitVec.toNat_ofNat]; omega
  have hoff : la % 2 ^ 32 / 4096 * 8 = 8 * field (BitVec.ofNat 64 la) 12 20 := by rw [field_eq, hnat]; omega
  have hcheck := (checkPhys_ok s _ 8).2 hexists
  rw [ggttSlot] at hcheck hbit
  simp only [apertureByte, hf, bind, Except.bind, hoff, if_neg (Nat.not_lt.2 hin), hcheck, apertureEntry_eq hr, hbit,
    Bool.not_true, Bool.false_eq_true, if_false, pure, Except.pure, ggttTarget, ggttSlot, hnat, entryAddr_eq]

/-! ### One byte of the host through the aperture -/

/-- A host access of one byte in the aperture goes where that byte lies. -/
theorem hostAccess_aperture {s : State} {g pa : Nat} (write : Bool) (data : QWord) (hg : g < s.params.gmadrSize)
    (hbyte : apertureByte s g = .ok (some pa)) (hex : physExists s pa 1 = true) :
    hostAccess write (s.params.gmadrBase + g) 1 data s = .ok (if write then noEffect (advanceDraws (writeHost s [some pa] data) 24)
      else advanceDraws (complete s ⟨.done, readHost s [some pa], false, 0, pa, .wb, 0⟩) 24) := by
  have hregion : hostByte s.params (s.params.gmadrBase + g) = .aperture g := by
    simp [hostByte, inRange, hg]
  have hbytes : hostBytes s.params (s.params.gmadrBase + g) 1 = [.aperture g] := congrArg (fun b => [b]) hregion
  have hplace : placeBytes s [.aperture g] = .ok (some [some pa]) := by
    simp only [placeBytes, hbyte, Except.map, Option.map, bind, Except.bind, pure, Except.pure, (checkPhys_ok s pa 1).2 hex]
  have hscattered : hostAccess write (s.params.gmadrBase + g) 1 data s = scatteredAccess write [.aperture g] data s := by
    simp only [hostAccess, hbytes]
    rfl
  rw [hscattered, scatteredAccess, hplace]
  cases write <;> rfl

/-- With nothing stale the processor sees memory (R154). -/
theorem cpuStale_nil {s : State} (h : nothingStale s = true) (pa n : Nat) : cpuStale s pa n = [] := by
  simp only [nothingStale, decide_eq_true_eq] at h
  rw [cpuStale, viewsAt, oldViews_nil, List.map_nil]
  intro k hk
  rw [cpuMayHide]
  cases s.history[k].writer.coherency <;> simp [performedFor] <;> intro _ <;> omega

theorem readHost_byte {s : State} (h : nothingStale s = true) (pa : Nat) :
    readHost s [some pa] = (memRead s.mem pa).setWidth 64 := by
  have hplace : atomicPlace [some pa] = some pa := by simp [atomicPlace, followOn, singleCopy, Nat.mod_one]
  simp only [readHost, hplace, List.length_singleton, readPlain, cpuStale_nil h, pickValue, memReadLe]
  simp

theorem writeHost_byte (s : State) (pa : Nat) (v : QWord) : writeHost s [some pa] v = store s pa 1 v Writer.cpu := by
  have hplace : atomicPlace [some pa] = some pa := by simp [atomicPlace, followOn, singleCopy, Nat.mod_one]
  simp only [writeHost, hplace, List.length_singleton]

/-- A byte stored reads back (R130). -/
theorem memRead_store_byte {s : State} (pa : Nat) (v : QWord) (w : Writer) (hm : Memory.wf s.mem = true) :
    memRead (store s pa 1 v w).mem pa = byteAt v 0 :=
  memRead_memWriteLe_inside s.mem pa 1 v 0 (by omega) hm

/-- A transaction that is no object is carried out on the machine without it. -/
theorem step_op {s t : State} {o : Op} {rest : List Input} (hin : s.inputs = .op o :: rest)
    (h : runOp o { s with inputs := rest } = .ok t) : step s = .next t := by
  rw [step_of_inputs_cons hin]
  exact toOutcome_next.2 h

/-- Settles O18: the request's walk is the one entry of its page, present or not; the host's byte goes by the entry of its place. -/
theorem ggttAccess : Obligations.GgttAccess := by
  unfold Obligations.GgttAccess
  intro s hm
  constructor
  · intro d a hplain pa
    have hp := PlainAccess.of_plainRequest hplain
    have hpa : (ggttTranslation s a.va).pa = pa := ggttTranslation_pa s a.va
    refine ⟨fun hpresent hex => ⟨fun hk => ?_, fun hk => ?_⟩, fun hskip hin hexists hbit => ?_⟩
    · have h := legacy_read (d := d) hp (by decide) hk (walkOnce_ggtt_present _ false hp.retained hpresent) (hpa ▸ hex)
      rw [hpa] at h
      exact h
    · have h := plain_write (d := d) hm hp hk (walkOnce_ggtt_present _ false hp.retained hpresent) (hpa ▸ hex)
      rw [hpa] at h
      exact h
    · exact legacy_hang hp (by decide) hskip fun n fresh =>
        walkOnce_ggtt_absent (s := advanceDraws s n) _ fresh hp.retained hin hexists hbit
  · intro g data rest f hg hr hstale width height y x inTile fenced la hla hlt hpresent hex
    have hf : fenceTile s g = .ok la := by
      rcases hla with ⟨hnone, rfl⟩ | ⟨hone, hpos, hmax, rfl⟩
      · exact fenceTile_linear hnone
      · exact fenceTile_fenced hone hpos hmax
    have haccess : ∀ write, hostAccess write (s.params.gmadrBase + g) 1 data { s with inputs := rest } = _ := fun write =>
      hostAccess_aperture (s := { s with inputs := rest }) write data hg
        (apertureByte_present (s := { s with inputs := rest }) hr hf hlt hpresent) hex
    refine ⟨fun hin => ⟨_, step_op hin (haccess false), rfl, readHost_byte hstale _, fun _ => rfl, rfl⟩, fun hin =>
      ⟨_, step_op hin (haccess true), ?_, ?_, ?_⟩⟩
    · rw [writeHost_byte]
      exact memRead_store_byte _ data Writer.cpu hm
    · intro b hb
      rw [writeHost_byte]
      exact memRead_store_outside _ _ 1 data Writer.cpu b hb
    · rw [writeHost_byte]
      rfl

end Sys2Proof.Machine

/-! ## Walks of several levels (41_page_walk.md R310-R313, R330, R341-R343) -/

namespace Sys2Proof.Machine

open Sys2Proof

/-! ### What a walk does to an entry that it reads (R330, R420) -/

/-- The value with which a walk goes on from the entry `q`: with A/D management the one whose flags are set; `inner` tells the levels
above the page tables (R330). -/
def managedEntry (c : WalkCtl) (inner : Bool) (q : QWord) : QWord :=
  if c.ad then pageAtomic inner c.wpe c.eafe c.isWrite q else q

/-- The machine after a walk read the entry in a slot: its flags are set in memory (R330). -/
def visit (c : WalkCtl) (inner : Bool) (s : State) (slot : Nat) : State := (applyAtomic (managedEntry c inner) s slot).2

theorem managedEntry_unmanaged {c : WalkCtl} (inner : Bool) (q : QWord) (h : c.ad = false) : managedEntry c inner q = q :=
  if_neg (by simp [h])

/-- An entry whose flags need no change leaves the machine as it is. -/
theorem visit_settled {c : WalkCtl} {inner : Bool} {s : State} {slot : Nat}
    (h : managedEntry c inner (mem64 s slot) = mem64 s slot) : visit c inner s slot = s :=
  if_pos h

/-- What reading an entry does to the machine: nothing, or the store of the entry with its flags. -/
theorem visit_cases (c : WalkCtl) (inner : Bool) (s : State) (slot : Nat) :
    visit c inner s slot = s ∨ visit c inner s slot = store s slot 8 (managedEntry c inner (mem64 s slot)) Writer.gam :=
  ite_eq_or_eq _ _ _

theorem visit_params (c : WalkCtl) (inner : Bool) (s : State) (slot : Nat) : (visit c inner s slot).params = s.params := by
  rcases visit_cases c inner s slot with h | h
  · rw [h]
  · rw [h, store_params]

/-- The entry exists, and its flags need no change or may be set (R452). -/
structure Readable (s : State) (c : WalkCtl) (inner : Bool) (slot : Nat) : Prop where
  inMemory : physExists s slot 8 = true
  update : managedEntry c inner (mem64 s slot) = mem64 s slot ∨ adUpdateAllowed s slot c.cd = true

/-- Reading such an entry from memory. -/
theorem readEntry_visit {s : State} {e : Engine} {c : WalkCtl} {fresh ips : Bool} {va : QWord} {level pa : Nat}
    (hkept : retainedEntries s e c va level ips pa = []) (hr : Readable s c (decide (level ≠ 1)) pa) :
    readEntry s e c fresh va level ips pa =
      .ok (some (managedEntry c (decide (level ≠ 1)) (mem64 s pa)), visit c (decide (level ≠ 1)) s pa) := by
  obtain ⟨hexists, hupdate⟩ := hr
  have hnone : (if fresh then [] else (retainedEntries s e c va level ips pa).filter (retainedUsable c level)) = [] := by
    simp [hkept]
  simp only [readEntry, (checkPhys_ok s pa 8).2 hexists, bind, Except.bind, hnone, List.isEmpty_nil, Bool.not_true,
    Bool.false_and, Bool.false_eq_true, if_false]
  cases hc : c.ad with
  | false =>
    have hsame := managedEntry_unmanaged (decide (level ≠ 1)) (mem64 s pa) hc
    rw [visit_settled hsame, hsame]
    rfl
  | true =>
    have hmanaged : managedEntry c (decide (level ≠ 1)) (mem64 s pa) =
        pageAtomic (decide (level ≠ 1)) c.wpe c.eafe c.isWrite (mem64 s pa) := if_pos hc
    rw [hmanaged] at hupdate
    by_cases hsame : pageAtomic (decide (level ≠ 1)) c.wpe c.eafe c.isWrite (mem64 s pa) = mem64 s pa
    · rw [visit_settled (hmanaged.trans hsame), hmanaged]
      simp only [if_true, hsame]
      rfl
    · have hallowed := hupdate.resolve_left hsame
      have hstore : visit c (decide (level ≠ 1)) s pa =
          store s pa 8 (pageAtomic (decide (level ≠ 1)) c.wpe c.eafe c.isWrite (mem64 s pa)) Writer.gam := by
        rw [← hmanaged]
        exact if_neg (by rw [hmanaged]; exact hsame)
      rw [hstore, hmanaged]
      simp only [if_true, if_neg hsame, hallowed]
      rfl

/-! ### Slots that a walk has not changed -/

/-- In the state `u` of a walk that began in `s` a slot is as it was, and no other value of it may be used (R351). -/
structure Untouched (s u : State) (e : Engine) (slot : Nat) : Prop where
  params : u.params = s.params
  entry : mem64 u slot = mem64 s slot
  retained : ∀ covers, retainedValues u e covers slot = []
  allowed : ∀ cd, adUpdateAllowed u slot cd = adUpdateAllowed s slot cd

/-- With nothing retained every slot is untouched at first. -/
theorem Untouched.start {s : State} {e : Engine} (h : nothingRetained s e = true) (slot : Nat) : Untouched s s e slot :=
  ⟨rfl, rfl, fun covers => retainedValues_nil h covers slot, fun _ => rfl⟩

theorem Untouched.readable {s u : State} {e : Engine} {slot : Nat} {c : WalkCtl} {inner : Bool} (h : Untouched s u e slot)
    (hr : Readable s c inner slot) : Readable u c inner slot := by
  refine ⟨?_, ?_⟩
  · rw [physExists_iff, h.params]
    exact (physExists_iff s slot 8).1 hr.inMemory
  · rw [h.entry, h.allowed]
    exact hr.update

/-- A QWord stored in an aligned slot leaves every other aligned slot as it is. -/
theorem mem64_store_other {s : State} {a slot : Nat} (v : QWord) (w : Writer) (hne : a ≠ slot) (ha : 8 ∣ a) (hs : 8 ∣ slot) :
    mem64 (store s a 8 v w) slot = mem64 s slot :=
  memReadLe_congr slot 8 fun k hk => memRead_store_outside s a 8 v w (slot + k) (by omega)

/-- What such a store overwrites is no value of another slot (R351). -/
theorem retainedValues_store_other {s : State} {e : Engine} {a slot : Nat} (covers : ScopeMark → QWord → Bool) (v : QWord)
    (w : Writer) (hne : a ≠ slot) (ha : 8 ∣ a) (hs : 8 ∣ slot) :
    retainedValues (store s a 8 v w) e covers slot = retainedValues s e covers slot := by
  have hsame : a / 8 = (a + 8 - 1) / 8 := by omega
  have hdiff : (a / 8 == slot / 8) = false := beq_eq_false_iff_ne.2 (by omega)
  have hhist : (store s a 8 v w).history = ⟨a / 8, mem64 s (8 * (a / 8)), touchedBytes (a / 8) a 8, w⟩ :: s.history := by
    simp only [store, oldValues, ← hsame, if_true, List.singleton_append]
  have hengine : engineOf (store s a 8 v w) e = engineOf s e := engineOf_congr rfl e
  rw [retainedValues, hhist, olderWhere, hengine]
  simp only [hdiff, Bool.false_and, Bool.false_eq_true, if_false]
  rfl

/-- Reading one entry leaves the others untouched. -/
theorem Untouched.visit_other {s u : State} {e : Engine} {a slot : Nat} (c : WalkCtl) (inner : Bool) (h : Untouched s u e slot)
    (hne : a ≠ slot) (ha : 8 ∣ a) (hs : 8 ∣ slot) : Untouched s (visit c inner u a) e slot := by
  rcases visit_cases c inner u a with heq | heq
  · rwa [heq]
  · rw [heq]
    exact ⟨h.params, (mem64_store_other _ _ hne ha hs).trans h.entry,
      fun covers => (retainedValues_store_other covers _ _ hne ha hs).trans (h.retained covers), h.allowed⟩

theorem Untouched.visits_other {s u : State} {e : Engine} {slot : Nat} (c : WalkCtl) (inner : Bool) {l : List Nat}
    (h : Untouched s u e slot) (hl : ∀ a ∈ l, a ≠ slot ∧ 8 ∣ a) (hs : 8 ∣ slot) :
    Untouched s (l.foldl (visit c inner) u) e slot := by
  induction l generalizing u with
  | nil => exact h
  | cons a l ih =>
    obtain ⟨hne, ha⟩ := hl a (by simp)
    exact ih (h.visit_other c inner hne ha hs) fun b hb => hl b (by simp [hb])

/-- Entries whose flags need no change leave the machine as it is. -/
theorem visits_settled {s : State} {c : WalkCtl} {inner : Bool} {l : List Nat}
    (h : ∀ slot ∈ l, managedEntry c inner (mem64 s slot) = mem64 s slot) : l.foldl (visit c inner) s = s := by
  induction l with
  | nil => rfl
  | cons a l ih =>
    rw [List.foldl_cons, visit_settled (h a (by simp))]
    exact ih fun b hb => h b (by simp [hb])

/-! ### One level -/

section
variable {s u : State} {e : Engine} {c : WalkCtl} {fresh ips : Bool} {va : QWord} {l base slot : Nat} {inner : Bool} {acc : Rights}

/-- A level whose entry points to a table: the walk goes on there, its flags set. -/
theorem walkFrom_visit_next {l' base' : Nat} {ips' : Bool} (hslot : entryAddress (l + 1) base ips va = slot)
    (hinner : decide (l + 1 ≠ 1) = inner) (hu : Untouched s u e slot) (hr : Readable s c inner slot)
    (hg : s.params.gttCache = false)
    (hs : entryStep s.params.haw c (l + 1) ips va acc (managedEntry c inner (mem64 s slot)) = .next l' base' ips') :
    walkFrom e c fresh va (l + 1) base ips acc u =
      walkFrom e c fresh va l base' ips' (accumulateIn c.dialect acc (managedEntry c inner (mem64 s slot)))
        (visit c inner u slot) := by
  subst hslot hinner
  have hgtt : (visit c (decide (l + 1 ≠ 1)) u (entryAddress (l + 1) base ips va)).params = s.params :=
    (visit_params c _ u _).trans hu.params
  rw [walkFrom, readEntry_visit (hu.retained _) (hu.readable hr), hu.entry]
  simp only [bind, Except.bind, gttCacheViolated, hgtt, hg, Bool.false_and, Bool.false_eq_true, if_false, hs]

/-- A level whose entry ends the walk ends it, its flags set. -/
theorem walkFrom_visit_end {w : WalkEnd} (hslot : entryAddress (l + 1) base ips va = slot) (hinner : decide (l + 1 ≠ 1) = inner)
    (hu : Untouched s u e slot) (hr : Readable s c inner slot) (hg : s.params.gttCache = false)
    (hs : entryStep s.params.haw c (l + 1) ips va acc (managedEntry c inner (mem64 s slot)) = w)
    (hw : ∀ a b i, w ≠ .next a b i) :
    walkFrom e c fresh va (l + 1) base ips acc u = .ok (w, visit c inner u slot) := by
  subst hslot hinner
  have hgtt : (visit c (decide (l + 1 ≠ 1)) u (entryAddress (l + 1) base ips va)).params = s.params :=
    (visit_params c _ u _).trans hu.params
  rw [walkFrom, readEntry_visit (hu.retained _) (hu.readable hr), hu.entry]
  simp only [bind, Except.bind, gttCacheViolated, hgtt, hg, Bool.false_and, Bool.false_eq_true, if_false, hs]
  cases w with
  | next a b i => exact absurd rfl (hw a b i)
  | _ => rfl

end

/-! ### Four levels, to a page of 4 KB, 64 KB, 2 MB or 1 GB (R310-R313) -/

/-- The level of the entry that maps a page of 2^k bytes (R312). -/
def leafLevel (k : Nat) : Nat := if k = 30 then 3 else if k = 21 then 2 else 1

theorem leafLevel_pos (k : Nat) : ∃ l, leafLevel k = l + 1 := by
  unfold leafLevel
  split
  · exact ⟨2, rfl⟩
  · split
    · exact ⟨1, rfl⟩
    · exact ⟨0, rfl⟩

/-- A leaf of that level maps a page of that size (R312). -/
theorem leafBits_leafLevel {k : Nat} (hk : k ∈ [12, 16, 21, 30]) : leafBits (leafLevel k) (decide (k = 16)) = k := by
  simp only [List.mem_cons, List.not_mem_nil, or_false] at hk
  rcases hk with rfl | rfl | rfl | rfl <;> rfl

/-- The rights accumulated so far refuse nothing (R320); a legacy walk accumulates none (R321). -/
def rightsPass (c : WalkCtl) (acc : Rights) : Prop :=
  c.dialect = .ia32e → privilegeRefused c acc = false ∧ smepRefused c acc = false ∧ writeRefused c acc = false

/-- The entry in a slot lets a walk that nothing has refused go on to the table it points to (R311). -/
structure OpensTable (s : State) (c : WalkCtl) (va : QWord) (level slot : Nat) : Prop where
  readable : Readable s c true slot
  step : ∀ acc, rightsPass c acc →
    entryStep s.params.haw c level false va acc (managedEntry c true (mem64 s slot)) =
      .next (level - 1) (slotTable s slot) (decide (level = 2) && bit (mem64 s slot) 11 && c.en64k)
  rights : ∀ acc, rightsPass c acc → rightsPass c (accumulateIn c.dialect acc (managedEntry c true (mem64 s slot)))

/-- The slot of a PT entry of a 64 KB page, as the walk and as the statements compute it (R313). -/
theorem entryAddress_64k (s : State) (root : Nat) (va : QWord) :
    entryAddress 1 (slotTable s (pdSlot s root va)) true va = pt64Slot s root va := by
  simp only [entryAddress, pt64Slot, index64k, decide_true, Bool.and_self, if_true]
  rw [Nat.mul_comm 16]

/-- A walk whose entries above the leaf open the next table each reaches the slot of the leaf, these entries visited. -/
theorem walkFrom_reaches {s : State} {e : Engine} {c : WalkCtl} {va : QWord} {root k : Nat} (fresh : Bool)
    (hk : k ∈ [12, 16, 21, 30]) (hg : s.params.gttCache = false) (hstart : rightsPass c Rights.all)
    (h4 : OpensTable s c va 4 (pml4Slot root va)) (h3 : k ≠ 30 → OpensTable s c va 3 (pdpSlot s root va))
    (h2 : k ≠ 30 → k ≠ 21 → OpensTable s c va 2 (pdSlot s root va) ∧
      (bit (mem64 s (pdSlot s root va)) 11 && c.en64k) = decide (k = 16))
    (hun : ∀ l slot, l ++ [slot] <+: pointerSlots s root va k → Untouched s (l.foldl (visit c true) s) e slot) :
    ∃ base acc, entryAddress (leafLevel k) base (decide (k = 16)) va = leafSlot s root va k ∧ rightsPass c acc ∧
      walkFrom e c fresh va 4 root false Rights.all s =
        walkFrom e c fresh va (leafLevel k) base (decide (k = 16)) acc ((pointerSlots s root va k).foldl (visit c true) s) := by
  have hfirst : pml4Slot root va :: [] <+: pointerSlots s root va k := List.prefix_cons_inj _ |>.2 (List.nil_prefix)
  have hpml4 := walkFrom_visit_next (fresh := fresh) (entryAddress_eq 4 root va) rfl (hun [] _ hfirst) h4.readable hg
    (h4.step _ hstart)
  have hrights4 := h4.rights _ hstart
  simp only [List.mem_cons, List.not_mem_nil, or_false] at hk
  by_cases hk30 : k = 30
  · subst hk30
    exact ⟨_, _, entryAddress_eq 3 _ va, hrights4, hpml4⟩
  have h3 := h3 hk30
  have hsecond : [pml4Slot root va] ++ [pdpSlot s root va] <+: pointerSlots s root va k := by
    simp [pointerSlots, hk30]
  have hpdp := walkFrom_visit_next (fresh := fresh) (entryAddress_eq 3 _ va) rfl (hun _ _ hsecond) h3.readable hg
    (h3.step _ hrights4)
  have hrights3 := h3.rights _ hrights4
  by_cases hk21 : k = 21
  · subst hk21
    exact ⟨_, _, entryAddress_eq 2 _ va, hrights3, hpml4.trans hpdp⟩
  obtain ⟨h2, hips⟩ := h2 hk30 hk21
  have hthird : [pml4Slot root va, pdpSlot s root va] ++ [pdSlot s root va] <+: pointerSlots s root va k := by
    simp [pointerSlots, hk30, hk21]
  have hpd := walkFrom_visit_next (fresh := fresh) (entryAddress_eq 2 _ va) rfl (hun _ _ hthird) h2.readable hg
    (h2.step _ hrights3)
  have hrights2 := h2.rights _ hrights3
  have hwalk := hpml4.trans (hpdp.trans hpd)
  simp only [decide_true, Bool.true_and, hips] at hwalk
  by_cases hk16 : k = 16
  · subst hk16
    exact ⟨_, _, entryAddress_64k s root va, hrights2, hwalk⟩
  · obtain rfl : k = 12 := by omega
    exact ⟨_, _, entryAddress_eq 1 _ va, hrights2, hwalk⟩

end Sys2Proof.Machine

/-! ## Requests of the legacy per-process modes (41_page_walk.md R321, R322, R341, R342; O19, O20, O22) -/

namespace Sys2Proof.Machine

open Sys2Proof

/-! ### The leaf of a legacy walk (R321, R322) -/

/-- How the present entry of a page of 2^k bytes ends a legacy walk. -/
def legacyEnd (haw : Nat) (dialect : Dialect) (k : Nat) (isWrite : Bool) (va : QWord) (acc : Rights) (e : QWord) : WalkEnd :=
  if bit e 9 then .nullPage
  else if isWrite && !bit e 1 then .fault 3 (leafLevel k)
  else .translated (leafTranslation haw dialect (leafLevel k) (decide (k = 16)) va e acc)

theorem entryStep_legacyEnd {haw k : Nat} {c : WalkCtl} {va : QWord} {acc : Rights} {e : QWord} (hd : c.dialect ≠ .ia32e)
    (hd' : c.dialect ≠ .ggtt) (hp : bit e 0 = true) (hl : isLeaf c.dialect (leafLevel k) e = true) :
    entryStep haw c (leafLevel k) (decide (k = 16)) va acc e = legacyEnd haw c.dialect k c.isWrite va acc e := by
  rw [entryStep_legacy_leaf hd hp hl]
  simp only [legacyEnd, ne_eq, hd', not_false_eq_true, true_and, Bool.and_eq_true, Bool.not_eq_true']

theorem legacyEnd_ne_next (haw : Nat) (dialect : Dialect) (k : Nat) (isWrite : Bool) (va : QWord) (acc : Rights) (e : QWord) :
    ∀ a b i, legacyEnd haw dialect k isWrite va acc e ≠ .next a b i := by
  intro a b i
  unfold legacyEnd
  split
  · simp
  · split <;> simp

theorem legacyEnd_null {haw : Nat} {dialect : Dialect} {k : Nat} {isWrite : Bool} {va : QWord} {acc : Rights} {e : QWord}
    (h : bit e 9 = true) : legacyEnd haw dialect k isWrite va acc e = .nullPage := if_pos h

/-- A write is refused by R/W = 0 in the leaf (R321, D14). -/
theorem legacyEnd_refused {haw : Nat} {dialect : Dialect} {k : Nat} {va : QWord} {acc : Rights} {e : QWord} (h9 : bit e 9 = false)
    (h1 : bit e 1 = false) : legacyEnd haw dialect k true va acc e = .fault 3 (leafLevel k) := by
  simp [legacyEnd, h9, h1]

/-- A read, or a write with R/W = 1, is translated by the leaf. -/
theorem legacyEnd_page {haw : Nat} {dialect : Dialect} {k : Nat} {isWrite : Bool} {va : QWord} {acc : Rights} {e : QWord}
    (h9 : bit e 9 = false) (h1 : isWrite = true → bit e 1 = true) :
    legacyEnd haw dialect k isWrite va acc e =
      .translated (leafTranslation haw dialect (leafLevel k) (decide (k = 16)) va e acc) := by
  cases isWrite with
  | false => simp [legacyEnd, h9]
  | true => simp [legacyEnd, h9, h1 rfl]

/-- The page that such a leaf gives (R312). -/
theorem leafTranslation_pa {haw k : Nat} {dialect : Dialect} {va : QWord} {acc : Rights} {e : QWord} (hk : k ∈ [12, 16, 21, 30]) :
    (leafTranslation haw dialect (leafLevel k) (decide (k = 16)) va e acc).pa = addrField haw k e + va.toNat % 2 ^ k := by
  rw [(leafTranslation_page _ _ _ _ _ _ _).2, leafBits_leafLevel hk]

/-! ### The two walks -/

theorem walkOnce_of_ppgtt32 {s : State} {r : Request} (va : QWord) (isWrite fresh : Bool) (hmode : walkModeOf r = .ppgtt32) :
    walkOnce s r va isWrite fresh = walkFrom r.acc.eng (legacyCtl s.params .legacy32 isWrite) fresh va 2
      (addrField s.params.haw 12 (pdpRegister (pointersOf (engineOf s r.acc.eng)) va)) false Rights.all s := by
  simp only [walkOnce, hmode, entryAddr_eq]

theorem walkOnce_of_ppgtt48 {s : State} {r : Request} (va : QWord) (isWrite fresh : Bool) (hmode : walkModeOf r = .ppgtt48) :
    walkOnce s r va isWrite fresh = walkFrom r.acc.eng (legacyCtl s.params .legacy64 isWrite) fresh va 4
      (addrField s.params.haw 12 (pointersOf (engineOf s r.acc.eng)).pdp0) false Rights.all s := by
  simp only [walkOnce, hmode, entryAddr_eq]

/-- The leaf of a legacy 32-bit walk that reaches a page of 2^k bytes (R341, R313). -/
theorem walkOnce_ppgtt32 {s : State} {r : Request} {va : QWord} {k : Nat} (isWrite fresh : Bool)
    (hmode : walkModeOf r = .ppgtt32) (hr : nothingRetained s r.acc.eng = true) (hg : s.params.gttCache = false)
    (hk : k ∈ [12, 16]) (hmaps : maps32 s r.acc.eng va k = true) :
    ∃ acc, walkOnce s r va isWrite fresh =
      .ok (legacyEnd s.params.haw .legacy32 k isWrite va acc (mem64 s (leafSlot32 s r.acc.eng va k)), s) := by
  simp only [maps32, legacyLeaf, slotPresent, Bool.and_eq_true, beq_iff_eq] at hmaps
  obtain ⟨⟨⟨hpdIn, hpdP⟩, hips⟩, ⟨hleafIn, hleafP⟩, -⟩ := hmaps
  let c := legacyCtl s.params .legacy32 isWrite
  have hplain : PlainWalk s r.acc.eng c fresh := ⟨.inr hr, rfl, hg⟩
  let base := addrField s.params.haw 12 (pdpRegister (pointersOf (engineOf s r.acc.eng)) va)
  have hpd : entryAddress 2 base false va = pdSlot32 s r.acc.eng va := entryAddress_eq 2 base va
  have hopen := entryStep_legacy_pointer (haw := s.params.haw) (c := c) (level := 2) (ips := false) (va := va) (acc := Rights.all)
    (show Dialect.legacy32 ≠ .ia32e by decide) hpdP rfl
  have hbit : (decide (2 = 2) && bit (mem64 s (pdSlot32 s r.acc.eng va)) 11 && c.en64k) = decide (k = 16) := by
    simp only [decide_true, Bool.true_and]
    exact hips
  rw [hbit] at hopen
  have hfirst := walkFrom_next (ips := false) (va := va) (l := 1) (base := base) (acc := Rights.all) hplain (by rw [hpd]; exact hpdIn)
    (by rw [hpd]; exact hopen)
  rw [hpd] at hfirst
  have hlevel : leafLevel k = 1 := by
    simp only [List.mem_cons, List.not_mem_nil, or_false] at hk
    rcases hk with rfl | rfl <;> rfl
  have hslot : entryAddress 1 (slotTable s (pdSlot32 s r.acc.eng va)) (decide (k = 16)) va = leafSlot32 s r.acc.eng va k := by
    unfold leafSlot32
    split
    · rename_i h16
      simp only [h16, entryAddress, index64k, decide_true, Bool.and_self, if_true]
      rw [Nat.mul_comm 16]
    · rename_i h16
      rw [decide_eq_false h16]
      exact entryAddress_eq 1 _ va
  have hend := fun acc => entryStep_legacyEnd (haw := s.params.haw) (k := k) (c := c) (va := va) (acc := acc)
    (show Dialect.legacy32 ≠ .ia32e by decide) (show Dialect.legacy32 ≠ .ggtt by decide) hleafP (by rw [hlevel]; rfl)
  rw [hlevel] at hend
  have hleaf : ∀ acc, walkFrom r.acc.eng c fresh va 1 (slotTable s (pdSlot32 s r.acc.eng va)) (decide (k = 16)) acc s =
      .ok (legacyEnd s.params.haw .legacy32 k isWrite va acc (mem64 s (leafSlot32 s r.acc.eng va k)), s) := fun acc =>
    walkFrom_end (l := 0) hplain (by rw [Nat.zero_add, hslot]; exact hleafIn) (by rw [Nat.zero_add, hslot]; exact hend acc)
      (legacyEnd_ne_next _ _ _ _ _ _ _)
  exact ⟨_, (walkOnce_of_ppgtt32 va isWrite fresh hmode).trans (hfirst.trans (hleaf _))⟩

/-- A legacy entry above the leaf opens its table where it is present and no leaf (R311, R321). -/
theorem opensTable_legacy {s : State} {va : QWord} {isWrite : Bool} {level slot : Nat} (hp : slotPresent s slot = true)
    (hl : isLeaf .legacy64 level (mem64 s slot) = false) :
    OpensTable s (legacyCtl s.params .legacy64 isWrite) va level slot := by
  simp only [slotPresent, Bool.and_eq_true] at hp
  obtain ⟨hin, hbit⟩ := hp
  have hsame : managedEntry (legacyCtl s.params .legacy64 isWrite) true (mem64 s slot) = mem64 s slot :=
    managedEntry_unmanaged true _ rfl
  refine ⟨⟨hin, .inl hsame⟩, fun acc _ => ?_, fun acc _ h => nomatch h⟩
  rw [hsame]
  exact entryStep_legacy_pointer (show Dialect.legacy64 ≠ .ia32e by decide) hbit hl

/-- An entry with PS = 0 is no leaf above the page tables (R187). -/
theorem isLeaf_false {d : Dialect} {level : Nat} {e : QWord} (hlevel : level ≠ 1) (hps : bit e 7 = false) :
    isLeaf d level e = false := by
  simp [isLeaf, hlevel, hps]

/-- The leaf of a legacy 48-bit walk that reaches a page of 2^k bytes (R342, R313). -/
theorem walkOnce_ppgtt48 {s : State} {r : Request} {va : QWord} {k : Nat} (isWrite fresh : Bool)
    (hmode : walkModeOf r = .ppgtt48) (hr : nothingRetained s r.acc.eng = true) (hg : s.params.gttCache = false)
    (hk : k ∈ [12, 16, 21, 30])
    (hreach : reaches48 s (addrField s.params.haw 12 (pointersOf (engineOf s r.acc.eng)).pdp0) va k = true) :
    ∃ acc, walkOnce s r va isWrite fresh = .ok (legacyEnd s.params.haw .legacy64 k isWrite va acc
      (mem64 s (leafSlot s (addrField s.params.haw 12 (pointersOf (engineOf s r.acc.eng)).pdp0) va k)), s) := by
  generalize hroot : addrField s.params.haw 12 (pointersOf (engineOf s r.acc.eng)).pdp0 = root at hreach ⊢
  simp only [reaches48, Bool.and_eq_true, Bool.or_eq_true, decide_eq_true_eq, beq_iff_eq, List.all_eq_true] at hreach
  obtain ⟨⟨⟨⟨hpml4, hpointers⟩, hleaf⟩, hlarge⟩, hips⟩ := hreach
  let c := legacyCtl s.params .legacy64 isWrite
  have hopen : ∀ {level slot}, level ≠ 1 → slot ∈ (pointerSlots s root va k).tail → OpensTable s c va level slot := by
    intro level slot hlevel hslot
    have hplain := hpointers slot hslot
    simp only [plainPointer, Bool.and_eq_true, Bool.not_eq_true'] at hplain
    exact opensTable_legacy hplain.1 (isLeaf_false hlevel hplain.2)
  have hsettled : ∀ slot, managedEntry c true (mem64 s slot) = mem64 s slot := fun slot => managedEntry_unmanaged true _ rfl
  have hvisits : ∀ l : List Nat, l.foldl (visit c true) s = s := fun l => visits_settled fun slot _ => hsettled slot
  obtain ⟨base, acc, hslot, -, hwalk⟩ := walkFrom_reaches (e := r.acc.eng) (c := c) fresh hk hg (fun h => nomatch h)
    (opensTable_legacy hpml4 rfl) (fun h30 => hopen (by decide) (by simp [pointerSlots, h30]))
    (fun h30 h21 => ⟨hopen (by decide) (by simp [pointerSlots, h30, h21]), by
      exact hips.resolve_left (by simp [h30, h21])⟩)
    (fun l slot _ => by rw [hvisits]; exact .start hr slot)
  rw [hvisits] at hwalk
  simp only [slotPresent, Bool.and_eq_true] at hleaf
  obtain ⟨hleafIn, hleafP⟩ := hleaf
  have hisLeaf : isLeaf .legacy64 (leafLevel k) (mem64 s (leafSlot s root va k)) = true := by
    simp only [List.mem_cons, List.not_mem_nil, or_false] at hk
    rcases hk with rfl | rfl | rfl | rfl
    · rfl
    · rfl
    · simpa [isLeaf, leafLevel] using hlarge
    · simpa [isLeaf, leafLevel] using hlarge
  have hend := entryStep_legacyEnd (haw := s.params.haw) (k := k) (c := c) (va := va) (acc := acc)
    (show Dialect.legacy64 ≠ .ia32e by decide) (show Dialect.legacy64 ≠ .ggtt by decide) hleafP hisLeaf
  refine ⟨acc, ?_⟩
  rw [walkOnce_of_ppgtt48 va isWrite fresh hmode, hroot]
  obtain ⟨l, hl⟩ := leafLevel_pos k
  refine hwalk.trans ?_
  rw [hl] at hslot hend ⊢
  exact walkFrom_end ⟨.inr hr, rfl, hg⟩ (by rw [hslot]; exact hleafIn) (by rw [hslot]; exact hend)
    (legacyEnd_ne_next _ _ _ _ _ _ _)

/-! ### The obligations -/

section
variable {s : State} {a : Access} {d : QWord} {mode : WalkMode} {dialect : Dialect} {k leaf : Nat}

/-- A legacy mode whose walk comes to a leaf for a page of 2^k bytes that is no Null page: what a read, a write and a refused write
do (R321, R820). -/
theorem legacy_page (hm : Memory.wf s.mem = true) (hp : PlainAccess s a) (hmode : mode ≠ .advanced) (hk : k ∈ [12, 16, 21, 30])
    (h9 : bit (mem64 s leaf) 9 = false)
    (hw : ∀ n fresh, ∃ acc, walkOnce (advanceDraws s n) (requestUnder s mode d a) a.va (a.kind != .read) fresh =
      .ok (legacyEnd s.params.haw dialect k (a.kind != .read) a.va acc (mem64 s leaf), advanceDraws s n)) :
    let pa := addrField s.params.haw k (mem64 s leaf) + a.va.toNat % 2 ^ k
    (a.kind = .write → bit (mem64 s leaf) 1 = false → s.params.hangSkip = false →
      ∃ t, toOutcome (serveUnder mode d a s) = .next t ∧ (engineOf t a.eng).mode = .hung ∧
        .legacyPageFault a.va true 3 ∈ (engineOf t a.eng).events ∧ t.completion.status = .never ∧ sameMemory s t ∧
        sameOtherEngines s t a.eng ∧ t = { s with engines := t.engines, completion := t.completion, draws := t.draws }) ∧
    (physExists s pa (accessSize a) = true → a.kind = .read →
      ∃ t, toOutcome (serveUnder mode d a s) = .next t ∧ t.completion.status = .done ∧ t.completion.pa = pa ∧
        t.completion.data = memReadLe s.mem pa (accessSize a) ∧ sameMemory s t ∧
        t = { s with completion := t.completion, draws := t.draws }) ∧
    (physExists s pa (accessSize a) = true → a.kind = .write → bit (mem64 s leaf) 1 = true →
      ∃ t, toOutcome (serveUnder mode d a s) = .next t ∧ t.completion.status = .done ∧
        (∀ k, k < accessSize a → memRead t.mem (pa + k) = byteAt a.data k) ∧ sameMemoryOutside s t pa (accessSize a) ∧
        t = { s with mem := t.mem, history := t.history, completion := t.completion, draws := t.draws }) := by
  intro pa
  obtain ⟨acc, hwalk⟩ := hw 0 false
  have hpa := leafTranslation_pa (haw := s.params.haw) (dialect := dialect) (va := a.va) (acc := acc) (e := mem64 s leaf) hk
  refine ⟨fun hkind h1 hskip => ?_, fun hex hkind => ?_, fun hex hkind h1 => ?_⟩
  · have hwrite : (a.kind != .read) = true := by rw [hkind]; rfl
    have hfault : ∀ n fresh, walkOnce (advanceDraws s n) (requestUnder s mode d a) a.va (a.kind != .read) fresh =
        .ok (.fault 3 (leafLevel k), advanceDraws s n) := fun n fresh => by
      obtain ⟨acc, h⟩ := hw n fresh
      rw [h, hwrite, legacyEnd_refused h9 h1]
    have h := legacy_hang hp hmode hskip hfault
    rw [hwrite] at h
    exact h
  · rw [legacyEnd_page h9 (fun h => absurd h (by rw [hkind]; decide))] at hwalk
    obtain ⟨t, hstep, hstatus, htpa, hdata, -, hmem, hframe⟩ := legacy_read hp hmode hkind hwalk (by rw [hpa]; exact hex)
    rw [hpa] at htpa hdata
    exact ⟨t, hstep, hstatus, htpa, hdata, hmem, hframe⟩
  · rw [legacyEnd_page h9 (fun _ => h1)] at hwalk
    have h := plain_write hm hp hkind hwalk (by rw [hpa]; exact hex)
    rw [hpa] at h
    exact h

end

/-- Settles O19: the two-level walk comes to the leaf. -/
theorem ppgtt32Access : Obligations.Ppgtt32Access := by
  unfold Obligations.Ppgtt32Access
  intro s d a hm hplain hg k hk leaf pa hmaps
  have hp := PlainAccess.of_plainRequest hplain
  have h9 : bit (mem64 s leaf) 9 = false := by
    simp only [maps32, legacyLeaf, Bool.and_eq_true, Bool.not_eq_true'] at hmaps
    exact hmaps.2.2
  have hk' : k ∈ [12, 16, 21, 30] := by
    simp only [List.mem_cons, List.not_mem_nil, or_false] at hk ⊢
    omega
  exact legacy_page hm hp (by decide) hk' h9 fun n fresh =>
    walkOnce_ppgtt32 (s := advanceDraws s n) _ fresh (walkModeOf_requestUnder hg hp.display) hp.retained hp.gttCache hk hmaps

/-- Settles O20: the four-level walk comes to the leaf. -/
theorem ppgtt48Access : Obligations.Ppgtt48Access := by
  unfold Obligations.Ppgtt48Access
  intro s d a hm hplain hg k hk root leaf pa hmaps
  have hp := PlainAccess.of_plainRequest hplain
  simp only [maps48, Bool.and_eq_true, Bool.not_eq_true'] at hmaps
  obtain ⟨hreach, h9⟩ := hmaps
  exact legacy_page hm hp (by decide) hk h9 fun n fresh =>
    walkOnce_ppgtt48 (s := advanceDraws s n) _ fresh (walkModeOf_requestUnder hg hp.display) hp.retained hp.gttCache hk hreach

/-- Settles O22: the walk comes to a leaf with the Null bit, whatever the page size, and a read and a write complete on it. -/
theorem nullPageReadsZeroAndDropsWrites : Obligations.NullPageReadsZeroAndDropsWrites := by
  unfold Obligations.NullPageReadsZeroAndDropsWrites
  intro s d a hplain hkind hg k hk root hreach h9
  have hp := PlainAccess.of_plainRequest hplain
  obtain ⟨acc, hwalk⟩ := walkOnce_ppgtt48 (r := requestUnder s .ppgtt48 d a) (a.kind != .read) false
    (walkModeOf_requestUnder hg hp.display) hp.retained hp.gttCache hk hreach
  have hnull := serveUnder_null hp (hwalk.trans (congrArg (fun w => Except.ok (w, s)) (legacyEnd_null h9)))
  cases hk : a.kind with
  | read =>
    exact ⟨_, toOutcome_next.2 (hnull.trans (perform_null_read rfl hk)), rfl, rfl, rfl, rfl, fun _ => rfl, rfl⟩
  | write =>
    exact ⟨_, toOutcome_next.2 (hnull.trans (perform_null_write rfl hk)), rfl, rfl, rfl, rfl, fun _ => rfl, rfl⟩
  | atomic => exact absurd hk hkind

end Sys2Proof.Machine

/-! ## Walks that check rights and set flags (41_page_walk.md R320, R330, R343) -/

namespace Sys2Proof.Machine

open Sys2Proof

/-! ### The flags that a walk sets in an entry -/

/-- Fields whose bits agree are the same number. -/
theorem field_congr {p q : QWord} {lo : Nat} (len : Nat) (h : ∀ j, lo ≤ j → bit p j = bit q j) : field p lo len = field q lo len := by
  refine congrArg BitVec.toNat (BitVec.eq_of_getLsbD_eq fun i hi => ?_)
  simpa only [bit, BitVec.getLsbD_extractLsb', hi, decide_true, Bool.true_and] using h (lo + i) (Nat.le_add_right lo i)

theorem bit_or (p q : QWord) (j : Nat) : bit (p ||| q) j = (bit p j || bit q j) := BitVec.getLsbD_or

/-- A flag of an entry is one bit of it (R420). -/
theorem bit_twoPow {i : Nat} (hi : i < 64) (j : Nat) : bit (BitVec.twoPow 64 i) j = decide (j = i) := by
  simp [bit, BitVec.getLsbD_twoPow, hi, eq_comm]

theorem bit_flagA (j : Nat) : bit flagA j = decide (j = 5) := bit_twoPow (i := 5) (by decide) j

theorem bit_flagD (j : Nat) : bit flagD j = decide (j = 6) := bit_twoPow (i := 6) (by decide) j

theorem bit_flagEA (j : Nat) : bit flagEA j = decide (j = 10) := bit_twoPow (i := 10) (by decide) j

/-- A mask that a condition selects. -/
theorem bit_ite (b : Bool) (m : QWord) (j : Nat) : bit (if b then m else 0) j = (b && bit m j) := by
  cases b with
  | false => exact BitVec.getLsbD_zero
  | true => exact (Bool.true_and _).symm

/-- An entry lets the request of a walk pass: it is present, its reserved bits 51:HAW are 0, and its rights suffice (R320, R331). -/
structure EntryPasses (haw : Nat) (c : WalkCtl) (q : QWord) : Prop where
  present : bit q 0 = true
  reserved : field q haw (52 - haw) = 0
  user : c.supervisor = true ∨ bit q 2 = true
  write : c.isWrite = true → (c.supervisor = true ∧ c.wpe = false) ∨ bit q 1 = true

/-- The flags that a walk sets in such an entry: A, EA where it is enabled, and D for a write at a leaf (R330). -/
def setsFlag (c : WalkCtl) (inner : Bool) (q : QWord) (j : Nat) : Bool :=
  c.ad && (decide (j = 5) || (c.eafe && decide (j = 10)) || (c.isWrite && (!inner || bit q 7) && decide (j = 6)))

section
variable {haw : Nat} {c : WalkCtl} {inner : Bool} {q : QWord}

/-- The entry with which such a walk goes on, bit by bit. -/
theorem bit_managedEntry (h : EntryPasses haw c q) (inner : Bool) (j : Nat) :
    bit (managedEntry c inner q) j = (bit q j || setsFlag c inner q j) := by
  cases had : c.ad with
  | false => rw [managedEntry_unmanaged inner q had, setsFlag, had, Bool.false_and, Bool.or_false]
  | true =>
    have hfault : (c.isWrite && c.wpe && !bit q 1) = false := by
      cases hwrite : c.isWrite with
      | false => rfl
      | true => rcases h.write hwrite with ⟨-, hwpe⟩ | hrw <;> simp [*]
    simp only [managedEntry, pageAtomic, had, h.present, hfault, Bool.not_true, Bool.false_and, Bool.not_false, Bool.and_true,
      Bool.false_eq_true, if_true, if_false, bit_or, bit_ite, bit_flagA, bit_flagEA, bit_flagD, setsFlag, Bool.true_and,
      Bool.or_assoc]

/-- It sets no other bit. -/
theorem bit_managedEntry_other (h : EntryPasses haw c q) (inner : Bool) {j : Nat} (h5 : j ≠ 5) (h6 : j ≠ 6) (h10 : j ≠ 10) :
    bit (managedEntry c inner q) j = bit q j := by
  rw [bit_managedEntry h]
  simp [setsFlag, h5, h6, h10]

/-- The fields above bit 10 stay as they are. -/
theorem field_managedEntry (h : EntryPasses haw c q) (inner : Bool) {lo : Nat} (hlo : 11 ≤ lo) (len : Nat) :
    field (managedEntry c inner q) lo len = field q lo len :=
  field_congr len fun j hj => bit_managedEntry_other h inner (by omega) (by omega) (by omega)

/-- The address too. -/
theorem addrField_managedEntry (h : EntryPasses haw c q) (inner : Bool) {lo : Nat} (hlo : 11 ≤ lo) :
    addrField haw lo (managedEntry c inner q) = addrField haw lo q := by
  rw [addrField, field_managedEntry h inner hlo, addrField]

/-- An entry whose flags are all set, or that is not managed, stays as it is. -/
theorem managedEntry_settled (h : EntryPasses haw c q) (hset : ∀ j, setsFlag c inner q j = true → bit q j = true) :
    managedEntry c inner q = q := by
  refine BitVec.eq_of_getLsbD_eq fun j _ => (bit_managedEntry h inner j).trans ?_
  cases hj : setsFlag c inner q j with
  | false => exact Bool.or_false _
  | true => rw [hset j hj]; exact (Bool.or_true _).trans (hset j hj).symm

/-- With its flags set the entry lets the request pass as before. -/
theorem EntryPasses.managed (h : EntryPasses haw c q) (inner : Bool) (hhaw : 11 ≤ haw) :
    EntryPasses haw c (managedEntry c inner q) := by
  refine ⟨?_, ?_, ?_, ?_⟩
  · rw [bit_managedEntry_other h inner (by decide) (by decide) (by decide)]
    exact h.present
  · rw [field_managedEntry h inner hhaw]
    exact h.reserved
  · rw [bit_managedEntry_other h inner (by decide) (by decide) (by decide)]
    exact h.user
  · rw [bit_managedEntry_other h inner (by decide) (by decide) (by decide)]
    exact h.write

/-! ### The rights of a data access -/

/-- A data access that nothing has refused goes on after such an entry (R320). -/
theorem EntryPasses.rights {acc : Rights} (h : EntryPasses haw c q) (her : c.er = false) (hacc : rightsPass c acc) :
    rightsPass c (accumulateIn c.dialect acc q) := by
  intro hd
  obtain ⟨hp, -, hw⟩ := hacc hd
  rw [hd, accumulateIn_ia32e]
  simp only [privilegeRefused, smepRefused, writeRefused, accumulate, her, Bool.and_false, Bool.false_and, Bool.or_false,
    Bool.and_eq_false_iff, Bool.not_eq_false', Bool.or_eq_false_iff, Bool.and_eq_true] at hp hw ⊢
  refine ⟨?_, trivial, ?_⟩
  · rcases h.user with hs | hu
    · exact .inl hs
    · exact hp.imp_right fun hp => ⟨hp, hu⟩
  · cases hwrite : c.isWrite with
    | false => exact .inl (.inl rfl)
    | true =>
      rcases h.write hwrite with ⟨hs, hwpe⟩ | hrw
      · exact .inl (.inr ⟨hs, hwpe⟩)
      · exact (hw.imp_left id).imp (fun h => by rwa [hwrite] at h) fun hw => ⟨hw, hrw⟩

end

/-- An address has 39 or 46 bits. -/
theorem le_haw (p : Params) : 12 ≤ p.haw := by
  unfold Params.haw
  split <;> decide

/-! ### The walk of an advanced context (R343) -/

/-- The entries of a four-level walk exist, select a page of 2^k bytes, and let the walk pass (R311-R313, R320, R331). -/
structure AdvancedPath (s : State) (c : WalkCtl) (root : Nat) (va : QWord) (k : Nat) : Prop where
  pointers : ∀ slot ∈ pointerSlots s root va k,
    physExists s slot 8 = true ∧ bit (mem64 s slot) 7 = false ∧ EntryPasses s.params.haw c (mem64 s slot)
  leafIn : physExists s (leafSlot s root va k) 8 = true
  leaf : EntryPasses s.params.haw c (mem64 s (leafSlot s root va k))
  large : k ≠ 12 → k ≠ 16 → bit (mem64 s (leafSlot s root va k)) 7 = true
  low : leafLowClear s (leafSlot s root va k) k = true
  ips : k ≠ 30 → k ≠ 21 → (bit (mem64 s (pdSlot s root va)) 11 && c.en64k) = decide (k = 16)

/-- Which atomic a walk issues for a leaf: the intermediate one for a large page (R330). -/
abbrev innerLeaf (k : Nat) : Bool := decide (leafLevel k ≠ 1)

section
variable {s : State} {e : Engine} {c : WalkCtl} {va : QWord} {root k : Nat}

/-- An IA-32e pointer that lets a data access pass opens its table. -/
theorem opensTable_ia32e {level slot : Nat} (hd : c.dialect = .ia32e) (her : c.er = false) (hlevel : level ≠ 1)
    (hr : Readable s c true slot) (hps : bit (mem64 s slot) 7 = false) (hpass : EntryPasses s.params.haw c (mem64 s slot)) :
    OpensTable s c va level slot := by
  have hmanaged := hpass.managed true (by have := le_haw s.params; omega)
  have hrights := fun acc => hmanaged.rights (acc := acc) her
  have hps' : bit (managedEntry c true (mem64 s slot)) 7 = false := by
    rwa [bit_managedEntry_other hpass true (by decide) (by decide) (by decide)]
  refine ⟨hr, fun acc hacc => ?_, hrights⟩
  obtain ⟨hprivilege, -, hwrite⟩ := hrights acc hacc hd
  rw [hd, accumulateIn_ia32e] at hprivilege hwrite
  have hreserved : reservedViolated s.params.haw level false (managedEntry c true (mem64 s slot)) = false := by
    simp [reservedViolated, hmanaged.reserved, hps']
  rw [entryStep_ia32e_pointer hd hmanaged.present (isLeaf_false hlevel hps') hreserved hprivilege hwrite,
    addrField_managedEntry hpass true (by decide), bit_managedEntry_other hpass true (by decide) (by decide) (by decide)]
  rfl

/-- The leaf of such a path is one (R187). -/
theorem AdvancedPath.isLeaf (h : AdvancedPath s c root va k) (hk : k ∈ [12, 16, 21, 30]) {q : QWord}
    (hps : bit q 7 = bit (mem64 s (leafSlot s root va k)) 7) : Machine.isLeaf .ia32e (leafLevel k) q = true := by
  simp only [List.mem_cons, List.not_mem_nil, or_false] at hk
  rcases hk with rfl | rfl | rfl | rfl
  · rfl
  · rfl
  · simp [Machine.isLeaf, leafLevel, hps, h.large]
  · simp [Machine.isLeaf, leafLevel, hps, h.large]

/-- The walk may set D in it (R330). -/
theorem AdvancedPath.leafManaged (h : AdvancedPath s c root va k) (hk : k ∈ [12, 16, 21, 30]) :
    (!innerLeaf k || bit (mem64 s (leafSlot s root va k)) 7) = true := by
  have hleaf := h.isLeaf hk rfl
  simp only [Machine.isLeaf, Bool.or_eq_true, Bool.and_eq_true, decide_eq_true_eq] at hleaf
  rcases hleaf with h1 | ⟨-, h7⟩
  · simp [innerLeaf, h1]
  · simp [h7]

/-- No reserved bit of it is set (R331). -/
theorem AdvancedPath.reserved (h : AdvancedPath s c root va k) (hk : k ∈ [12, 16, 21, 30]) (inner : Bool) :
    reservedViolated s.params.haw (leafLevel k) (decide (k = 16)) (managedEntry c inner (mem64 s (leafSlot s root va k))) = false := by
  have hlow := h.low
  simp only [leafLowClear, decide_eq_true_eq] at hlow
  have hhaw := le_haw s.params
  simp only [reservedViolated, field_managedEntry h.leaf inner (show 11 ≤ s.params.haw by omega),
    field_managedEntry h.leaf inner (show 11 ≤ 13 by decide), field_managedEntry h.leaf inner (show 11 ≤ 12 by decide),
    h.leaf.reserved]
  simp only [List.mem_cons, List.not_mem_nil, or_false] at hk
  rcases hk with rfl | rfl | rfl | rfl <;> simp_all [leafLevel]

/-- The leaf ends the walk in its page. -/
theorem AdvancedPath.entryStep_leaf (h : AdvancedPath s c root va k) (hk : k ∈ [12, 16, 21, 30]) (hd : c.dialect = .ia32e)
    (her : c.er = false) {acc : Rights} (hacc : rightsPass c acc) (inner : Bool) :
    entryStep s.params.haw c (leafLevel k) (decide (k = 16)) va acc (managedEntry c inner (mem64 s (leafSlot s root va k))) =
      .translated (leafTranslation s.params.haw .ia32e (leafLevel k) (decide (k = 16)) va
        (managedEntry c inner (mem64 s (leafSlot s root va k)))
        (accumulate acc (managedEntry c inner (mem64 s (leafSlot s root va k))))) := by
  have hmanaged := h.leaf.managed inner (by have := le_haw s.params; omega)
  obtain ⟨hprivilege, hsmep, hwrite⟩ := hmanaged.rights her hacc hd
  rw [hd, accumulateIn_ia32e] at hprivilege hsmep hwrite
  rw [entryStep_ia32e hd hmanaged.present (h.reserved hk inner) hprivilege hsmep hwrite,
    if_pos (h.isLeaf hk (bit_managedEntry_other h.leaf inner (by decide) (by decide) (by decide)))]

/-- The walk of such a path ends in the page of the leaf, with the entries of the path visited. -/
theorem AdvancedPath.walkFrom (h : AdvancedPath s c root va k) (fresh : Bool) (hk : k ∈ [12, 16, 21, 30])
    (hd : c.dialect = .ia32e) (her : c.er = false) (hg : s.params.gttCache = false)
    (hupdate : ∀ slot ∈ pointerSlots s root va k,
      managedEntry c true (mem64 s slot) = mem64 s slot ∨ adUpdateAllowed s slot c.cd = true)
    (hleaf : managedEntry c (innerLeaf k) (mem64 s (leafSlot s root va k)) = mem64 s (leafSlot s root va k) ∨
      adUpdateAllowed s (leafSlot s root va k) c.cd = true)
    (hun : ∀ l slot, l ++ [slot] <+: pointerSlots s root va k ++ [leafSlot s root va k] →
      Untouched s (l.foldl (visit c true) s) e slot) :
    ∃ t : Translation, t.pa = addrField s.params.haw k (mem64 s (leafSlot s root va k)) + va.toNat % 2 ^ k ∧
      Machine.walkFrom e c fresh va 4 root false Rights.all s = .ok (.translated t,
        visit c (innerLeaf k) ((pointerSlots s root va k).foldl (visit c true) s) (leafSlot s root va k)) := by
  have hopen : ∀ {level slot}, level ≠ 1 → slot ∈ pointerSlots s root va k → OpensTable s c va level slot := by
    intro level slot hlevel hslot
    obtain ⟨hin, hps, hpass⟩ := h.pointers slot hslot
    exact opensTable_ia32e hd her hlevel ⟨hin, hupdate slot hslot⟩ hps hpass
  have hstart : rightsPass c Rights.all := fun _ => by
    simp [privilegeRefused, smepRefused, writeRefused, Rights.all, her]
  obtain ⟨base, acc, hslot, hacc, hwalk⟩ := walkFrom_reaches (e := e) (c := c) fresh hk hg hstart
    (hopen (by decide) (by simp [pointerSlots])) (fun h30 => hopen (by decide) (by simp [pointerSlots, h30]))
    (fun h30 h21 => ⟨hopen (by decide) (by simp [pointerSlots, h30, h21]), h.ips h30 h21⟩)
    (fun l slot hl => hun l slot (hl.trans (List.prefix_append _ _)))
  have hstep := h.entryStep_leaf (va := va) hk hd her hacc (innerLeaf k)
  have hpage := leafTranslation_pa (haw := s.params.haw) (dialect := .ia32e) (va := va)
    (acc := accumulate acc (managedEntry c (innerLeaf k) (mem64 s (leafSlot s root va k))))
    (e := managedEntry c (innerLeaf k) (mem64 s (leafSlot s root va k))) hk
  have hlo : 11 ≤ k := by
    simp only [List.mem_cons, List.not_mem_nil, or_false] at hk
    omega
  rw [addrField_managedEntry h.leaf _ hlo] at hpage
  refine ⟨_, hpage, hwalk.trans ?_⟩
  obtain ⟨l, hl⟩ := leafLevel_pos k
  have hinner : innerLeaf k = decide (l + 1 ≠ 1) := by rw [innerLeaf, hl]
  rw [hl] at hslot hstep ⊢
  exact walkFrom_visit_end hslot hinner.symm (hun _ _ (List.prefix_refl _)) ⟨h.leafIn, hleaf⟩ hg hstep (fun _ _ _ => nofun)

end

/-- An advanced request walks under the one context in force of its function and PASID (R343). -/
theorem walkOnce_of_advanced {s : State} {r : Request} {x : IommuCtx} (va : QWord) (isWrite fresh : Bool)
    (hmode : walkModeOf r = .advanced) (hg : s.params.gttCache = false)
    (hx : onlyContext s r.acc.eng (r.desc.extractLsb' 9 3) (pasidOf (engineOf s r.acc.eng)) x) :
    walkOnce s r va isWrite fresh = walkFrom r.acc.eng (advancedCtl r.desc x isWrite r.acc.ifetch) fresh va 4
      (addrField s.params.haw 12 x.pml4) false Rights.all s := by
  simp only [walkOnce, hmode, hg, Bool.false_eq_true, if_false, contextInForce_of_onlyContext hx, entryAddr_eq]

/-! ### What the flags change in memory -/

/-- From `s` to `u` nothing changed but entries in the given slots, which the GPU wrote. -/
structure OnlyEntriesChanged (s u : State) (slots : List Nat) : Prop where
  outside : ∀ b, (∀ slot ∈ slots, b < slot ∨ slot + 8 ≤ b) → memRead u.mem b = memRead s.mem b
  wf : Memory.wf s.mem = true → Memory.wf u.mem = true
  settled : cpuSettled s = true → cpuSettled u = true
  frame : u = { s with mem := u.mem, history := u.history }

theorem OnlyEntriesChanged.refl (s : State) (slots : List Nat) : OnlyEntriesChanged s s slots :=
  ⟨fun _ _ => rfl, id, id, rfl⟩

theorem OnlyEntriesChanged.exists_frame {s u : State} {slots : List Nat} (h : OnlyEntriesChanged s u slots) :
    ∃ m o, u = { s with mem := m, history := o } :=
  ⟨_, _, h.frame⟩

section
variable {s u : State} {slots l : List Nat} {slot : Nat} {c : WalkCtl} {inner : Bool}

theorem OnlyEntriesChanged.visit (c : WalkCtl) (inner : Bool) (h : OnlyEntriesChanged s u slots) (hslot : slot ∈ slots) :
    OnlyEntriesChanged s (Machine.visit c inner u slot) slots := by
  rcases visit_cases c inner u slot with heq | heq
  · rwa [heq]
  · rw [heq]
    refine ⟨fun b hb => ?_, fun hm => wf_store _ _ _ _ _ (h.wf hm), fun hc => cpuSettled_store _ _ _ rfl (h.settled hc), ?_⟩
    · rw [memRead_store_outside _ _ _ _ _ _ (hb slot hslot)]
      exact h.outside b hb
    · exact congrArg (fun t : State => store t slot 8 (managedEntry c inner (mem64 u slot)) Writer.gam) h.frame

theorem OnlyEntriesChanged.visits (c : WalkCtl) (inner : Bool) (h : OnlyEntriesChanged s u slots) (hl : ∀ a ∈ l, a ∈ slots) :
    OnlyEntriesChanged s (l.foldl (Machine.visit c inner) u) slots := by
  induction l generalizing u with
  | nil => exact h
  | cons a l ih => exact ih (h.visit c inner (hl a (by simp))) fun b hb => hl b (by simp [hb])

/-- A page that holds none of the entries is as it was. -/
theorem OnlyEntriesChanged.memReadLe {pa n : Nat} (h : OnlyEntriesChanged s u slots)
    (hpage : ∀ slot ∈ slots, pa + n ≤ slot ∨ slot + 8 ≤ pa) : Machine.memReadLe u.mem pa n = Machine.memReadLe s.mem pa n :=
  memReadLe_congr pa n fun j hj => h.outside _ fun slot hslot => by have := hpage slot hslot; omega

/-- So is every other aligned QWord. -/
theorem OnlyEntriesChanged.mem64 (h : OnlyEntriesChanged s u slots) (haligned : ∀ a ∈ slots, 8 ∣ a) (hslot : 8 ∣ slot)
    (hnot : slot ∉ slots) : Machine.mem64 u slot = Machine.mem64 s slot :=
  h.memReadLe fun a ha => by
    have hne : a ≠ slot := fun heq => hnot (heq ▸ ha)
    have := haligned a ha
    omega

/-- The entry that a walk read holds its flags. -/
theorem mem64_visit_same (hm : Memory.wf s.mem = true) (c : WalkCtl) (inner : Bool) (slot : Nat) :
    mem64 (visit c inner s slot) slot = managedEntry c inner (mem64 s slot) := by
  by_cases h : managedEntry c inner (mem64 s slot) = mem64 s slot
  · rw [visit_settled h, h]
  · have hstore : visit c inner s slot = store s slot 8 (managedEntry c inner (mem64 s slot)) Writer.gam := if_neg h
    rw [hstore, mem64_store_same _ _ _ _ hm]

/-- Each of the entries that it read does. -/
theorem mem64_visits (hm : Memory.wf s.mem = true) (hn : l.Nodup) (haligned : ∀ a ∈ l, 8 ∣ a) (hslot : slot ∈ l) :
    mem64 (l.foldl (visit c inner) s) slot = managedEntry c inner (mem64 s slot) := by
  induction l generalizing s with
  | nil => exact nomatch hslot
  | cons a l ih =>
    obtain ⟨hnot, hn⟩ := List.nodup_cons.1 hn
    have haligned' : ∀ b ∈ l, 8 ∣ b := fun b hb => haligned b (by simp [hb])
    have hfirst : OnlyEntriesChanged s (visit c inner s a) [a] := (OnlyEntriesChanged.refl s [a]).visit c inner (by simp)
    rw [List.foldl_cons]
    rcases List.mem_cons.1 hslot with rfl | hslot
    · have hrest := (OnlyEntriesChanged.refl (visit c inner s slot) l).visits c inner fun _ h => h
      rw [hrest.mem64 haligned' (haligned slot (by simp)) hnot, mem64_visit_same hm]
    · have hne : slot ∉ [a] := fun heq => hnot (by rwa [← List.mem_singleton.1 heq])
      rw [ih (hfirst.wf hm) hn haligned' hslot, hfirst.mem64 (by simpa using haligned a (by simp)) (haligned' slot hslot) hne]

end

/-! ### Where the entries of a walk lie (R310) -/

theorem dvd_addrField (haw : Nat) (e : QWord) : 8 ∣ addrField haw 12 e :=
  Dvd.dvd.mul_left (show 8 ∣ 2 ^ 12 by norm_num) _

theorem dvd_tableSlot {base : Nat} (va : QWord) (level : Nat) (h : 8 ∣ base) : 8 ∣ tableSlot base va level :=
  dvd_add h (Dvd.intro _ rfl)

/-- The entries of a walk are aligned QWords. -/
theorem dvd_walkSlots {s : State} {root : Nat} {va : QWord} {k slot : Nat} (hroot : 8 ∣ root)
    (h : slot ∈ leafSlot s root va k :: pointerSlots s root va k) : 8 ∣ slot := by
  have htable : ∀ slot level, 8 ∣ tableSlot (slotTable s slot) va level := fun slot level =>
    dvd_tableSlot va level (dvd_addrField _ _)
  have hpml4 : 8 ∣ pml4Slot root va := dvd_tableSlot _ _ hroot
  have hpdp : 8 ∣ pdpSlot s root va := htable _ _
  have hpd : 8 ∣ pdSlot s root va := htable _ _
  have hpt : 8 ∣ ptSlot s root va := htable _ _
  have hpt64 : 8 ∣ pt64Slot s root va := dvd_add (dvd_addrField _ _) (Dvd.intro _ rfl)
  rcases List.mem_cons.1 h with rfl | h
  · unfold leafSlot
    split
    · exact hpdp
    split
    · exact hpd
    split
    · exact hpt64
    · exact hpt
  · simp only [pointerSlots, List.mem_cons, List.mem_append, List.mem_ite_nil_left, List.not_mem_nil, or_false] at h
    rcases h with rfl | ⟨-, rfl⟩ | ⟨-, rfl⟩
    · exact hpml4
    · exact hpdp
    · exact hpd

/-! ### The hypotheses of the obligation -/

section
variable {s : State} {d : QWord} {x : IommuCtx} {write : Bool} {root slot k : Nat} {va : QWord}

/-- The controls of a data access under the descriptor of a CTX_ADVANCED object. -/
abbrev dataCtl (d : QWord) (x : IommuCtx) (write : Bool) : WalkCtl := advancedCtl (descUnder .advanced d) x write false

/-- The bit that selects the mode is the only one that the object changes. -/
theorem bit_descUnder_advanced (d : QWord) {j : Nat} (hj : j < 64) (h3 : j ≠ 3) : bit (descUnder .advanced d) j = bit d j := by
  have hmask : (0xFFFFFFFFFFFFFFF7 : QWord) = ~~~BitVec.twoPow 64 3 := by decide
  have h3' : 3 ≠ j := h3.symm
  simp only [descUnder, bit, hmask, BitVec.getLsbD_and, BitVec.getLsbD_not, BitVec.getLsbD_twoPow, hj]
  simp [h3']

theorem function_descUnder_advanced (d : QWord) : (descUnder .advanced d).extractLsb' 9 3 = d.extractLsb' 9 3 := by
  refine BitVec.eq_of_getLsbD_eq fun i hi => ?_
  have h := bit_descUnder_advanced d (j := 9 + i) (by omega) (by omega)
  simpa only [bit, BitVec.getLsbD_extractLsb', hi, decide_true, Bool.true_and] using h

theorem entryPasses_of_entryAllows (hp : bit (mem64 s slot) 0 = true) (h : entryAllows s d x write slot = true) :
    EntryPasses s.params.haw (dataCtl d x write) (mem64 s slot) := by
  simp only [entryAllows, Bool.and_eq_true, Bool.or_eq_true, decide_eq_true_eq, Bool.not_eq_true'] at h
  obtain ⟨⟨hreserved, huser⟩, hwrite⟩ := h
  have hsupervisor : bit (descUnder .advanced d) 8 = bit d 8 := bit_descUnder_advanced d (by decide) (by decide)
  refine ⟨hp, hreserved, ?_, fun hw => ?_⟩
  · exact huser.imp_left hsupervisor.trans
  · rcases hwrite with (hread | ⟨hs, hwpe⟩) | hrw
    · exact absurd (hread.symm.trans hw) (by decide)
    · exact .inl ⟨hsupervisor.trans hs, hwpe⟩
    · exact .inr hrw

theorem AdvancedPath.of_mapsAdvanced (h : mapsAdvanced s d x write root va k = true) :
    AdvancedPath s (dataCtl d x write) root va k := by
  simp only [mapsAdvanced, selectsPage, plainPointer, slotPresent, Bool.and_eq_true, Bool.or_eq_true, List.all_eq_true,
    Bool.not_eq_true', decide_eq_true_eq, beq_iff_eq] at h
  obtain ⟨⟨⟨⟨⟨hpointers, hleafIn, hleafP⟩, hlarge⟩, hips⟩, hallows⟩, hlow⟩ := h
  refine ⟨fun slot hslot => ?_, hleafIn, entryPasses_of_entryAllows hleafP (hallows _ (by simp)), fun h12 h16 => ?_, hlow,
    fun h30 h21 => ?_⟩
  · obtain ⟨⟨hin, hp⟩, hps⟩ := hpointers slot hslot
    exact ⟨hin, hps, entryPasses_of_entryAllows hp (hallows slot (by simp [hslot]))⟩
  · exact hlarge.resolve_left (by simp [h12, h16])
  · exact hips.resolve_left (by simp [h30, h21])

/-- Settled flags are those that the walk would set; D only at a leaf. -/
theorem managedEntry_of_flagsSettled {inner leafWrite : Bool}
    (hpass : EntryPasses s.params.haw (dataCtl d x write) (mem64 s slot))
    (hD : write = true → (!inner || bit (mem64 s slot) 7) = true → leafWrite = true)
    (h : flagsSettled s d x leafWrite slot = true) :
    managedEntry (dataCtl d x write) inner (mem64 s slot) = mem64 s slot := by
  have had : (dataCtl d x write).ad = bit d 4 := bit_descUnder_advanced d (by decide) (by decide)
  refine managedEntry_settled hpass fun j hj => ?_
  simp only [setsFlag, had, Bool.and_eq_true, Bool.or_eq_true, decide_eq_true_eq] at hj
  simp only [flagsSettled, Bool.and_eq_true, Bool.or_eq_true, Bool.not_eq_true'] at h
  obtain ⟨hmanaged, hflag⟩ := hj
  rcases h with hoff | ⟨⟨hA, hEA⟩, hDset⟩
  · exact absurd (hoff.symm.trans hmanaged) (by decide)
  · rcases hflag with (rfl | ⟨heafe, rfl⟩) | ⟨⟨hw, hleaf⟩, rfl⟩
    · exact hA
    · exact hEA.resolve_left fun hno => absurd (hno.symm.trans heafe) (by decide)
    · exact hDset.resolve_left fun hno => absurd (hno.symm.trans (hD hw (by simpa using hleaf))) (by decide)

end

end Sys2Proof.Machine

/-! ## The obligation of the advanced walk (41_page_walk.md R343, R330) -/

namespace Sys2Proof.Machine

open Sys2Proof

/-! ### Which entries a walk finds untouched -/

section
variable {s : State} {e : Engine} {c : WalkCtl} {root k : Nat} {va : QWord}

theorem mem_of_prefix_concat {l p : List Nat} {a b : Nat} (h : l ++ [a] <+: p ++ [b]) : ∀ x ∈ l, x ∈ p := by
  have hlength := h.length_le
  simp only [List.length_append, List.length_singleton] at hlength
  have hprefix : l <+: p :=
    List.prefix_of_prefix_length_le ((List.prefix_append _ _).trans h) (List.prefix_append _ _) (by omega)
  exact fun x hx => hprefix.subset hx

/-- Where the flags above the leaf are settled the walk has changed nothing. -/
theorem untouched_of_settled (hr : nothingRetained s e = true)
    (hset : ∀ slot ∈ pointerSlots s root va k, managedEntry c true (mem64 s slot) = mem64 s slot) :
    ∀ l slot, l ++ [slot] <+: pointerSlots s root va k ++ [leafSlot s root va k] →
      Untouched s (l.foldl (visit c true) s) e slot := by
  intro l slot hl
  rw [visits_settled fun a ha => hset a (mem_of_prefix_concat hl a ha)]
  exact .start hr slot

/-- Where the entries are distinct it has changed none that it has not read. -/
theorem untouched_of_nodup (hr : nothingRetained s e = true) (hroot : 8 ∣ root)
    (hn : (leafSlot s root va k :: pointerSlots s root va k).Nodup) :
    ∀ l slot, l ++ [slot] <+: pointerSlots s root va k ++ [leafSlot s root va k] →
      Untouched s (l.foldl (visit c true) s) e slot := by
  intro l slot hl
  have haligned : ∀ a ∈ l ++ [slot], 8 ∣ a := fun a ha =>
    dvd_walkSlots hroot ((List.perm_append_singleton _ _).subset (hl.subset ha))
  have hdistinct : (l ++ [slot]).Nodup :=
    hl.sublist.nodup ((List.perm_append_singleton _ _).nodup_iff.2 hn)
  have hnot : slot ∉ l := fun hmem => (List.disjoint_of_nodup_append hdistinct) hmem (by simp)
  refine (Untouched.start hr slot).visits_other c true (fun a ha => ⟨?_, haligned a (by simp [ha])⟩) (haligned slot (by simp))
  rintro rfl
  exact hnot ha

/-! ### The machine after the walk -/

/-- The machine after a walk read all the entries of its path. -/
abbrev visited (s : State) (c : WalkCtl) (root : Nat) (va : QWord) (k : Nat) : State :=
  visit c (innerLeaf k) ((pointerSlots s root va k).foldl (visit c true) s) (leafSlot s root va k)

theorem onlyEntriesChanged_visited (s : State) (c : WalkCtl) (root : Nat) (va : QWord) (k : Nat) :
    OnlyEntriesChanged s (visited s c root va k) (leafSlot s root va k :: pointerSlots s root va k) :=
  ((OnlyEntriesChanged.refl s _).visits c true fun _ h => List.mem_cons_of_mem _ h).visit c (innerLeaf k) List.mem_cons_self

/-- Each entry of the path holds the flags that the walk sets, D in the leaf alone (R330). -/
theorem AdvancedPath.bit_visited (h : AdvancedPath s c root va k) (hk : k ∈ [12, 16, 21, 30]) (had : c.ad = true)
    (hm : Memory.wf s.mem = true) (hroot : 8 ∣ root) (hn : (leafSlot s root va k :: pointerSlots s root va k).Nodup) {slot : Nat}
    (hslot : slot ∈ leafSlot s root va k :: pointerSlots s root va k) (j : Nat) :
    bit (mem64 (visited s c root va k) slot) j = (bit (mem64 s slot) j || decide (j = 5) || (c.eafe && decide (j = 10)) ||
      (c.isWrite && slot == leafSlot s root va k && decide (j = 6))) := by
  have haligned : ∀ a ∈ leafSlot s root va k :: pointerSlots s root va k, 8 ∣ a := fun a => dvd_walkSlots hroot
  obtain ⟨hnot, hdistinct⟩ := List.nodup_cons.1 hn
  have hpointers : ∀ a ∈ pointerSlots s root va k, 8 ∣ a := fun a ha => haligned a (List.mem_cons_of_mem _ ha)
  have habove : OnlyEntriesChanged s ((pointerSlots s root va k).foldl (visit c true) s) (pointerSlots s root va k) :=
    (OnlyEntriesChanged.refl s _).visits c true fun _ h => h
  rcases List.mem_cons.1 hslot with rfl | hslot
  · rw [mem64_visit_same (habove.wf hm), habove.mem64 hpointers (haligned _ List.mem_cons_self) hnot,
      bit_managedEntry h.leaf, setsFlag, had, h.leafManaged hk]
    simp only [Bool.true_and, Bool.and_true, beq_self_eq_true, Bool.or_assoc]
  · have hne : slot ≠ leafSlot s root va k := fun heq => hnot (heq ▸ hslot)
    have hleaf := (OnlyEntriesChanged.refl ((pointerSlots s root va k).foldl (visit c true) s) [leafSlot s root va k]).visit c
      (innerLeaf k) (List.mem_singleton_self _)
    obtain ⟨-, hps, hpass⟩ := h.pointers slot hslot
    have hleafAligned : ∀ b ∈ [leafSlot s root va k], 8 ∣ b := by simpa using haligned _ List.mem_cons_self
    rw [hleaf.mem64 hleafAligned (hpointers slot hslot) (mt List.mem_singleton.1 hne),
      mem64_visits hm hdistinct hpointers hslot, bit_managedEntry hpass, setsFlag, had, hps, beq_false_of_ne hne]
    simp only [Bool.true_and, Bool.not_true, Bool.or_self, Bool.and_false, Bool.false_and, Bool.or_false, Bool.or_assoc]

end

/-! ### The request -/

section
variable {s u : State} {a : Access} {d : QWord} {x : IommuCtx} {root k : Nat} {slots : List Nat} {t : Translation}

/-- The walk of a plain request under CTX_ADVANCED. -/
theorem walkOnce_advanced (hp : PlainAccess s a) (hg : a.useGgtt = false)
    (hx : onlyContext s a.eng (d.extractLsb' 9 3) (pasidOf (engineOf s a.eng)) x) (hk : k ∈ [12, 16, 21, 30])
    (hroot : addrField s.params.haw 12 x.pml4 = root) (hpath : AdvancedPath s (dataCtl d x (a.kind != .read)) root a.va k)
    (hupdate : ∀ slot ∈ pointerSlots s root a.va k,
      managedEntry (dataCtl d x (a.kind != .read)) true (mem64 s slot) = mem64 s slot ∨ adUpdateAllowed s slot x.cd = true)
    (hleaf : managedEntry (dataCtl d x (a.kind != .read)) (innerLeaf k) (mem64 s (leafSlot s root a.va k)) =
      mem64 s (leafSlot s root a.va k) ∨ adUpdateAllowed s (leafSlot s root a.va k) x.cd = true)
    (hun : ∀ l slot, l ++ [slot] <+: pointerSlots s root a.va k ++ [leafSlot s root a.va k] →
      Untouched s (l.foldl (visit (dataCtl d x (a.kind != .read)) true) s) a.eng slot) :
    ∃ t : Translation, t.pa = addrField s.params.haw k (mem64 s (leafSlot s root a.va k)) + a.va.toNat % 2 ^ k ∧
      walkOnce s (requestUnder s .advanced d a) a.va (a.kind != .read) false =
        .ok (.translated t, visited s (dataCtl d x (a.kind != .read)) root a.va k) := by
  obtain ⟨t, hpa, hwalk⟩ := hpath.walkFrom (e := a.eng) false hk rfl rfl hp.gttCache hupdate hleaf hun
  refine ⟨t, hpa, ?_⟩
  have hmode : walkModeOf (requestUnder s .advanced d a) = .advanced := walkModeOf_requestUnder hg hp.display
  have hx' : onlyContext s a.eng ((descUnder .advanced d).extractLsb' 9 3) (pasidOf (engineOf s a.eng)) x := by
    rwa [function_descUnder_advanced]
  have hctl : advancedCtl (descUnder .advanced d) x (a.kind != .read) a.ifetch = dataCtl d x (a.kind != .read) := by
    rw [hp.data]
  have hwalk' := walkOnce_of_advanced a.va (a.kind != .read) false hmode hp.gttCache hx'
  rw [hroot] at hwalk'
  exact hwalk'.trans ((congrArg (fun c => walkFrom a.eng c false a.va 4 root false Rights.all s) hctl).trans hwalk)

/-- A read whose walk changed nothing but entries: the bytes of the page as they are now. -/
theorem advanced_read (hp : PlainAccess s a) (hk : a.kind = .read) (hc : cpuSettled s = true)
    (hu : OnlyEntriesChanged s u slots)
    (hw : walkOnce s (requestUnder s .advanced d a) a.va (a.kind != .read) false = .ok (.translated t, u))
    (hex : physExists s t.pa (accessSize a) = true) :
    ∃ v, toOutcome (serveUnder .advanced d a s) = .next v ∧ v.completion.status = .done ∧ v.completion.pa = t.pa ∧
      v.completion.data = memReadLe v.mem t.pa (accessSize a) ∧ v.mem = u.mem ∧
      v = { s with mem := v.mem, history := v.history, completion := v.completion, draws := v.draws } := by
  obtain ⟨m, o, rfl⟩ := hu.exists_frame
  exact ⟨_, toOutcome_next.2 (serveUnder_read hp hk hw (.inr (hu.settled hc)) hex), rfl, rfl, rfl, rfl, rfl⟩

/-- A write whose walk changed nothing but entries: its bytes are stored at the page and only there. -/
theorem advanced_write (hm : Memory.wf s.mem = true) (hp : PlainAccess s a) (hk : a.kind = .write)
    (hu : OnlyEntriesChanged s u slots)
    (hw : walkOnce s (requestUnder s .advanced d a) a.va (a.kind != .read) false = .ok (.translated t, u))
    (hex : physExists s t.pa (accessSize a) = true) :
    ∃ v, toOutcome (serveUnder .advanced d a s) = .next v ∧ v.completion.status = .done ∧ v.completion.pa = t.pa ∧
      (∀ j, j < accessSize a → memRead v.mem (t.pa + j) = byteAt a.data j) ∧ sameMemoryOutside u v t.pa (accessSize a) ∧
      v = { s with mem := v.mem, history := v.history, completion := v.completion, draws := v.draws } := by
  obtain ⟨m, o, rfl⟩ := hu.exists_frame
  exact ⟨_, toOutcome_next.2 (serveUnder_write hp hk hw hex), rfl, rfl, fun j hj => memRead_afterWrite_inside (hu.wf hm) hj,
    fun b hb => memRead_afterWrite_outside hb, rfl⟩

end

/-! ### The obligation -/

section
variable {s : State} {d : QWord} {x : IommuCtx} {write : Bool} {root slot k : Nat} {va : QWord}

/-- The walk leaves a pointer whose flags are settled, D apart, which it does not set there. -/
theorem AdvancedPath.pointer_settled {leafWrite : Bool} (h : AdvancedPath s (dataCtl d x write) root va k)
    (hslot : slot ∈ pointerSlots s root va k) (hset : flagsSettled s d x leafWrite slot = true) :
    managedEntry (dataCtl d x write) true (mem64 s slot) = mem64 s slot := by
  obtain ⟨-, hps, hpass⟩ := h.pointers slot hslot
  refine managedEntry_of_flagsSettled hpass (fun _ hleaf => ?_) hset
  rw [hps] at hleaf
  exact absurd hleaf (by decide)

/-- It leaves a leaf whose flags are settled. -/
theorem AdvancedPath.leaf_settled (h : AdvancedPath s (dataCtl d x write) root va k)
    (hset : flagsSettled s d x write (leafSlot s root va k) = true) :
    managedEntry (dataCtl d x write) (innerLeaf k) (mem64 s (leafSlot s root va k)) = mem64 s (leafSlot s root va k) :=
  managedEntry_of_flagsSettled h.leaf (fun hwrite _ => hwrite) hset

end

/-- A plain request under CTX_ADVANCED whose walk leads to a page of 2^k bytes: the hypotheses of the obligation. -/
structure AdvancedRequest (s : State) (d : QWord) (a : Access) (x : IommuCtx) (root k : Nat) : Prop where
  memory : Memory.wf s.mem = true
  plain : PlainAccess s a
  perProcess : a.useGgtt = false
  settled : a.kind = .read → cpuSettled s = true
  context : onlyContext s a.eng (d.extractLsb' 9 3) (pasidOf (engineOf s a.eng)) x
  size : k ∈ [12, 16, 21, 30]
  table : addrField s.params.haw 12 x.pml4 = root
  path : AdvancedPath s (dataCtl d x (a.kind != .read)) root a.va k
  page : physExists s (pageTarget s root a.va k) (accessSize a) = true

section
variable {s : State} {d : QWord} {a : Access} {x : IommuCtx} {root k : Nat}

theorem dataCtl_ad (d : QWord) (x : IommuCtx) (write : Bool) : (dataCtl d x write).ad = bit d 4 :=
  bit_descUnder_advanced d (by decide) (by decide)

/-- Where the flags above the leaf are settled the walk changes the leaf alone. -/
theorem AdvancedRequest.walk_leaf (h : AdvancedRequest s d a x root k)
    (hpointers : ∀ slot ∈ pointerSlots s root a.va k, flagsSettled s d x false slot = true)
    (hleaf : flagsSettled s d x (a.kind != .read) (leafSlot s root a.va k) = true ∨
      adUpdateAllowed s (leafSlot s root a.va k) x.cd = true) :
    ∃ t : Translation, t.pa = pageTarget s root a.va k ∧
      walkOnce s (requestUnder s .advanced d a) a.va (a.kind != .read) false =
        .ok (.translated t, visit (dataCtl d x (a.kind != .read)) (innerLeaf k) s (leafSlot s root a.va k)) := by
  have hset := fun slot hslot => h.path.pointer_settled hslot (hpointers slot hslot)
  have hwalk := walkOnce_advanced h.plain h.perProcess h.context h.size h.table h.path (fun slot hslot => .inl (hset slot hslot))
    (hleaf.imp_left h.path.leaf_settled) (untouched_of_settled h.plain.retained hset)
  rwa [visited, visits_settled hset] at hwalk

/-- Where all flags are settled it changes nothing. -/
theorem AdvancedRequest.walk_settled (h : AdvancedRequest s d a x root k)
    (hpointers : ∀ slot ∈ pointerSlots s root a.va k, flagsSettled s d x false slot = true)
    (hleaf : flagsSettled s d x (a.kind != .read) (leafSlot s root a.va k) = true) :
    ∃ t : Translation, t.pa = pageTarget s root a.va k ∧
      walkOnce s (requestUnder s .advanced d a) a.va (a.kind != .read) false = .ok (.translated t, s) := by
  have hwalk := h.walk_leaf hpointers (.inl hleaf)
  rwa [visit_settled (h.path.leaf_settled hleaf)] at hwalk

/-- Where the entries are distinct it sets flags in any of them. -/
theorem AdvancedRequest.walk_visited (h : AdvancedRequest s d a x root k)
    (hn : (leafSlot s root a.va k :: pointerSlots s root a.va k).Nodup)
    (hallowed : ∀ slot ∈ leafSlot s root a.va k :: pointerSlots s root a.va k, adUpdateAllowed s slot x.cd = true ∨
      flagsSettled s d x (a.kind != .read && slot == leafSlot s root a.va k) slot = true) :
    ∃ t : Translation, t.pa = pageTarget s root a.va k ∧
      walkOnce s (requestUnder s .advanced d a) a.va (a.kind != .read) false =
        .ok (.translated t, visited s (dataCtl d x (a.kind != .read)) root a.va k) := by
  have hroot : 8 ∣ root := h.table ▸ dvd_addrField _ _
  refine walkOnce_advanced h.plain h.perProcess h.context h.size h.table h.path (fun slot hslot => ?_) ?_
    (untouched_of_nodup h.plain.retained hroot hn)
  · exact (hallowed slot (List.mem_cons_of_mem _ hslot)).symm.imp_left (h.path.pointer_settled hslot)
  · have hleaf := hallowed _ List.mem_cons_self
    rw [beq_self_eq_true, Bool.and_true] at hleaf
    exact hleaf.symm.imp_left h.path.leaf_settled

theorem AdvancedRequest.read_settled (h : AdvancedRequest s d a x root k)
    (hpointers : ∀ slot ∈ pointerSlots s root a.va k, flagsSettled s d x false slot = true)
    (hleaf : flagsSettled s d x (a.kind != .read) (leafSlot s root a.va k) = true) (hread : a.kind = .read) :
    ∃ t, toOutcome (serveUnder .advanced d a s) = .next t ∧ t.completion.status = .done ∧
      t.completion.pa = pageTarget s root a.va k ∧
      t.completion.data = memReadLe s.mem (pageTarget s root a.va k) (accessSize a) ∧ sameMemory s t ∧
      t = { s with completion := t.completion, draws := t.draws } := by
  obtain ⟨t, hpa, hw⟩ := h.walk_settled hpointers hleaf
  have hserve := serveUnder_read h.plain hread hw (.inr (h.settled hread)) (by rw [hpa]; exact h.page)
  exact ⟨_, toOutcome_next.2 hserve, rfl, hpa, congrArg (memReadLe s.mem · (accessSize a)) hpa, fun _ => rfl, rfl⟩

theorem AdvancedRequest.write_settled (h : AdvancedRequest s d a x root k)
    (hpointers : ∀ slot ∈ pointerSlots s root a.va k, flagsSettled s d x false slot = true)
    (hleaf : flagsSettled s d x (a.kind != .read) (leafSlot s root a.va k) = true) (hwrite : a.kind = .write) :
    ∃ t, toOutcome (serveUnder .advanced d a s) = .next t ∧ t.completion.status = .done ∧
      (∀ j, j < accessSize a → memRead t.mem (pageTarget s root a.va k + j) = byteAt a.data j) ∧
      sameMemoryOutside s t (pageTarget s root a.va k) (accessSize a) ∧
      t = { s with mem := t.mem, history := t.history, completion := t.completion, draws := t.draws } := by
  obtain ⟨t, hpa, hw⟩ := h.walk_settled hpointers hleaf
  have hserve := plain_write h.memory h.plain hwrite hw (by rw [hpa]; exact h.page)
  rwa [hpa] at hserve

/-- A read that sets flags in the leaf alone. -/
theorem AdvancedRequest.read_leafFlags (h : AdvancedRequest s d a x root k)
    (hpointers : ∀ slot ∈ pointerSlots s root a.va k, flagsSettled s d x false slot = true)
    (hleaf : flagsSettled s d x (a.kind != .read) (leafSlot s root a.va k) = false) (hread : a.kind = .read)
    (hallowed : adUpdateAllowed s (leafSlot s root a.va k) x.cd = true) :
    ∃ t, toOutcome (serveUnder .advanced d a s) = .next t ∧ t.completion.status = .done ∧
      t.completion.pa = pageTarget s root a.va k ∧
      t.completion.data = memReadLe t.mem (pageTarget s root a.va k) (accessSize a) ∧
      sameMemoryOutside s t (leafSlot s root a.va k) 8 ∧
      (∀ j, bit (mem64 t (leafSlot s root a.va k)) j =
        (bit (mem64 s (leafSlot s root a.va k)) j || decide (j = 5) || (x.eafe && decide (j = 10)))) ∧
      t = { s with mem := t.mem, history := t.history, completion := t.completion, draws := t.draws } := by
  obtain ⟨t, hpa, hw⟩ := h.walk_leaf hpointers (.inr hallowed)
  have hchange := (OnlyEntriesChanged.refl s [leafSlot s root a.va k]).visit (dataCtl d x (a.kind != .read)) (innerLeaf k)
    (List.mem_singleton_self _)
  obtain ⟨v, hstep, hdone, hvpa, hdata, hmem, hframe⟩ :=
    advanced_read h.plain hread (h.settled hread) hchange hw (by rw [hpa]; exact h.page)
  rw [hpa] at hvpa hdata
  have hmanaged : bit d 4 = true := by
    simp only [flagsSettled, Bool.or_eq_false_iff, Bool.not_eq_false'] at hleaf
    exact hleaf.1
  have hisRead : (dataCtl d x (a.kind != .read)).isWrite = false := bne_eq_false_iff_eq.2 hread
  have hvalue : mem64 v (leafSlot s root a.va k) = _ :=
    (congrArg (memReadLe · (leafSlot s root a.va k) 8) hmem).trans (mem64_visit_same h.memory _ _ _)
  refine ⟨v, hstep, hdone, hvpa, hdata, fun b hb => ?_, fun j => ?_, hframe⟩
  · rw [hmem]
    exact hchange.outside b (by simpa using hb)
  · rw [hvalue, bit_managedEntry h.path.leaf, setsFlag, dataCtl_ad, hmanaged, hisRead]
    simp only [Bool.true_and, Bool.false_and, Bool.or_false, Bool.or_assoc]
    rfl

/-- The bits of the entries after a walk that may set flags in any of them. -/
theorem AdvancedRequest.bit_visited (h : AdvancedRequest s d a x root k) (hmanaged : bit d 4 = true)
    (hn : (leafSlot s root a.va k :: pointerSlots s root a.va k).Nodup) {slot : Nat}
    (hslot : slot ∈ leafSlot s root a.va k :: pointerSlots s root a.va k) (j : Nat) :
    bit (mem64 (visited s (dataCtl d x (a.kind != .read)) root a.va k) slot) j =
      (bit (mem64 s slot) j || decide (j = 5) || (x.eafe && decide (j = 10)) ||
        (a.kind != .read && slot == leafSlot s root a.va k && decide (j = 6))) :=
  h.path.bit_visited h.size ((dataCtl_ad d x _).trans hmanaged) h.memory (h.table ▸ dvd_addrField _ _) hn hslot j

end

/-- Settles O21: the walk comes to the leaf and has set the flags of the entries that it read. -/
theorem advancedRead : Obligations.AdvancedRead := by
  unfold Obligations.AdvancedRead
  intro s d a x hm hplain hg hcpu hx k hk root leaf pa write slots outside hmaps hex
  have h : AdvancedRequest s d a x root k :=
    ⟨hm, .of_plainRequest hplain, hg, fun hread => hcpu.resolve_left (by rw [hread]; decide), hx, hk, rfl,
      .of_mapsAdvanced hmaps, hex⟩
  refine ⟨fun hpointers => ?_, fun hmanaged hkind hn hallowed hpage => ?_⟩
  · rw [List.all_eq_true] at hpointers
    refine ⟨fun hleaf => ⟨h.read_settled hpointers hleaf, h.write_settled hpointers hleaf⟩, fun hleaf hread hupdate => ?_⟩
    obtain ⟨t, hstep, hdone, hpa, hdata, houtside, hbits, hframe⟩ := h.read_leafFlags hpointers hleaf hread hupdate
    exact ⟨t, hstep, hdone, hpa, hdata, houtside, fun j _ => hbits j, hframe⟩
  · obtain ⟨t, hpa, hw⟩ := h.walk_visited hn hallowed
    have hchange := onlyEntriesChanged_visited s (dataCtl d x write) root a.va k
    have hbits := fun slot hslot j => h.bit_visited hmanaged hn (slot := slot) hslot j
    have hpa : t.pa = pa := hpa
    have hexists : physExists s t.pa (accessSize a) = true := by rw [hpa]; exact hex
    cases hk : a.kind with
    | atomic => exact absurd hk hkind
    | read =>
      obtain ⟨v, hstep, hdone, hvpa, hdata, hmem, hframe⟩ := advanced_read h.plain hk (h.settled hk) hchange hw hexists
      have hkept : ∀ slot, mem64 v slot = mem64 (visited s (dataCtl d x write) root a.va k) slot := fun slot =>
        congrArg (memReadLe · slot 8) hmem
      rw [hmem, hpa, hchange.memReadLe hpage] at hdata
      refine ⟨v, hstep, hdone, hvpa.trans hpa, fun slot hslot j _ => ?_, fun _ => ⟨hdata, fun b hb => ?_⟩, nofun, hframe⟩
      · rw [hkept]
        exact hbits slot hslot j
      · rw [hmem]
        exact hchange.outside b hb
    | write =>
      obtain ⟨v, hstep, hdone, hvpa, hinside, houtside, hframe⟩ := advanced_write hm h.plain hk hchange hw hexists
      rw [hpa] at hvpa hinside houtside
      have hkept : ∀ slot ∈ slots, mem64 v slot = mem64 (visited s (dataCtl d x write) root a.va k) slot := fun slot hslot =>
        memReadLe_congr slot 8 fun j hj => houtside _ (by have := hpage slot hslot; omega)
      refine ⟨v, hstep, hdone, hvpa, fun slot hslot j _ => ?_, nofun,
        fun _ => ⟨hinside, fun b hb hout => (houtside b hout).trans (hchange.outside b hb)⟩, hframe⟩
      rw [hkept slot hslot]
      exact hbits slot hslot j

end Sys2Proof.Machine

/-! ## The walk of the tiled-resource tables (42_trtt.md R390-R404; O37) -/

namespace Sys2Proof.Machine

open Sys2Proof

/-! ### A request of one page, wherever its address leads (R100) -/

/-- What such a request translates, where it translates its bytes alone. -/
theorem allPieces_of_resolve {s t : State} {r : Request} {fresh : Bool} {x : Resolved} (hb : Bare s r)
    (hpage : inOnePage r.acc = true) (hx : resolve s r r.acc.va fresh = .ok (x, t)) :
    allPieces s r fresh = .ok ([⟨x, accessSize r.acc⟩], t) := by
  have hfirst : firstLen r.acc = accessSize r.acc := by
    simp only [inOnePage, decide_eq_true_eq] at hpage
    simp only [firstLen]
    omega
  have hpieces : resolvePieces s r fresh = .ok ([⟨x, accessSize r.acc⟩], t) := by
    simp [resolvePieces, hx, hfirst, bind, Except.bind, pure, Except.pure]
  simp [allPieces, hpieces, auxPieces_none _ _ hb.aux, padPieces_none _ _ hb.pads, bind, Except.bind]

/-- It is performed where the address leads, if nothing stops it. -/
theorem serveNow_of_resolve {s t : State} {r : Request} {x : Resolved} (hb : Bare s r) (hpfm : reservedPfm s r = false)
    (hpage : inOnePage r.acc = true) (hx : resolve s r r.acc.va false = .ok (x, t))
    (hstop : firstStop [⟨x, accessSize r.acc⟩] = none) :
    serveNow s r false .take = perform t r [⟨x, accessSize r.acc⟩] := by
  rw [serveNow_current _ _ hb.current]
  simp [serveHere, goesOn, hpfm, allPieces_of_resolve hb hpage hx, conclude, hstop, bind, Except.bind]

/-- The null completion of a tile that TR-TT does not map (R402, R403). -/
def statusOfTile (x : TrEnd) : Status := if x = .invalidTile then .invalidTile else .nullTile

/-- A client's read or write in such a tile: the tile is noted, the access completes with zeros and the null indicator. -/
theorem perform_tile {s : State} {r : Request} {x : TrEnd} {n : Nat} (ho : r.origin = .client) (hk : r.acc.kind ≠ .atomic)
    (hx : x = .invalidTile ∨ x = .nullTile) :
    ∃ draws, perform s r [⟨.null (statusOfTile x), n⟩] = .ok (advanceDraws (complete (noteTile s r.acc.eng x)
      ⟨statusOfTile x, 0, true, 0, 0, .wb, faultModeBits r.desc⟩) draws) := by
  have hnote : noteTiles s r.acc.eng [⟨.null (statusOfTile x), n⟩] = noteTile s r.acc.eng x := by
    rcases hx with rfl | rfl <;> rfl
  have hnull : (statusOfTile x != .done) = true := by rcases hx with rfl | rfl <;> rfl
  cases hkind : r.acc.kind with
  | atomic => exact absurd hkind hk
  | read =>
    refine ⟨16, ?_⟩
    simp only [perform, checkPieces, piecesStatus, piecesTranslation, readPieces, ho, hkind, hnote, hnull, bind, Except.bind, pure,
      Except.pure]
    rw [show (0 : QWord) <<< (8 * n) = 0 from BitVec.zero_shiftLeft _]
  | write =>
    refine ⟨8, ?_⟩
    simp only [perform, checkPieces, piecesStatus, piecesTranslation, writePieces, ho, hkind, hnote, hnull, bind, Except.bind, pure,
      Except.pure]

/-! ### A data access that is served at once, TR-TT on or off -/

/-- A data access as the obligations take it: `quietRequest`, part by part. -/
structure QuietAccess (s : State) (a : Access) : Prop where
  serves : servesNow s a.eng = true
  waits : nothingWaits s a.eng = true
  retained : nothingRetained s a.eng = true
  onePage : inOnePage a = true
  sampler : a.client ≠ .samplerCache
  instruction : a.client ≠ .instructionState
  display : a.client ≠ .displayOverlay
  settled : dataSettled s a = true
  gttCache : s.params.gttCache = false
  faultingMode : field (gamMocsOf s a.eng a.mocs.toNat) 11 3 = 0

theorem QuietAccess.of_quietRequest {s : State} {a : Access} (h : quietRequest s a = true) : QuietAccess s a := by
  simp only [quietRequest, Bool.and_eq_true, Bool.not_eq_true', bne_iff_ne, decide_eq_true_eq] at h
  obtain ⟨⟨⟨⟨⟨⟨⟨⟨⟨⟨h1, h2⟩, h3⟩, h4⟩, -⟩, h6⟩, h7⟩, h8⟩, h9⟩, h10⟩, h11⟩ := h
  exact ⟨h1, h2, h3, h4, h6, h7, h8, h9, h10, h11⟩

/-- It is performed where its address leads, if nothing stops it. -/
theorem QuietAccess.serveUnder {s t : State} {mode : WalkMode} {d : QWord} {a : Access} {x : Resolved} (h : QuietAccess s a)
    (hx : resolve s (requestUnder s mode d a) a.va false = .ok (x, t)) (hstop : firstStop [⟨x, accessSize a⟩] = none) :
    serveUnder mode d a s = perform t (requestUnder s mode d a) [⟨x, accessSize a⟩] := by
  have hpfm : reservedPfm s (requestUnder s mode d a) = false := by simp [reservedPfm, ownRequest, h.faultingMode]
  rw [serveUnder_eq, serve_now false h.serves (keepsBehind_none h.waits) (keepsFurther_none h.waits)
    (outstandingBefore_none h.waits)]
  exact serveNow_of_resolve (bare_requestUnder s mode d a) hpfm h.onePage hx hstop

/-- A read in a legacy mode sees memory (R154, R463). -/
theorem QuietAccess.seesMemory {s : State} {mode : WalkMode} {d : QWord} {a : Access} (h : QuietAccess s a) (hk : a.kind = .read)
    (hmode : mode ≠ .advanced) (t : Translation) : SeesMemory s (requestUnder s mode d a) t := by
  refine ⟨h.sampler, h.instruction, h.display, ?_⟩
  have hlegacy : isAdvanced (requestUnder s mode d a) = false := by simp [isAdvanced, ownRequest, bit_descUnder_legacy d hmode]
  have hsettled := h.settled
  simp only [dataSettled, hk, Bool.or_eq_true, Bool.and_eq_true, reduceCtorEq, beq_iff_eq, false_or] at hsettled
  rcases hsettled with hcpu | ⟨hcoherent, hllc⟩
  · exact .inr hcpu
  · exact .inl (coherencyOf_full (llcCaches_of_mocs t hllc hlegacy) (by simp [coherentAccess, ownRequest, hcoherent]))

/-! ### An access that TR-TT translates (R391) -/

/-- The top table of the render engine's legacy 48-bit walks (R342). -/
abbrev tableRoot (s : State) : Nat := addrField s.params.haw 12 (pointersOf (engineOf s .rcs)).pdp0

/-- A request of the render engine, under a legacy 48-bit descriptor, that TR-TT translates. -/
structure TiledAccess (s : State) (a : Access) : Prop where
  quiet : QuietAccess s a
  perProcess : a.useGgtt = false
  noAtomic : a.kind ≠ .atomic
  engine : a.eng = .rcs
  on : trttOn s = true
  bypass : s.regs.lateBypass = false
  mask : field s.regs.trvadr 4 4 = 15
  window : field a.va 44 4 = field s.regs.trvadr 0 4
  tableMode : field (gamMocsOf s .rcs trttMocs) 11 3 = 0

theorem TiledAccess.of_translates {s : State} {a : Access} (hq : quietRequest s a = true) (hg : a.useGgtt = false)
    (hk : a.kind ≠ .atomic) (he : a.eng = .rcs) (ht : trttTranslates s a.va = true) : TiledAccess s a := by
  simp only [trttTranslates, Bool.and_eq_true, Bool.not_eq_true', decide_eq_true_eq] at ht
  obtain ⟨⟨⟨⟨hon, hbypass⟩, hmask⟩, hwindow⟩, hmode⟩ := ht
  exact ⟨.of_quietRequest hq, hg, hk, he, hon, hbypass, hmask, hwindow, hmode⟩

/-- With the mask at 1111b the window is that of its four bits (R44, R391). -/
theorem inTrWindow_masked {s : State} (va : QWord) (hmask : field s.regs.trvadr 4 4 = 15) :
    inTrWindow s va = some (decide (field va 44 4 = field s.regs.trvadr 0 4)) := by
  simp only [inTrWindow, hmask]

/-- An entry of the upper two levels that is neither Invalid nor Null leads to the next table (R190, R191). -/
theorem trPointerStep_next {e : QWord} (hi : bit e 0 = false) (hn : bit e 1 = false) :
    trPointerStep e = .next (field e 12 36 * 4096) := by
  simp [trPointerStep, hi, hn]

theorem trPointerStep_invalid {e : QWord} (hi : bit e 0 = true) : trPointerStep e = .invalidTile := if_pos hi

theorem trPointerStep_null {e : QWord} (hi : ¬bit e 0 = true) (hn : bit e 1 = true) : trPointerStep e = .nullTile :=
  (if_neg hi).trans (if_pos hn)

theorem trLeafStep_invalid {s : State} {e : Word} {va : QWord} (hi : e = s.regs.invalidTile) :
    trLeafStep s e va = .invalidTile := if_pos hi

theorem trLeafStep_null {s : State} {e : Word} {va : QWord} (hi : e ≠ s.regs.invalidTile) (hn : e = s.regs.nullTile) :
    trLeafStep s e va = .nullTile := (if_neg hi).trans (if_pos hn)

/-- An L1 entry that is neither gives the new address (R192). -/
theorem trLeafStep_newVa {s : State} {e : Word} {va : QWord} (hi : e ≠ s.regs.invalidTile) (hn : e ≠ s.regs.nullTile) :
    trLeafStep s e va = .newVa (0#16 ++ e ++ va.extractLsb' 0 16) := by
  rw [trLeafStep, if_neg hi, if_neg hn, newVa_eq]

/-! ### The reads of the tables (R400, R461) -/

/-- The machine with other draws and latched cache controls: all that reading the tables changes. -/
abbrev tablesRead (s : State) (draws : Nat) (cache : CacheControls) : State := { s with draws := draws, cache := cache }

section
variable {s : State} {a : Access} {d : QWord}

theorem TiledAccess.applies (h : TiledAccess s a) : trttApplies s (requestUnder s .ppgtt48 d a) a.va = .ok true := by
  have hmode : walkMode (requestUnder s .ppgtt48 d a).desc = .ppgtt48 := walkMode_descUnder ..
  have hggtt : usesGgtt (requestUnder s .ppgtt48 d a) = false := by
    simp [usesGgtt, ownRequest, h.perProcess, h.quiet.display, walkMode_descUnder]
  simp only [trttApplies, h.on, show (requestUnder s .ppgtt48 d a).acc.eng = .rcs from h.engine, h.bypass, hmode, hggtt,
    inTrWindow_masked a.va h.mask, h.window]
  simp

/-- The walk of an address that a page maps, for a read or a write with R/W = 1 (R321, R342). -/
theorem TiledAccess.translate_page (h : TiledAccess s a) {r : Request} {va : QWord} {isWrite : Bool} {k : Nat}
    (he : r.acc.eng = .rcs) (hmode : walkModeOf r = .ppgtt48) (hk : k ∈ [12, 16, 21, 30])
    (hmaps : maps48 s (tableRoot s) va k = true)
    (hw : isWrite = true → bit (mem64 s (leafSlot s (tableRoot s) va k)) 1 = true) :
    ∃ t, t.pa = pageTarget s (tableRoot s) va k ∧
      translate s r va isWrite false = .ok (.translated t, advanceDraws s 8) := by
  simp only [maps48, Bool.and_eq_true, Bool.not_eq_true'] at hmaps
  obtain ⟨hreach, h9⟩ := hmaps
  have hretained : nothingRetained s r.acc.eng = true := by rw [he, ← h.engine]; exact h.quiet.retained
  obtain ⟨acc, hwalk⟩ := walkOnce_ppgtt48 isWrite false hmode hretained h.quiet.gttCache hk (by rw [he]; exact hreach)
  rw [he, legacyEnd_page h9 hw] at hwalk
  exact ⟨_, leafTranslation_pa hk, translate_of_walk hwalk rfl⟩

/-- With nothing overwritten since the last invalidation no TR TLB holds an older entry (R407). -/
theorem retainedTiles_nil {s : State} {r : Request} (h : nothingRetained s r.acc.eng = true) (va : QWord) (level pa : Nat)
    (fresh : Bool) : retainedTiles s r va level pa fresh = [] := by
  simp [retainedTiles, retainedValues_nil h]

/-- A table entry at a readable address is read as memory holds it (R400). -/
theorem TiledAccess.trRead_entry (h : TiledAccess s a) (level : Nat) {addr k n : Nat} (hk : k ∈ [12, 16, 21, 30])
    (hread : trttReadable s (tableRoot s) addr k n = true) :
    ∃ draws cache, trRead s (requestUnder s .ppgtt48 d a) a.va level addr n false =
      .ok (.value (trttEntry s (tableRoot s) addr k n), tablesRead s draws cache) := by
  simp only [trttReadable, Bool.and_eq_true, decide_eq_true_eq] at hread
  obtain ⟨⟨houtside, hmaps⟩, hexists⟩ := hread
  have hwindow : inTrWindow s (BitVec.ofNat 64 addr) = some false := by simp [inTrWindow_masked _ h.mask, houtside]
  have hmode : walkModeOf (tableRequest (requestUnder s .ppgtt48 d a)) = .ppgtt48 :=
    walkModeOf_requestUnder (s := s) (d := d) h.perProcess h.quiet.display
  obtain ⟨t, hpa, htranslate⟩ := h.translate_page (r := tableRequest (requestUnder s .ppgtt48 d a)) (isWrite := false) h.engine hmode
    hk hmaps nofun
  have hcheck : checkPhys (advanceDraws s 8) t.pa n = .ok () := (checkPhys_ok _ _ _).2 (by rw [hpa]; exact hexists)
  have htiles := retainedTiles_nil (s := advanceDraws s 8) (r := requestUnder s .ppgtt48 d a) h.quiet.retained a.va level t.pa false
  refine ⟨s.draws + 8, { cacheControlsOf (advanceDraws s 8) (cacheQueryOf (tableRequest (requestUnder s .ppgtt48 d a)) trttMocs t)
    with l3 := .uncacheable }, ?_⟩
  simp only [trRead, hwindow, Option.some.injEq, Bool.false_eq_true, if_false, h.tableMode, ne_eq, not_true_eq_false, htranslate,
    hcheck, htiles, pickValue, bind, Except.bind, pure, Except.pure]
  rw [hpa]
  rfl

/-- What the reads of the tables change does not matter to the access. -/
theorem TiledAccess.after_tables (h : TiledAccess s a) (draws : Nat) (cache : CacheControls) :
    TiledAccess (tablesRead s draws cache) a :=
  ⟨⟨h.quiet.serves, h.quiet.waits, h.quiet.retained, h.quiet.onePage, h.quiet.sampler, h.quiet.instruction, h.quiet.display,
      h.quiet.settled, h.quiet.gttCache, h.quiet.faultingMode⟩,
    h.perProcess, h.noAtomic, h.engine, h.on, h.bypass, h.mask, h.window, h.tableMode⟩

/-- A table entry read after others. -/
theorem TiledAccess.trRead_entry_after (h : TiledAccess s a) (draws : Nat) (cache : CacheControls) (level : Nat) {addr k n : Nat}
    (hk : k ∈ [12, 16, 21, 30]) (hread : trttReadable s (tableRoot s) addr k n = true) :
    ∃ draws' cache', trRead (tablesRead s draws cache) (requestUnder s .ppgtt48 d a) a.va level addr n false =
      .ok (.value (trttEntry s (tableRoot s) addr k n), tablesRead s draws' cache') :=
  (h.after_tables draws cache).trRead_entry level hk hread

/-! ### The three levels (R400) -/

/-- The walk of the tables comes to `x`. -/
def TrWalkEnds (s : State) (d : QWord) (a : Access) (x : TrEnd) : Prop :=
  ∃ draws cache, trWalk s (requestUnder s .ppgtt48 d a) a.va false = .ok (.ends x, tablesRead s draws cache)

/-- The end of a walk whose tile TR-TT does not map (R402, R403). -/
def TrEnd.unmapped (x : TrEnd) : Prop := x = .invalidTile ∨ x = .nullTile

variable {k3 k2 k1 : Nat} {e3 e2 : QWord} {x : TrEnd}

/-- The L3 entry ends the walk. -/
theorem TiledAccess.ends_l3 (h : TiledAccess s a) (hk3 : k3 ∈ [12, 16, 21, 30])
    (hread3 : trttReadable s (tableRoot s) (trttL3Addr s a.va) k3 8 = true)
    (hx : trPointerStep (trttEntry s (tableRoot s) (trttL3Addr s a.va) k3 8) = x) (hend : x.unmapped) : TrWalkEnds s d a x := by
  obtain ⟨n3, c3, h3⟩ := h.trRead_entry (d := d) 3 hk3 hread3
  rw [trttL3Addr] at h3 hx
  refine ⟨n3, c3, ?_⟩
  simp only [trWalk, h3, bind, Except.bind, hx]
  rcases hend with rfl | rfl <;> rfl

/-- The L3 entry leads to the L2 table, whose entry ends the walk. -/
theorem TiledAccess.ends_l2 (h : TiledAccess s a) (hk3 : k3 ∈ [12, 16, 21, 30])
    (hread3 : trttReadable s (tableRoot s) (trttL3Addr s a.va) k3 8 = true)
    (he3 : trttEntry s (tableRoot s) (trttL3Addr s a.va) k3 8 = e3) (hi3 : bit e3 0 = false) (hn3 : bit e3 1 = false)
    (hk2 : k2 ∈ [12, 16, 21, 30]) (hread2 : trttReadable s (tableRoot s) (trttL2Addr e3 a.va) k2 8 = true)
    (hx : trPointerStep (trttEntry s (tableRoot s) (trttL2Addr e3 a.va) k2 8) = x) (hend : x.unmapped) : TrWalkEnds s d a x := by
  obtain ⟨n3, c3, h3⟩ := h.trRead_entry (d := d) 3 hk3 hread3
  obtain ⟨n2, c2, h2⟩ := h.trRead_entry_after (d := d) n3 c3 2 hk2 hread2
  rw [he3, trttL3Addr] at h3
  rw [trttL2Addr] at h2 hx
  refine ⟨n2, c2, ?_⟩
  simp only [trWalk, h3, bind, Except.bind, trPointerStep_next hi3 hn3, h2, hx]
  rcases hend with rfl | rfl <;> rfl

/-- Both lead on, and the L1 entry ends the walk. -/
theorem TiledAccess.ends_l1 (h : TiledAccess s a) (hk3 : k3 ∈ [12, 16, 21, 30])
    (hread3 : trttReadable s (tableRoot s) (trttL3Addr s a.va) k3 8 = true)
    (he3 : trttEntry s (tableRoot s) (trttL3Addr s a.va) k3 8 = e3) (hi3 : bit e3 0 = false) (hn3 : bit e3 1 = false)
    (hk2 : k2 ∈ [12, 16, 21, 30]) (hread2 : trttReadable s (tableRoot s) (trttL2Addr e3 a.va) k2 8 = true)
    (he2 : trttEntry s (tableRoot s) (trttL2Addr e3 a.va) k2 8 = e2) (hi2 : bit e2 0 = false) (hn2 : bit e2 1 = false)
    (hk1 : k1 ∈ [12, 16, 21, 30]) (hread1 : trttReadable s (tableRoot s) (trttL1Addr e2 a.va) k1 4 = true) :
    TrWalkEnds s d a
      (trLeafStep s ((trttEntry s (tableRoot s) (trttL1Addr e2 a.va) k1 4).setWidth 32) a.va) := by
  obtain ⟨n3, c3, h3⟩ := h.trRead_entry (d := d) 3 hk3 hread3
  obtain ⟨n2, c2, h2⟩ := h.trRead_entry_after (d := d) n3 c3 2 hk2 hread2
  obtain ⟨n1, c1, h1⟩ := h.trRead_entry_after (d := d) n2 c2 1 hk1 hread1
  rw [he3, trttL3Addr] at h3
  rw [he2, trttL2Addr] at h2
  rw [trttL1Addr] at h1
  refine ⟨n1, c1, ?_⟩
  simp only [trWalk, h3, bind, Except.bind, trPointerStep_next hi3 hn3, h2, trPointerStep_next hi2 hn2, h1]
  rfl

/-! ### What the access does at the end of the walk (R321, R402, R403) -/

/-- In a tile that TR-TT does not map the access completes with zeros and the null indicator, and the tile is noted. -/
theorem TiledAccess.completes_tile (h : TiledAccess s a) (htile : a.tileX = false) (hend : x.unmapped)
    (hw : TrWalkEnds s d a x) :
    ∃ draws cache draws' mode, serveUnder .ppgtt48 d a s = .ok (advanceDraws (complete
      (noteTile (tablesRead s draws cache) .rcs x) ⟨statusOfTile x, 0, true, 0, 0, .wb, mode⟩) draws') := by
  obtain ⟨draws, cache, hwalk⟩ := hw
  have hresolve : resolve s (requestUnder s .ppgtt48 d a) a.va false =
      .ok (.null (statusOfTile x), tablesRead s draws cache) := by
    have htile' : (requestUnder s .ppgtt48 d a).acc.tileX = false := htile
    simp only [resolve, h.applies, hwalk, bind, Except.bind, if_true, htile']
    rcases hend with rfl | rfl <;> rfl
  obtain ⟨draws', hperform⟩ := perform_tile (s := tablesRead s draws cache) (r := requestUnder s .ppgtt48 d a)
    (n := accessSize a) rfl h.noAtomic hend
  rw [show (requestUnder s .ppgtt48 d a).acc.eng = .rcs from h.engine] at hperform
  exact ⟨draws, cache, draws', _, (h.quiet.serveUnder hresolve rfl).trans hperform⟩

/-- The walk comes to an entry that is Invalid, else Null: the access completes with zeros; an Invalid tile adds its event to the render
engine, a Null tile is counted (R402-R404). -/
theorem TiledAccess.tile (h : TiledAccess s a) {invalid null : Prop} (hinvalid : invalid → TrWalkEnds s d a .invalidTile)
    (hnull : ¬invalid → null → TrWalkEnds s d a .nullTile) :
    (a.tileX = false → invalid → ∃ t, exec (.ctxLegacyPpgtt48 d a) s = .next t ∧ t.completion.status = .invalidTile ∧
      t.completion.data = 0 ∧ t.completion.nullIndicator = true ∧ .trttInvalidTile ∈ (engineOf t .rcs).events ∧ sameMemory s t ∧
      engineOf t .rcs = { engineOf s .rcs with events := (engineOf t .rcs).events } ∧ sameOtherEngines s t .rcs ∧
      t = { s with engines := t.engines, completion := t.completion, draws := t.draws, cache := t.cache }) ∧
    (a.tileX = false → ¬invalid → null → ∃ t, exec (.ctxLegacyPpgtt48 d a) s = .next t ∧ t.completion.status = .nullTile ∧
      t.completion.data = 0 ∧ t.completion.nullIndicator = true ∧ sameMemory s t ∧
      t = { s with regs := { s.regs with nullTileCount := s.regs.nullTileCount + 1 }
                   completion := t.completion, draws := t.draws, cache := t.cache }) := by
  refine ⟨fun htile hi => ?_, fun htile hi hn => ?_⟩
  · obtain ⟨draws, cache, draws', mode, hserve⟩ := h.completes_tile htile (.inl rfl) (hinvalid hi)
    have hengines := fun e => engineOf_raiseEvent (tablesRead s draws cache) .rcs e .trttInvalidTile
    refine ⟨_, toOutcome_next.2 hserve, rfl, rfl, rfl, ?_, fun _ => rfl, ?_, fun e he => ?_, rfl⟩
    · rw [engineOf_advanceDraws, engineOf_complete, noteTile, hengines, if_pos rfl]
      exact mem_addEvent _ _
    · rw [engineOf_advanceDraws, engineOf_complete, noteTile, hengines, if_pos rfl]
      rfl
    · rw [engineOf_advanceDraws, engineOf_complete, noteTile, hengines, if_neg he]
      exact engineOf_congr rfl e
  · obtain ⟨draws, cache, draws', mode, hserve⟩ := h.completes_tile htile (.inr rfl) (hnull hi hn)
    exact ⟨_, toOutcome_next.2 hserve, rfl, rfl, rfl, fun _ => rfl, rfl⟩

/-- The walk comes to a new address in a page: the request is performed there, with no second pass through TR-TT (R390, R400). -/
theorem TiledAccess.serves_newVa (h : TiledAccess s a) {va : QWord} {k : Nat} (hw : TrWalkEnds s d a (.newVa va))
    (hk : k ∈ [12, 16, 21, 30]) (hmaps : maps48 s (tableRoot s) va k = true)
    (hallowed : (a.kind != .read) = true → bit (mem64 s (leafSlot s (tableRoot s) va k)) 1 = true) :
    ∃ draws cache t, t.pa = pageTarget s (tableRoot s) va k ∧ serveUnder .ppgtt48 d a s =
      perform (tablesRead s draws cache) (requestUnder s .ppgtt48 d a) [⟨.pa t, accessSize a⟩] := by
  obtain ⟨draws, cache, hwalk⟩ := hw
  obtain ⟨t, hpa, htranslate⟩ := (h.after_tables draws cache).translate_page (r := requestUnder s .ppgtt48 d a)
    (isWrite := (requestUnder s .ppgtt48 d a).acc.kind != .read) h.engine
    (walkModeOf_requestUnder h.perProcess h.quiet.display) hk hmaps hallowed
  refine ⟨draws + 8, cache, t, hpa, h.quiet.serveUnder ?_ rfl⟩
  simp only [resolve, h.applies, hwalk, bind, Except.bind, if_true, resolveVa, htranslate]
  rfl

/-- A read of the page, and a write with R/W = 1 in its leaf (R321). -/
theorem TiledAccess.newVa (h : TiledAccess s a) (hm : Memory.wf s.mem = true) {va : QWord} {k : Nat}
    (hw : TrWalkEnds s d a (.newVa va)) (hk : k ∈ [12, 16, 21, 30]) (hmaps : maps48 s (tableRoot s) va k = true) :
    let pa := pageTarget s (tableRoot s) va k
    physExists s pa (accessSize a) = true →
    (a.kind = .read →
      ∃ t, exec (.ctxLegacyPpgtt48 d a) s = .next t ∧ t.completion.status = .done ∧ t.completion.pa = pa ∧
        t.completion.data = memReadLe s.mem pa (accessSize a) ∧ sameMemory s t ∧
        t = { s with completion := t.completion, draws := t.draws, cache := t.cache }) ∧
    (a.kind = .write → bit (mem64 s (leafSlot s (tableRoot s) va k)) 1 = true →
      ∃ t, exec (.ctxLegacyPpgtt48 d a) s = .next t ∧ t.completion.status = .done ∧
        (∀ j, j < accessSize a → memRead t.mem (pa + j) = byteAt a.data j) ∧ sameMemoryOutside s t pa (accessSize a) ∧
        t = { s with mem := t.mem, history := t.history, completion := t.completion, draws := t.draws, cache := t.cache }) := by
  intro pa hexists
  refine ⟨fun hkind => ?_, fun hkind hallowed => ?_⟩
  · obtain ⟨draws, cache, t, hpa, hserve⟩ := h.serves_newVa hw hk hmaps fun hwrite => by simp [hkind] at hwrite
    have hperform := perform_read (s := tablesRead s draws cache) rfl hkind
      ((h.after_tables draws cache).quiet.seesMemory (mode := .ppgtt48) (d := d) hkind (by decide) t)
      (n := accessSize a) (by rw [hpa]; exact hexists)
    rw [hpa] at hperform
    exact ⟨_, toOutcome_next.2 (hserve.trans hperform), rfl, rfl, rfl, fun _ => rfl, rfl⟩
  · obtain ⟨draws, cache, t, hpa, hserve⟩ := h.serves_newVa hw hk hmaps fun _ => hallowed
    have hperform := perform_write (s := tablesRead s draws cache) (r := requestUnder s .ppgtt48 d a) (t := t) rfl hkind
      (n := accessSize a) (by rw [hpa]; exact hexists)
    rw [hpa] at hperform
    exact ⟨_, toOutcome_next.2 (hserve.trans hperform), rfl, fun _ hj => memRead_memWriteLe_inside _ _ _ _ _ hj hm,
      fun _ hb => memRead_memWriteLe_outside _ _ _ _ _ hb, rfl⟩

end

/-- Settles O37: the walk of the tables ends at the first entry that is Invalid or Null, else at the page of the new address. -/
theorem trttAccess : Obligations.TrttAccess := by
  unfold Obligations.TrttAccess
  intro s d a hm hquiet hg hatomic hengine htranslates k3 hk3 root tile addr3 e3 hread3
  have h := TiledAccess.of_translates hquiet hg hatomic hengine htranslates
  refine ⟨h.tile (fun hi => h.ends_l3 hk3 hread3 (trPointerStep_invalid hi) (.inl rfl))
    (fun hi hn => h.ends_l3 hk3 hread3 (trPointerStep_null hi hn) (.inr rfl)), ?_⟩
  intro hi3 hn3 k2 hk2 addr2 e2 hread2
  refine ⟨h.tile (fun hi => h.ends_l2 hk3 hread3 rfl hi3 hn3 hk2 hread2 (trPointerStep_invalid hi) (.inl rfl))
    (fun hi hn => h.ends_l2 hk3 hread3 rfl hi3 hn3 hk2 hread2 (trPointerStep_null hi hn) (.inr rfl)), ?_⟩
  intro hi2 hn2 k1 hk1 addr1 e1 hread1
  have hend : TrWalkEnds s d a (trLeafStep s e1 a.va) := h.ends_l1 hk3 hread3 rfl hi3 hn3 hk2 hread2 rfl hi2 hn2 hk1 hread1
  refine ⟨h.tile (fun hi => trLeafStep_invalid hi ▸ hend) (fun hi hn => trLeafStep_null hi hn ▸ hend), ?_⟩
  intro hi1 hn1 k hk va' pa hmaps hexists
  rw [trLeafStep_newVa hi1 hn1] at hend
  exact h.newVa hm hend hk hmaps hexists

end Sys2Proof.Machine

/-! ## Page-table atomics presented as objects (43_page_atomics.md R420-R452; O15, O16, O17) -/

namespace Sys2Proof.Machine

open Sys2Proof

/-! ### The flags that each family sets -/

/-- The entry that the atomic updates is a leaf (R420). -/
def atomicLeaf (i : Bool) (q : QWord) : Bool := !i || bit q 7

/-- The write for which the atomic is issued is refused by the entry (R420). -/
def atomicRefused (w r : Bool) (q : QWord) : Bool := r && w && !bit q 1

/-- The flags that the atomic sets in an entry that it stores: A, EA where e = 1, D for a write at a leaf that is not refused (R420). -/
def atomicFlag (i w e r : Bool) (q : QWord) (k : Nat) : Bool :=
  decide (k = 5) || (e && decide (k = 10)) || (r && atomicLeaf i q && !atomicRefused w r q) && decide (k = 6)

section
variable {i w r : Bool} {q : QWord}

/-- An entry that is not present, or a pointer whose write is refused, stays as it is. -/
theorem pageAtomic_keeps (e : Bool) (h : bit q 0 = false ∨ atomicRefused w r q = true ∧ atomicLeaf i q = false) :
    pageAtomic i w e r q = q := by
  rcases h with hpresent | ⟨hrefused, hleaf⟩
  · simp [pageAtomic, hpresent]
  · simp only [atomicRefused, atomicLeaf] at hrefused hleaf
    simp only [pageAtomic, hrefused, hleaf, Bool.not_false, Bool.and_true, if_true, ite_self]

/-- Every other entry gets its flags, whatever they were before. -/
theorem bit_pageAtomic (e : Bool) (hpresent : bit q 0 = true) (h : atomicRefused w r q = false ∨ atomicLeaf i q = true) (k : Nat) :
    bit (pageAtomic i w e r q) k = (bit q k || atomicFlag i w e r q k) := by
  have hstores : (atomicRefused w r q && !atomicLeaf i q) = false := by
    rcases h with h | h <;> simp [h]
  simp only [atomicRefused, atomicLeaf] at hstores
  simp only [pageAtomic, hpresent, hstores, Bool.not_true, Bool.false_eq_true, if_false, bit_or, bit_ite, bit_flagA, bit_flagEA,
    bit_flagD, atomicFlag, atomicLeaf, atomicRefused, Bool.or_assoc]

end

theorem aUpdate_eq (q : QWord) : aUpdate q = if bit q 0 then q ||| 0x20 else q := by
  cases h : bit q 0 <;> simp [aUpdate, flagA, h]

/-- A and D together (R446-R448). -/
theorem or_flagA_flagD (q : QWord) : q ||| flagA ||| flagD = q ||| 0x60 := BitVec.or_assoc q flagA flagD

theorem adUpdate_eq (q : QWord) : adUpdate q = if bit q 0 && bit q 1 then q ||| 0x60 else q := by
  cases h0 : bit q 0 <;> cases h1 : bit q 1 <;> simp [adUpdate, or_flagA_flagD, h0, h1]

theorem adUpdateIgnoringRo_eq (q : QWord) : adUpdateIgnoringRo q = if bit q 0 then q ||| 0x60 else q := by
  cases h : bit q 0 <;> simp [adUpdateIgnoringRo, or_flagA_flagD, h]

/-! ### An atomic that may update its entry (R420, R452) -/

/-- From `s` to `t` the entry at `pa` became `new`, which is returned too; nothing else changed but the history. -/
structure EntryBecomes (s t : State) (pa : Nat) (new : QWord) : Prop where
  stored : mem64 t pa = new
  returned : t.atomicReturn = new
  untouched : new = mem64 s pa → t.mem = s.mem
  outside : sameMemoryOutside s t pa 8
  frame : t = { s with mem := t.mem, history := t.history, atomicReturn := t.atomicReturn }

section
variable {s : State} {a : AtomicArgs}

/-- It becomes what the flag computation makes of it, whether or not that has to be stored. -/
theorem entryAtomic_allowed (f : QWord → QWord) (hm : Memory.wf s.mem = true) (ha : atomicAllowed s a = true) :
    ∃ t, entryAtomic f a s = .ok t ∧ EntryBecomes s t a.pa.toNat (f (mem64 s a.pa.toNat)) := by
  by_cases hf : f (mem64 s a.pa.toNat) = mem64 s a.pa.toNat
  · have hexists : physExists s a.pa.toNat 8 = true := (Bool.and_eq_true_iff.1 ha).1
    exact ⟨_, entryAtomic_same hexists hf, hf.symm, hf.symm, fun _ => rfl, fun _ _ => rfl, rfl⟩
  · exact ⟨_, entryAtomic_store ha hf, mem64_store_same s _ _ Writer.gam hm, rfl, fun h => absurd h hf,
      memRead_store_outside s _ _ _ Writer.gam, rfl⟩

/-- So does an object whose meaning is that atomic. -/
theorem exec_entryAtomic_allowed {x : Instr} {f : QWord → QWord} (hx : exec x s = toOutcome (entryAtomic f a s))
    (hm : Memory.wf s.mem = true) (ha : atomicAllowed s a = true) :
    ∃ t, exec x s = .next t ∧ EntryBecomes s t a.pa.toNat (f (mem64 s a.pa.toNat)) := by
  obtain ⟨t, ht, hentry⟩ := entryAtomic_allowed f hm ha
  exact ⟨t, hx.trans (toOutcome_next.2 ht), hentry⟩

end

/-! ### The obligations -/

/-- The sixteen objects are one atomic with the four bits of their opcode (R420). -/
theorem exec_pageUpdateInstr (i w e r : Bool) (a : AtomicArgs) (s : State) :
    exec (pageUpdateInstr i w e r a) s = toOutcome (entryAtomic (pageAtomic i w e r) a s) := by
  unfold pageUpdateInstr
  split <;> rfl

/-- Settles O15: the entry becomes its `pageAtomic`, whose bits are known. -/
theorem pageAtomicSetsFlags : Obligations.PageAtomicSetsFlags := by
  unfold Obligations.PageAtomicSetsFlags
  intro s i w e r a hm ha
  obtain ⟨t, ht, hentry⟩ := exec_entryAtomic_allowed (exec_pageUpdateInstr i w e r a s) hm ha
  refine ⟨t, ht, hentry.returned.trans hentry.stored.symm, fun hkeeps => ?_, fun ⟨hpresent, hstores⟩ => ?_, hentry.outside,
    hentry.frame⟩
  · have hsame := pageAtomic_keeps e hkeeps
    exact ⟨hentry.stored.trans hsame, hentry.untouched hsame⟩
  · rw [hentry.stored]
    have hbit := bit_pageAtomic e hpresent hstores
    refine ⟨?_, ?_, ?_, fun k _ h5 h6 h10 => ?_⟩
    · simp [hbit, atomicFlag]
    · simp [hbit, atomicFlag]
    · simp [hbit, atomicFlag, atomicLeaf, atomicRefused]
    · simp [hbit, atomicFlag, h5, h6, h10]

/-- Settles O16: the entry becomes what its family makes of it. -/
theorem accessedDirtyUpdates : Obligations.AccessedDirtyUpdates := by
  unfold Obligations.AccessedDirtyUpdates
  intro s a hm ha pa q result read write anyWrite
  have hresult : ∀ {x : Instr} {f : QWord → QWord} {new : QWord}, exec x s = toOutcome (entryAtomic f a s) → f q = new →
      result x new := by
    rintro x f _ hx rfl
    obtain ⟨t, ht, hentry⟩ := exec_entryAtomic_allowed hx hm ha
    exact ⟨t, ht, hentry.stored, hentry.returned, hentry.outside, hentry.frame⟩
  have hread : aUpdate q = read := aUpdate_eq q
  have hwrite : adUpdate q = write := adUpdate_eq q
  exact ⟨hresult rfl hread, hresult rfl hread, hresult rfl hread, hresult rfl hread, hresult rfl hread, hresult rfl hwrite,
    hresult rfl hwrite, hresult rfl (adUpdateIgnoringRo_eq q)⟩

/-- Settles O17: the abort is a catastrophic error of the atomic's own engine, which was neither Hung nor Wedged. -/
theorem atomicInNonWbMemoryAborts : Obligations.AtomicInNonWbMemoryAborts := by
  unfold Obligations.AtomicInNonWbMemoryAborts
  intro s i w e r a hexists hnot hchanges hstuck
  have habort := entryAtomic_abort hexists hnot hchanges
  obtain ⟨-, hengine, hothers, hframe⟩ :=
    takeCatastrophic_eq (s := s) (r := atomicRequest s a) .adUpdateNonWb a.pa rfl
  refine ⟨_, (exec_pageUpdateInstr i w e r a s).trans (toOutcome_next.2 habort), fun b => ?_, ?_, ?_, hothers, ?_⟩
  · rw [hframe]
  · exact (congrArg EngineSt.mode hengine).trans (stick_of_not_stuck _ hstuck)
  · exact congrArg EngineSt.contextBad hengine
  · rw [show engineOf _ a.eng = _ from hengine]
    exact ⟨_, mem_addEvent _ _⟩

end Sys2Proof.Machine

/-! ## Blocks of compressed textures (46_etc_fxt1.md R540-R570, 47_bc.md R600-R625, 48_astc.md R690; O45) -/

namespace Sys2Proof.Machine

open Sys2Proof

/-! ### Footprints: every decoder answers as many texels as its block covers -/

/-- A decoded block of the width and height given, with one texel for each position. -/
structure Covers (t : TexelBlock) (size : Nat × Nat) : Prop where
  width : t.width = size.1
  height : t.height = size.2
  texels : t.texels.length = size.1 * size.2

theorem covers_block4x4 (f : Nat → Nat → Texel) : Covers (block4x4 f) (4, 4) := ⟨rfl, rfl, by simp [block4x4]⟩

theorem covers_fxtBlock (srgb : Bool) (f : Nat → Rgba) : Covers (fxtBlock srgb f) (8, 4) := ⟨rfl, rfl, by simp [fxtBlock]⟩

/-- With a sum out of range the texels are open, but there are as many (R543, I70). -/
theorem covers_etcDifferential (srgb : Bool) (b : QWord) (s : State) : Covers (etcDifferential srgb b s) (4, 4) := by
  unfold etcDifferential
  split
  · exact covers_block4x4 _
  · exact covers_block4x4 _

theorem covers_astcTexels (f : AstcFormat) (t : Nat → Nat → Texel) : Covers (astcTexels f t) (f.width, f.height) :=
  ⟨rfl, rfl, by simp [astcTexels]⟩

theorem covers_astcErrorBlock (f : AstcFormat) : Covers (astcErrorBlock f) (f.width, f.height) := covers_astcTexels f _

theorem covers_astcVoidBlock (f : AstcFormat) (b : Block) (s : State) : Covers (astcVoidBlock f b s) (f.width, f.height) := by
  unfold astcVoidBlock
  dsimp only
  split
  · exact covers_astcErrorBlock f
  · split
    · exact covers_astcTexels f _
    · exact covers_astcErrorBlock f

theorem covers_astcModeBlock (f : AstcFormat) (b : Block) (m : IndexMode) :
    Covers (astcModeBlock f b m) (f.width, f.height) := by
  unfold astcModeBlock
  split
  · split
    · exact covers_astcTexels f _
    · exact covers_astcErrorBlock f
  · exact covers_astcErrorBlock f

/-- Legal, illegal or constant, an ASTC block covers the footprint of the format in force (R690). -/
theorem covers_astcBlock (f : AstcFormat) (b : Block) (s : State) : Covers (astcBlock f b s) (f.width, f.height) := by
  unfold astcBlock
  split
  · exact covers_astcModeBlock f b _
  · split
    · exact covers_astcVoidBlock f b s
    · exact covers_astcErrorBlock f

/-- What every texture block does: it decodes to a block of its format's size, which is latched. The constructors are those of ASTC, of
FXT1, the one whose texels may be open (R543), and the other blocks of 4 by 4 texels. -/
theorem exec_textureBlock {i : Instr} (hi : isTextureBlock i = true) (s : State) :
    ∃ t, exec i s = .next (latchBlock t s) ∧ Covers t (blockSize s i) := by
  cases i with
  | astcVoidExtent2d b | astcReservedModeA b | astcReservedModeB b | astcModeWBp4HAp2 b | astcModeWBp8HAp2 b
  | astcModeWAp2HBp8 b | astcModeWAp2HBp6 b | astcModeWBp2HAp2 b | astcModeW12HAp2 b | astcModeWAp2H12 b | astcModeW6H10 b
  | astcModeW10H6 b | astcModeWAp6HBp6 b | astcCem0 b | astcCem1 b | astcCem2 b | astcCem3 b | astcCem4 b | astcCem5 b
  | astcCem6 b | astcCem7 b | astcCem8 b | astcCem9 b | astcCem10 b | astcCem11 b | astcCem12 b | astcCem13 b | astcCem14 b
  | astcCem15 b => exact ⟨_, rfl, covers_astcBlock s.astcFormat b s⟩
  | fxt1CcHi b f | fxt1CcChroma b f | fxt1CcAlpha b f | fxt1CcMixed b f => exact ⟨_, rfl, covers_fxtBlock false _⟩
  | etc1Differential b f => exact ⟨_, rfl, covers_etcDifferential f.srgb b s⟩
  | etc1Individual b f | etc2T b f | etc2H b f | etc2Planar b f | etc2Rgb8Pta b f | eacR11 b f | etc2EacRgba8 b f
  | eacRg11 b f | dxt1FourColour b f | dxt1ThreeColourTransparent b f | dxt1Rgb b f | dxt2Dxt3ExplicitAlpha b f
  | dxt4Dxt5InterpolatedAlpha b f | bc4 b f | bc5 b f | bc6hMode0 b f | bc6hMode1 b f | bc6hMode2 b f | bc6hMode3 b f
  | bc6hMode4 b f | bc6hMode5 b f | bc6hMode6 b f | bc6hMode7 b f | bc6hMode8 b f | bc6hMode9 b f | bc6hMode10 b f
  | bc6hMode11 b f | bc6hMode12 b f | bc6hMode13 b f | bc6hUndefined10011 b f | bc6hUndefined10111 b f
  | bc6hUndefined11011 b f | bc6hUndefined11111 b f | bc7Mode0 b f | bc7Mode1 b f | bc7Mode2 b f | bc7Mode3 b f
  | bc7Mode4 b f | bc7Mode5 b f | bc7Mode6 b f | bc7Mode7 b f | bc7Undefined b f => exact ⟨_, rfl, covers_block4x4 _⟩
  | _ => exact absurd hi Bool.false_ne_true

/-! ### The texel at a row and a column -/

theorem block4x4_at (f : Nat → Nat → Texel) {row col : Nat} (hrow : row < 4) (hcol : col < 4) :
    (block4x4 f).at row col = f row col := by
  have hk : 4 * row + col < 16 := by omega
  have hdiv : (4 * row + col) / 4 = row := by omega
  have hmod : (4 * row + col) % 4 = col := by omega
  simp [TexelBlock.at, block4x4, List.getD_eq_getElem?_getD, hk, hdiv, hmod]

theorem fxtBlock_at (srgb : Bool) (f : Nat → Rgba) {row col : Nat} (hrow : row < 4) (hcol : col < 8) :
    (fxtBlock srgb f).at row col = rgbaTexel srgb (f (fxtTexel row col)) := by
  have hk : 8 * row + col < 32 := by omega
  have hdiv : (8 * row + col) / 8 = row := by omega
  have hmod : (8 * row + col) % 8 = col := by omega
  simp [TexelBlock.at, fxtBlock, List.getD_eq_getElem?_getD, hk, hdiv, hmod]

/-- An object that latches a 4 by 4 block answers at each position the texel of that position. -/
theorem texel_of_block4x4 {i : Instr} {s : State} {g : Nat → Nat → Texel} {row col : Nat} {x : Texel} (hrow : row < 4)
    (hcol : col < 4) (hexec : exec i s = .next (latchBlock (block4x4 g) s)) (hx : g row col = x) :
    ∃ t, exec i s = .next t ∧ t.texels.at row col = x :=
  ⟨_, hexec, (block4x4_at g hrow hcol).trans hx⟩

/-- An object that latches an FXT1 block answers at each position the texel of the number that R560 gives the position. -/
theorem texel_of_fxtBlock {i : Instr} {s : State} {g : Nat → Rgba} {row col : Nat} {x : Texel} (hrow : row < 4)
    (hcol : col < 8) (hexec : exec i s = .next (latchBlock (fxtBlock false g) s))
    (hx : rgbaTexel false (g (fxtTexel row col)) = x) : ∃ t, exec i s = .next t ∧ t.texels.at row col = x :=
  ⟨_, hexec, (fxtBlock_at false g hrow hcol).trans hx⟩

/-! ### Numbers in fields -/

/-- A bit as a number is a field of one bit. -/
theorem bitN_eq_field {n : Nat} (w : BitVec n) (i : Nat) : bitN w i = field w i 1 := by
  rw [field_eq, bitN, BitVec.getLsbD, Nat.testBit_eq_decide_div_mod_eq, Nat.pow_one]
  rcases Nat.mod_two_eq_zero_or_one (w.toNat / 2 ^ i) with h | h <;> simp [h]

/-- The two's-complement value of a number of `n + 1` bits: its top half is negative. -/
theorem signExtendNat_of_lt {v n : Nat} (hv : v < 2 ^ (n + 1)) :
    signExtendNat v (n + 1) = if v < 2 ^ n then (v : Int) else (v : Int) - 2 ^ (n + 1) := by
  have hhalf : 2 * v < 2 ^ (n + 1) ↔ v < 2 ^ n := by rw [Nat.pow_succ]; omega
  simp only [signExtendNat, Nat.mod_eq_of_lt hv, hhalf, Nat.cast_pow, Nat.cast_ofNat]

theorem ext4_eq (x : Nat) : ext4 x = 17 * x := by unfold ext4; omega

theorem ext5_eq (x : Nat) : ext5 x = 8 * x + x / 4 := by unfold ext5; omega

/-! ### ETC1 (R541-R544) -/

/-- The luminance table as R544 reads it, one list for each table index. -/
def lumColumns : List (List Int) :=
  [[2, 8, -2, -8], [5, 17, -5, -17], [9, 29, -9, -29], [13, 42, -13, -42], [18, 60, -18, -60],
    [24, 80, -24, -80], [33, 106, -33, -106], [47, 183, -47, -183]]

theorem intCell_lumTable : ∀ idx < 4, ∀ table < 8, intCell lumTable idx table = (lumColumns.getD table []).getD idx 0 := by
  decide

theorem etcIdx_eq (b : QWord) (row col : Nat) :
    etcIdx b row col = 2 * field b (etcMsb (4 * col + row)) 1 + field b (etcMsb (4 * col + row) + 16) 1 := by
  rw [← bitN_eq_field, ← bitN_eq_field]
  rfl

theorem etcIdx_lt (b : QWord) (row col : Nat) : etcIdx b row col < 4 := by
  have hmsb := field_lt b (etcMsb (4 * col + row)) 1
  have hlsb := field_lt b (etcMsb (4 * col + row) + 16) 1
  rw [etcIdx_eq]
  omega

/-- A block has two sub-blocks, side by side or one above the other (R542). -/
theorem etcSub_lt (b : QWord) {row col : Nat} (hrow : row < 4) (hcol : col < 4) : etcSub b row col < 2 := by
  unfold etcSub
  split <;> omega

/-- The table index of sub-block 0 is at bit 29, that of sub-block 1 at bit 26 (R541). -/
theorem etcTable_eq (b : QWord) {sub : Nat} (h : sub < 2) : etcTable b sub = field b (29 - 3 * sub) 3 := by
  obtain rfl | rfl : sub = 0 ∨ sub = 1 := by omega
  · rfl
  · rfl

theorem etcModifier_eq (b : QWord) {row col : Nat} (hrow : row < 4) (hcol : col < 4) :
    etcModifier false (etcIdx b row col) (etcTable b (etcSub b row col)) =
      (lumColumns.getD (field b (29 - 3 * etcSub b row col) 3) []).getD
        (2 * field b (etcMsb (4 * col + row)) 1 + field b (etcMsb (4 * col + row) + 16) 1) 0 := by
  rw [← etcIdx_eq, etcTable_eq b (etcSub_lt b hrow hcol)]
  exact intCell_lumTable _ (etcIdx_lt b row col) _ (field_lt b _ 3)

/-- Individual mode: four bits a channel, those of sub-block 0 the upper ones of their byte (R543). -/
theorem etcBaseIndividual_eq (b : QWord) {sub : Nat} (h : sub < 2) :
    etcBaseIndividual b sub =
      ⟨17 * field b (4 - 4 * sub) 4, 17 * field b (12 - 4 * sub) 4, 17 * field b (20 - 4 * sub) 4⟩ := by
  simp only [← ext4_eq]
  obtain rfl | rfl : sub = 0 ∨ sub = 1 := by omega
  · rfl
  · rfl

/-- The 5-bit base of a channel, to which sub-block 1 adds a signed delta (R543). -/
def etcBase5 (b : QWord) (sub lo : Nat) : Int :=
  (field b (lo + 3) 5 : Int) +
    (if sub = 0 then 0 else if field b lo 3 < 2 ^ 2 then (field b lo 3 : Int) else (field b lo 3 : Int) - 2 ^ 3)

theorem etcBase5_zero (b : QWord) (lo : Nat) : (etcBase5 b 0 lo).toNat = field b (lo + 3) 5 := by
  simp [etcBase5]

theorem etcBase5_one (b : QWord) (lo : Nat) : etcBase5 b 1 lo = etcSum b lo := by
  rw [etcSum, signExtendNat_of_lt (field_lt b lo 3)]
  rfl

theorem etcBaseDifferential_eq (b : QWord) {sub : Nat} (h : sub < 2) :
    etcBaseDifferential b sub =
      Rgb.map (fun x => 8 * x + x / 4) ⟨(etcBase5 b sub 0).toNat, (etcBase5 b sub 8).toNat, (etcBase5 b sub 16).toNat⟩ := by
  rw [etcBaseDifferential, funext ext5_eq]
  obtain rfl | rfl : sub = 0 ∨ sub = 1 := by omega
  · simp only [etcBase5_zero, if_pos]
  · simp only [etcBase5_one, if_neg one_ne_zero]

/-- While each sum is in range, a differential block has no open texel (R543). -/
theorem exec_etc1Differential_inRange {b : QWord} (h : ∀ c, c < 3 → etcInRange b (8 * c) = true) (f : FormatFlags) (s : State) :
    exec (.etc1Differential b f) s = .next (latchBlock (etc2Block .differential f.srgb b) s) := by
  have hblock : etcDifferential f.srgb b s = etc2Block .differential f.srgb b :=
    if_pos (by simp [h 0 (by omega), h 1 (by omega), h 2 (by omega)])
  rw [← hblock]
  rfl

/-- A texel of a base colour with a modifier added, in a format without sRGB (R544, D19). -/
def litTexel (base : Rgb) (lum : Int) : Texel :=
  let lit (x : Nat) : Chan := .unorm (clampInt 0 255 (x + lum)).toNat 255
  ⟨lit base.r, lit base.g, lit base.b, .unorm 255 255⟩

theorem rgbaTexel_etcBlockColour (base : Nat → Rgb) (b : QWord) {row col : Nat} (hrow : row < 4) (hcol : col < 4) :
    rgbaTexel false (etcBlockColour base false b row col).opaque =
      litTexel (base (etcSub b row col))
        ((lumColumns.getD (field b (29 - 3 * etcSub b row col) 3) []).getD
          (2 * field b (etcMsb (4 * col + row)) 1 + field b (etcMsb (4 * col + row) + 16) 1) 0) := by
  rw [← etcModifier_eq b hrow hcol]
  rfl

/-! ### EAC (R552-R554) -/

/-- The first four modifiers of each table of R553; the other four are their complements. -/
def eacColumns : List (List Int) :=
  [[-3, -6, -9, -15], [-3, -7, -10, -13], [-2, -5, -8, -13], [-2, -4, -6, -13], [-3, -6, -8, -12],
    [-3, -7, -9, -11], [-4, -7, -8, -11], [-3, -5, -8, -11], [-2, -6, -8, -10], [-2, -5, -8, -10], [-2, -4, -8, -10],
    [-2, -5, -7, -10], [-3, -4, -7, -10], [-1, -2, -3, -10], [-4, -6, -8, -9], [-3, -5, -7, -9]]

/-- A modifier of R553 from the first half of its table. -/
def eacModifier (table index : Nat) : Int :=
  let cell (k : Nat) : Int := (eacColumns.getD table []).getD k 0
  if index < 4 then cell index else -cell (index - 4) - 1

theorem intCell_imTable : ∀ index < 8, ∀ table < 16, intCell imTable index table = eacModifier table index := by decide

theorem eacIm_eq (b : QWord) (row col : Nat) : eacIm b row col = eacModifier (field b 8 4) (eacIdx b row col) :=
  intCell_imTable _ (Nat.mod_lt _ (by decide)) _ (field_lt b 8 4)

/-- A modifier with its multiplier (R554). -/
def eacScaled (multiplier : Nat) (modifier : Int) : Int :=
  if multiplier = 0 then modifier else modifier * multiplier * 8

theorem eacStep_eq (b : QWord) (row col : Nat) :
    eacStep b row col = eacScaled (field b 12 4) (eacModifier (field b 8 4) (eacIdx b row col)) := by
  rw [← eacIm_eq]
  rfl

theorem eacChan_eq (sgn : Bool) (b : QWord) (row col : Nat) :
    eacChan sgn b row col =
      let scaled := eacScaled (field b 12 4) (eacModifier (field b 8 4) (eacIdx b row col))
      let base : Int := if field b 0 8 < 2 ^ 7 then (field b 0 8 : Int) else (field b 0 8 : Int) - 2 ^ 8
      if sgn then .snorm (clampInt (-1023) 1023 (max base (-127) * 8 + scaled)) 1023
      else .unorm (clampInt 0 2047 ((field b 0 8 : Nat) * 8 + 4 + scaled)).toNat 2047 := by
  rw [eacChan, eacSigned, eacUnsigned, eacStep_eq, signExtendNat_of_lt (field_lt b 0 8)]

/-! ### BC4 and BC5 (R600-R602, D23) -/

/-- With unsigned endpoints the eight values interpolated by sevenths need no negative number (R601). -/
theorem interp8_toNat (a0 a1 : Nat) {k : Nat} (hk : k < 8) :
    (interp8 a0 a1 k).toNat = if k = 0 then a0 else if k = 1 then a1 else ((8 - k) * a0 + (k - 1) * a1) / 7 := by
  match k, hk with
  | 0, _ => rfl
  | 1, _ => rfl
  | k + 2, hk =>
    have h8 : (8 : Int) - (k + 2 : Nat) = (8 - (k + 2) : Nat) := by omega
    have h1 : ((k + 2 : Nat) : Int) - 1 = (k + 2 - 1 : Nat) := by omega
    rw [if_neg (by omega), if_neg (by omega), interp8, h8, h1]
    · norm_cast
    · omega
    · omega

/-- The six values interpolated by fifths, with the constants of the unsigned format (R601). -/
theorem interp6_toNat (a0 a1 : Nat) {k : Nat} (hk : k < 8) :
    (interp6 0 255 a0 a1 k).toNat =
      if k = 0 then a0 else if k = 1 then a1 else if k = 6 then 0 else if k = 7 then 255
      else ((6 - k) * a0 + (k - 1) * a1) / 5 := by
  by_cases hmid : 2 ≤ k ∧ k < 6
  · have h6 : (6 : Int) - (k : Nat) = (6 - k : Nat) := by omega
    have h1 : (k : Int) - 1 = (k - 1 : Nat) := by omega
    rw [if_neg (by omega), if_neg (by omega), if_neg (by omega), if_neg (by omega), interp6, h6, h1]
    · norm_cast
    all_goals omega
  · obtain rfl | rfl | rfl | rfl : k = 0 ∨ k = 1 ∨ k = 6 ∨ k = 7 := by omega
    all_goals rfl

/-- The value of a code under two unsigned endpoints: sevenths where they are in order, else fifths and the constants (R601). -/
def bc4Value (a0 a1 k : Nat) : Nat :=
  if k = 0 then a0 else if k = 1 then a1 else if a1 < a0 then ((8 - k) * a0 + (k - 1) * a1) / 7
  else if k = 6 then 0 else if k = 7 then 255 else ((6 - k) * a0 + (k - 1) * a1) / 5

theorem bc4Chan_unsigned (b : QWord) (t : Nat) :
    bc4Chan false b t = .unorm (bc4Value (field b 0 8) (field b 8 8) (field b (16 + 3 * t) 3)) 255 := by
  have hk : bc4Code b t < 8 := field_lt b (16 + 3 * t) 3
  change Chan.unorm (bc4Unsigned b t) 255 = _
  rw [bc4Unsigned, bc4Value, ← bc4Code]
  simp only [Nat.cast_lt]
  by_cases h : field b 8 8 < field b 0 8
  · simp only [if_pos h, interp8_toNat _ _ hk]
  · simp only [if_neg h, interp6_toNat _ _ hk]

/-! ### Blocks of one line with sixteen indices: BC7 mode 6 and BC6H mode 10 (R608, R611, R622, R624) -/

/-- The index of a texel where texel 0 alone is fixed up: its index is of three bits, those of the others of four (R608, R622). -/
theorem packedIndex_single (b : Block) (t : Nat) :
    packedIndex b 65 4 [0] t = if t = 0 then field b 65 3 else field b (64 + 4 * t) 4 := by
  rcases Nat.eq_zero_or_pos t with rfl | ht
  · rfl
  · have hlo : 65 + 4 * t - 1 = 64 + 4 * t := by omega
    simp [packedIndex, ht, hlo, Nat.pos_iff_ne_zero.1 ht]

/-- The weight of a texel of such a block. -/
def singleWeight (b : Block) (t : Nat) : Nat :=
  weights16.getD (if t = 0 then field b 65 3 else field b (64 + 4 * t) 4) 0

theorem singleWeight_le (b : Block) (t : Nat) : singleWeight b t ≤ 64 := by
  have hbound : ∀ w ∈ weights16, w ≤ 64 := by decide
  rw [singleWeight, List.getD_eq_getElem?_getD]
  generalize (if t = 0 then field b 65 3 else field b (64 + 4 * t) 4) = i
  rcases hi : weights16[i]? with _ | w
  · exact Nat.zero_le _
  · exact hbound w (List.mem_of_getElem? hi)

/-! ### BC7 mode 6 (R621-R625) -/

/-- Eight bits replicated to eight are themselves (R623). -/
theorem bc7Replicate_eight {v : Nat} (h : v < 256) : bc7Replicate v 8 = v := by
  unfold bc7Replicate
  omega

/-- A 7-bit field of an endpoint above its P-bit (R623). -/
def bc7Seven (b : Block) (lo p : Nat) : Nat := 2 * field b lo 7 + field b p 1

theorem bc7Expand_mode6 (b : Block) (e lo : Nat) : bc7Expand bc7Mode6 b e (field b lo 7) 7 = bc7Seven b lo (63 + e) := by
  have hv := field_lt b lo 7
  have hp := field_lt b (63 + e) 1
  rw [bc7Seven]
  rw [← bitN_eq_field] at hp ⊢
  exact bc7Replicate_eight (show 2 * field b lo 7 + bitN b (63 + e) < 256 by omega)

/-- The two endpoints: red, green, blue and alpha from bit 7 on, the first endpoint's field before the second's (R621). -/
theorem bc7Endpoint_mode6 (b : Block) :
    bc7Endpoint bc7Mode6 b 0 = ⟨bc7Seven b 7 63, bc7Seven b 21 63, bc7Seven b 35 63, bc7Seven b 49 63⟩ ∧
      bc7Endpoint bc7Mode6 b 1 = ⟨bc7Seven b 14 64, bc7Seven b 28 64, bc7Seven b 42 64, bc7Seven b 56 64⟩ := by
  constructor
  · simp only [← bc7Expand_mode6 b 0]
    rfl
  · simp only [← bc7Expand_mode6 b 1]
    rfl

theorem bc7TexelWeights_mode6 (b : Block) (t : Nat) : bc7TexelWeights bc7Mode6 b t = (singleWeight b t, singleWeight b t) := by
  rw [singleWeight, ← packedIndex_single]
  rfl

/-- A channel of a texel: both endpoints, weighted (R624). -/
def bc7SingleChannel (b : Block) (t lo : Nat) : Nat :=
  ((64 - singleWeight b t) * bc7Seven b lo 63 + singleWeight b t * bc7Seven b (lo + 7) 64 + 32) / 64

theorem bc7Interpolate_mode6 (b : Block) (t lo : Nat) :
    bc7Interpolate (singleWeight b t) (bc7Seven b lo 63) (bc7Seven b (lo + 7) 64) = bc7SingleChannel b t lo := by
  rw [bc7Interpolate, bc7SingleChannel, Nat.mul_comm (bc7Seven b lo 63), Nat.mul_comm (bc7Seven b (lo + 7) 64)]

/-- One line, no rotation, one set of indices (R625). -/
theorem bc7Colour_mode6 (b : Block) (t : Nat) :
    bc7Colour bc7Mode6 b t =
      ⟨bc7SingleChannel b t 7, bc7SingleChannel b t 21, bc7SingleChannel b t 35, bc7SingleChannel b t 49⟩ := by
  obtain ⟨hfirst, hsecond⟩ := bc7Endpoint_mode6 b
  have hline : bc7Line bc7Mode6 b t = 0 := rfl
  have hrotation : field b (bc7RotLo bc7Mode6) bc7Mode6.rotBits = 0 := Nat.lt_one_iff.1 (field_lt b _ 0)
  simp only [bc7Colour, hline, hrotation, hfirst, hsecond, bc7TexelWeights_mode6, ← bc7Interpolate_mode6, bc7Rotate]

/-! ### BC6H_UF16 mode 10 (R607-R612, D24) -/

/-- A 10-bit endpoint unquantised to 16 bits (R610). -/
def bc6hUnquant10 (e : Nat) : Nat := if e = 0 then 0 else if e = 1023 then 0xFFFF else (e * 65536 + 0x8000) / 1024

theorem bc6hUnquant_ten (e : Nat) : bc6hUnquant false 10 e = bc6hUnquant10 e := by
  have hprec : (10 : Nat) ≠ 16 := by decide
  have hlast : 2 ^ 10 - 1 = 1023 := by decide
  have hscale : 2 ^ 10 = 1024 := by decide
  rw [bc6hUnquant, if_neg Bool.false_ne_true, bc6hUnquantUf, Int.toNat_natCast, if_neg hprec, hlast, hscale, bc6hUnquant10]

/-- The bit at which the first endpoint of a channel begins; the second begins 30 bits higher (R607). -/
def bc6hMode10Lo : Channel → Nat
  | .r => 5
  | .g => 15
  | .b => 25

/-- Each endpoint of mode 10 is one field in one piece (R607). -/
theorem bc6hField_mode10 (b : Block) (c : Channel) :
    bc6hField bc6hMode10 b c .w = field b (bc6hMode10Lo c) 10 ∧
      bc6hField bc6hMode10 b c .x = field b (bc6hMode10Lo c + 30) 10 := by
  cases c <;> simp [bc6hField, bc6hMode10, bc6hMode10Lo]

/-- Between unsigned endpoints the interpolation needs no negative number (R611, D24). -/
theorem bc6hInterpolate_unsigned (x y : Nat) {w : Nat} (hw : w ≤ 64) :
    bc6hInterpolate x y w = ((x * (64 - w) + y * w + 32) / 64 : Nat) := by
  rw [bc6hInterpolate, ← Nat.cast_ofNat (n := 64), ← Nat.cast_sub hw]
  norm_cast

theorem bc6hRescale_unsigned (n : Nat) : bc6hRescale false n = BitVec.ofNat 16 (n * 31 / 64) := rfl

/-- A channel of a texel as a half-float pattern (R611). -/
def bc6hSingleChannel (b : Block) (t lo : Nat) : BitVec 16 :=
  BitVec.ofNat 16 ((bc6hUnquant10 (field b lo 10) * (64 - singleWeight b t) +
    bc6hUnquant10 (field b (lo + 30) 10) * singleWeight b t + 32) / 64 * 31 / 64)

/-- Mode 10 stores its endpoints as they are, so that none is open (R606, R609). -/
theorem bc6hChannel_mode10 (b : Block) (t : Nat) (c : Channel) :
    bc6hChannel bc6hMode10 false b t c = some (bc6hSingleChannel b t (bc6hMode10Lo c)) := by
  obtain ⟨hw, hx⟩ := bc6hField_mode10 b c
  have hindex : bc6hIndex bc6hMode10 b t = (0, singleWeight b t) := by
    rw [singleWeight, ← packedIndex_single]
    rfl
  have hfirst : bc6hEndpoint bc6hMode10 false b c .w = some (field b (bc6hMode10Lo c) 10 : Int) := by rw [← hw]; rfl
  have hsecond : bc6hEndpoint bc6hMode10 false b c .x = some (field b (bc6hMode10Lo c + 30) 10 : Int) := by rw [← hx]; rfl
  have hprec : bc6hMode10.prec = 10 := rfl
  simp only [bc6hChannel, hindex, if_pos, hfirst, hsecond, hprec, bc6hUnquant_ten,
    bc6hInterpolate_unsigned _ _ (singleWeight_le b t), bc6hRescale_unsigned, bc6hSingleChannel]

theorem bc6hTexel_mode10 (b : Block) (s : State) (t : Nat) :
    bc6hTexel bc6hMode10 false b s t =
      ⟨.half (bc6hSingleChannel b t 5), .half (bc6hSingleChannel b t 15), .half (bc6hSingleChannel b t 25), alphaOne⟩ := by
  simp only [bc6hTexel, bc6hChannel_mode10, bc6hMode10Lo]

/-! ### FXT1 CC_CHROMA and CC_HI (R560-R562, R570) -/

/-- The texel of an opaque colour, blue, green and red five bits apart (R561, R562). -/
def solidTexel (c : Nat → Nat) : Texel := ⟨.unorm (c 10) 255, .unorm (c 5) 255, .unorm (c 0) 255, .unorm 255 255⟩

theorem rgbaTexel_fxtColour (b : Block) (lo : Nat) :
    rgbaTexel false (fxtColour b lo).opaque = solidTexel fun c => 8 * field b (lo + c) 5 + field b (lo + c) 5 / 4 := by
  simp only [← ext5_eq]
  rfl

/-- A channel some sixths of the way from the first colour of a CC_HI block to the second (R561, R570). -/
def fxtHiMix (b : Block) (sel c : Nat) : Nat :=
  let five (x : Nat) : Nat := 8 * x + x / 4
  ((6 - sel) * five (field b (96 + c) 5) + sel * five (field b (111 + c) 5) + 3) / 6

/-- The seven opaque colours of CC_HI: the formula gives its two ends, which R561 names apart, too. -/
theorem rgbaTexel_fxtHiEntry (b : Block) {sel : Nat} (h7 : sel ≠ 7) :
    rgbaTexel false (fxtHiEntry (fxtColour b 96) (fxtColour b 111) sel) = solidTexel (fxtHiMix b sel) := by
  have hend : ∀ x : Nat, (6 * x + 3) / 6 = x := by omega
  unfold fxtHiEntry fxtHiMix
  simp only [if_neg h7, ← ext5_eq]
  by_cases h6 : sel = 6
  · subst h6
    simp only [if_pos, Nat.sub_self, Nat.zero_mul, Nat.zero_add, hend]
    rfl
  · rw [if_neg h6]
    by_cases h0 : sel = 0
    · subst h0
      simp only [if_pos, Nat.sub_zero, Nat.zero_mul, Nat.add_zero, hend]
      rfl
    · rw [if_neg h0]
      rfl

/-! ### The obligation -/

/-- Settles O45: every block is latched with its footprint, and each format stated has its texels by the formula of its rules. -/
theorem textureBlocksDecode : Obligations.TextureBlocksDecode := by
  unfold Obligations.TextureBlocksDecode
  refine ⟨fun s i hi => ?footprint, fun s q b f row col hrow =>
    ⟨fun hcol => ⟨fun hlinear => ⟨?etc1Individual, fun hrange => ?etc1Differential⟩, ?eacR11,
        fun hunsigned => ⟨?bc4, ?bc5⟩, fun hlinear => ?bc7Mode6, fun hunsigned => ?bc6hMode10⟩,
      fun hcol => ⟨?fxt1CcChroma, ?fxt1CcHi⟩⟩⟩
  case footprint =>
    obtain ⟨t, hexec, hcovers⟩ := exec_textureBlock hi s
    exact ⟨_, hexec, rfl, hcovers.width, hcovers.height, hcovers.texels⟩
  case etc1Individual =>
    refine texel_of_block4x4 hrow hcol rfl ?_
    rw [hlinear]
    refine (rgbaTexel_etcBlockColour _ q hrow hcol).trans ?_
    rw [etcBaseIndividual_eq q (etcSub_lt q hrow hcol)]
    rfl
  case etc1Differential =>
    refine texel_of_block4x4 hrow hcol (exec_etc1Differential_inRange hrange f s) ?_
    rw [hlinear]
    refine (rgbaTexel_etcBlockColour _ q hrow hcol).trans ?_
    rw [etcBaseDifferential_eq q (etcSub_lt q hrow hcol)]
    rfl
  case eacR11 =>
    refine texel_of_block4x4 hrow hcol rfl ?_
    rw [eacChan_eq]
    rfl
  case bc4 =>
    refine texel_of_block4x4 hrow hcol rfl ?_
    rw [hunsigned]
    simp only [bc4Chan_unsigned]
    rfl
  case bc5 =>
    refine texel_of_block4x4 hrow hcol rfl ?_
    rw [hunsigned]
    simp only [bc4Chan_unsigned]
    rfl
  case bc7Mode6 =>
    refine texel_of_block4x4 hrow hcol rfl ?_
    rw [hlinear, bc7Colour_mode6]
    rfl
  case bc6hMode10 =>
    refine texel_of_block4x4 hrow hcol rfl ?_
    rw [hunsigned, bc6hTexel_mode10]
    rfl
  case fxt1CcChroma => exact texel_of_fxtBlock hrow hcol rfl (rgbaTexel_fxtColour b _)
  case fxt1CcHi =>
    refine texel_of_fxtBlock hrow hcol rfl ?_
    by_cases h7 : field b (3 * fxtTexel row col) 3 = 7
    · rw [h7]
      exact (if_pos h7).symm
    · exact (rgbaTexel_fxtHiEntry b h7).trans (if_neg h7).symm

end Sys2Proof.Machine

/-! ## DXT blocks and the undefined modes of BC6H and BC7 (47_bc.md R590-R597, R606, R620; O46, O47, O48) -/

namespace Sys2Proof.Machine

open Sys2Proof

/-! ### Colour tables (R592, D22) -/

/-- A channel of the opaque colour table: the two colours and the thirds between them. -/
def dxtThirds (k x y : Nat) : Nat := if k = 0 then x else if k = 1 then y else if k = 2 then (2 * x + y) / 3 else (x + 2 * y) / 3

/-- A channel of the colour table with one-bit alpha: the two colours, the half, and black. -/
def dxtHalves (k x y : Nat) : Nat := if k = 0 then x else if k = 1 then y else if k = 2 then (x + y) / 2 else 0

theorem dxtFour_eq (c0 c1 : Rgb) {k : Nat} (hk : k < 4) : dxtFour c0 c1 k = (c0.map2 (dxtThirds k) c1).opaque :=
  match k, hk with
  | 0, _ | 1, _ | 2, _ | 3, _ => rfl

/-- The fourth code alone is transparent. -/
theorem dxtThree_eq (c0 c1 : Rgb) {k : Nat} (hk : k < 4) :
    dxtThree c0 c1 k = { (c0.map2 (dxtHalves k) c1).opaque with a := if k = 3 then 0 else 255 } :=
  match k, hk with
  | 0, _ | 1, _ | 2, _ | 3, _ => rfl

/-- Under the opaque table a texel has each channel mixed from the two colour words by its own code (R591). -/
theorem dxtTexel_four (b : QWord) (t : Nat) :
    dxtTexel dxtFour b t = ((dxtColour b 0).map2 (dxtThirds (field b (32 + 2 * t) 2)) (dxtColour b 16)).opaque :=
  dxtFour_eq _ _ (field_lt b _ 2)

theorem dxtTexel_three (b : QWord) (t : Nat) :
    dxtTexel dxtThree b t =
      { ((dxtColour b 0).map2 (dxtHalves (field b (32 + 2 * t) 2)) (dxtColour b 16)).opaque with
        a := if field b (32 + 2 * t) 2 = 3 then 0 else 255 } :=
  dxtThree_eq _ _ (field_lt b _ 2)

/-! ### Alpha of its own (R595-R597) -/

theorem field_lowHalf (w : Block) {lo len : Nat} (h : lo + len ≤ 64) : field (lowHalf w) lo len = field w lo len := by
  rw [lowHalf, field_extractLsb' w h, Nat.zero_add]

theorem dxt3Alpha_lowHalf (w : Block) {t : Nat} (ht : t < 16) : dxt3Alpha (lowHalf w) t = 17 * field w (4 * t) 4 := by
  rw [dxt3Alpha, ext4_eq, field_lowHalf w (by omega)]

/-- DXT4 and DXT5 interpolate alpha as BC4 does its channel (R597). -/
theorem bc4Unsigned_lowHalf (w : Block) {t : Nat} (ht : t < 16) :
    bc4Unsigned (lowHalf w) t = bc4Value (field w 0 8) (field w 8 8) (field w (16 + 3 * t) 3) := by
  obtain ⟨hvalue, -⟩ := Chan.unorm.inj (bc4Chan_unsigned (lowHalf w) t)
  rw [hvalue, field_lowHalf w (by omega), field_lowHalf w (by omega), field_lowHalf w (by omega)]

/-! ### Every texel of a block -/

theorem mem_block4x4 {f : Nat → Nat → Texel} {x : Texel} (hx : x ∈ (block4x4 f).texels) : ∃ row col, f row col = x := by
  obtain ⟨k, -, hk⟩ := List.mem_map.1 hx
  exact ⟨k / 4, k % 4, hk⟩

theorem dxt1Block_four_opaque (b : QWord) : ∀ x ∈ (dxt1Block dxtFour b).texels, x.a = .unorm 255 255 := by
  intro x hx
  obtain ⟨row, col, rfl⟩ := mem_block4x4 hx
  rw [dxtTexel_four]
  rfl

theorem bc6hUndefined_black : ∀ x ∈ bc6hUndefined.texels, x.r = .half 0 ∧ x.g = .half 0 ∧ x.b = .half 0 := by
  intro x hx
  obtain ⟨row, col, rfl⟩ := mem_block4x4 hx
  exact ⟨rfl, rfl, rfl⟩

theorem bc7Undefined_black (s : State) :
    ∀ x ∈ (bc7Undefined false s).texels, x.r = .unorm 0 255 ∧ x.g = .unorm 0 255 ∧ x.b = .unorm 0 255 := by
  intro x hx
  obtain ⟨row, col, rfl⟩ := mem_block4x4 hx
  exact ⟨rfl, rfl, rfl⟩

/-! ### The obligations -/

/-- Settles O46: each table of the model is its formula channel by channel, and alpha is the table's or the block's own. -/
theorem dxt1Palettes : Obligations.Dxt1Palettes := by
  unfold Obligations.Dxt1Palettes
  intro s b w f row col hrow hcol
  have ht : 4 * row + col < 16 := by omega
  refine ⟨?fourColour, ?threeColour, ?explicitAlpha, ?interpolatedAlpha⟩
  case fourColour =>
    refine texel_of_block4x4 hrow hcol rfl ?_
    rw [dxtTexel_four]
    rfl
  case threeColour =>
    refine texel_of_block4x4 hrow hcol rfl ?_
    rw [dxtTexel_three]
    rfl
  case explicitAlpha =>
    refine texel_of_block4x4 hrow hcol rfl ?_
    rw [dxtTexel_four, dxt3Alpha_lowHalf w ht]
    rfl
  case interpolatedAlpha =>
    refine texel_of_block4x4 hrow hcol rfl ?_
    rw [dxtTexel_four, bc4Unsigned_lowHalf w ht]
    rfl

/-- Settles O47: DXT1_RGB latches the block of the opaque table, which has no transparent entry. -/
theorem dxt1RgbIsOpaque : Obligations.Dxt1RgbIsOpaque := by
  unfold Obligations.Dxt1RgbIsOpaque
  intro s b f
  have hexec : exec (.dxt1Rgb b f) s = .next (latchBlock (dxt1Block dxtFour b) s) := rfl
  exact ⟨rfl, _, hexec, dxt1Block_four_opaque b⟩

/-- Settles O48: the four undefined modes of BC6H latch one black block, that of BC7 a black block with open alpha. -/
theorem undefinedBcModesReturnZero : Obligations.UndefinedBcModesReturnZero := by
  unfold Obligations.UndefinedBcModesReturnZero
  intro s b f
  refine ⟨fun i hi => ?bc6h, fun hlinear => ?bc7⟩
  case bc6h =>
    have hexec : exec i s = .next (latchBlock bc6hUndefined s) := by
      simp only [List.mem_cons, List.not_mem_nil, or_false] at hi
      rcases hi with rfl | rfl | rfl | rfl
      all_goals rfl
    exact ⟨_, hexec, (covers_block4x4 _).texels, bc6hUndefined_black⟩
  case bc7 =>
    have hexec : exec (.bc7Undefined b f) s = .next (latchBlock (bc7Undefined false s) s) := by rw [← hlinear]; rfl
    exact ⟨_, hexec, (covers_block4x4 _).texels, bc7Undefined_black s⟩

end Sys2Proof.Machine

/-! ## ASTC error and constant blocks, and the surface formats (48_astc.md R651, R657, R665, R666, R683, R688; O49, O50) -/

namespace Sys2Proof.Machine

open Sys2Proof

/-! ### Blocks of one colour -/

/-- The object completes and latches a block of the format in force whose texels are all `x`. -/
def LatchesColour (s : State) (i : Instr) (x : Texel) : Prop :=
  ∃ t, exec i s = .next t ∧ t.texels.width = s.astcFormat.width ∧ t.texels.height = s.astcFormat.height ∧
    t.texels.texels.length = s.astcFormat.width * s.astcFormat.height ∧ ∀ y ∈ t.texels.texels, y = x

theorem latchesColour_of_exec {s : State} {i : Instr} {x : Texel}
    (hexec : exec i s = .next (latchBlock (astcTexels s.astcFormat fun _ _ => x) s)) : LatchesColour s i x := by
  obtain ⟨hwidth, hheight, hlength⟩ := covers_astcTexels s.astcFormat fun _ _ => x
  refine ⟨_, hexec, hwidth, hheight, hlength, fun y hy => ?_⟩
  obtain ⟨_, -, hk⟩ := List.mem_map.1 hy
  exact hk.symm

/-! ### Which block an index mode selects (R657, R665, R688) -/

/-- Neither a void extent nor a reserved row has an index mode. -/
theorem indexMode_eq_none {w : BitVec 11} (h : astcClass w = .voidExtent ∨ astcClass w = .reservedA ∨ astcClass w = .reservedB) :
    indexMode w = none := by
  unfold indexMode
  rcases h with h | h | h
  all_goals rw [h]

theorem astcBlock_of_voidExtent {b : Block} (h : astcClass (astcModeBits b) = .voidExtent) (f : AstcFormat) (s : State) :
    astcBlock f b s = astcVoidBlock f b s := by
  rw [astcBlock, indexMode_eq_none (.inl h)]
  exact if_pos h

theorem astcBlock_of_reserved {b : Block} (h : astcClass (astcModeBits b) = .reservedA ∨ astcClass (astcModeBits b) = .reservedB)
    (f : AstcFormat) (s : State) : astcBlock f b s = astcErrorBlock f := by
  have hvoid : astcClass (astcModeBits b) ≠ .voidExtent := by rcases h with h | h <;> simp [h]
  rw [astcBlock, indexMode_eq_none (.inr h)]
  exact if_neg hvoid

/-- An HDR void extent is an error outside the Full profile, whatever its extent (R665). -/
theorem astcVoidBlock_hdr {f : AstcFormat} {b : Block} (hprofile : f.profile ≠ .fullFlt16) (hdr : bit b 9 = true) (s : State) :
    astcVoidBlock f b s = astcErrorBlock f := by
  simp [astcVoidBlock, hprofile, hdr]

/-- With the extent all ones the block is its constant colour, if its range is one that the profile has (R665). -/
theorem astcVoidBlock_allOnes {f : AstcFormat} {b : Block} (hrange : f.profile = .fullFlt16 ∨ bit b 9 = false)
    (hones : field b 12 52 = 2 ^ 52 - 1) (s : State) :
    astcVoidBlock f b s = astcTexels f fun _ _ => voidTexel f.profile b := by
  have hlegal : voidExtentLegal b = true := by rw [voidExtentLegal, hones]; rfl
  rcases hrange with hfull | hldr
  · simp [astcVoidBlock, hlegal, hfull]
  · simp [astcVoidBlock, hlegal, hldr]

/-! ### What the objects latch -/

theorem exec_astcReserved {s : State} {b : Block} {i : Instr} (hi : i ∈ [Instr.astcReservedModeA b, .astcReservedModeB b])
    (hwf : i.wf = true) : exec i s = .next (latchBlock (astcErrorBlock s.astcFormat) s) := by
  simp only [List.mem_cons, List.not_mem_nil, or_false] at hi
  rcases hi with rfl | rfl
  · rw [← astcBlock_of_reserved (.inl (eq_of_beq hwf)) s.astcFormat s]
    rfl
  · rw [← astcBlock_of_reserved (.inr (eq_of_beq hwf)) s.astcFormat s]
    rfl

theorem exec_astcVoidExtent2d {s : State} {b : Block} (hwf : (Instr.astcVoidExtent2d b).wf = true) :
    exec (.astcVoidExtent2d b) s = .next (latchBlock (astcVoidBlock s.astcFormat b s) s) := by
  rw [← astcBlock_of_voidExtent (eq_of_beq hwf)]
  rfl

theorem latchesColour_error {s : State} {i : Instr} (hexec : exec i s = .next (latchBlock (astcErrorBlock s.astcFormat) s))
    {p : AstcProfile} (hp : s.astcFormat.profile = p) : LatchesColour s i (astcErrorTexel p) := by
  subst hp
  exact latchesColour_of_exec hexec

theorem latchesColour_hdrVoidExtent {s : State} {b : Block} (hwf : (Instr.astcVoidExtent2d b).wf = true) (hdr : bit b 9 = true)
    {p : AstcProfile} (hp : s.astcFormat.profile = p) (hne : p ≠ .fullFlt16) :
    LatchesColour s (.astcVoidExtent2d b) (astcErrorTexel p) := by
  refine latchesColour_error ?_ hp
  rw [exec_astcVoidExtent2d hwf, astcVoidBlock_hdr (hp ▸ hne) hdr]

theorem latchesColour_voidTexel {s : State} {b : Block} (hwf : (Instr.astcVoidExtent2d b).wf = true) {p : AstcProfile}
    (hp : s.astcFormat.profile = p) (hrange : p = .fullFlt16 ∨ bit b 9 = false) (hones : field b 12 52 = 2 ^ 52 - 1) :
    LatchesColour s (.astcVoidExtent2d b) (voidTexel p b) := by
  subst hp
  refine latchesColour_of_exec ?_
  rw [exec_astcVoidExtent2d hwf, astcVoidBlock_allOnes hrange hones]

/-! ### The constant colour (R666, R683) -/

theorem ofNat_field {n : Nat} (b : BitVec n) (lo len : Nat) : BitVec.ofNat len (field b lo len) = b.extractLsb' lo len := by
  rw [field, BitVec.ofNat_toNat, BitVec.setWidth_eq]

/-- The upper byte of a field of sixteen bits. -/
theorem field_upperByte {n : Nat} (b : BitVec n) (lo : Nat) : field b lo 16 / 256 = field b (lo + 8) 8 := by
  simp only [field_eq, Nat.pow_add, ← Nat.div_div_eq_div_mul]
  omega

theorem voidTexel_hdr {b : Block} (hdr : bit b 9 = true) (p : AstcProfile) :
    voidTexel p b = ⟨.half (b.extractLsb' 64 16), .half (b.extractLsb' 80 16), .half (b.extractLsb' 96 16),
      .half (b.extractLsb' 112 16)⟩ := by
  simp only [voidTexel, hdr, if_true, ofNat_field]

theorem voidTexel_u8srgb {b : Block} (ldr : bit b 9 = false) :
    voidTexel .u8srgb b = ⟨colourChan true (field b 72 8), colourChan true (field b 88 8), colourChan true (field b 104 8),
      .unorm (field b 120 8) 255⟩ := by
  simp [voidTexel, ldr, voidLdrChan, field_upperByte]

/-- Outside the U8sRGB profile an LDR void extent is converted to FP16. -/
theorem voidTexel_flt16 {b : Block} (ldr : bit b 9 = false) {p : AstcProfile} (hp : p = .ldrFlt16 ∨ p = .fullFlt16) :
    voidTexel p b = ⟨.half (unorm16ToHalf (field b 64 16)), .half (unorm16ToHalf (field b 80 16)),
      .half (unorm16ToHalf (field b 96 16)), .half (unorm16ToHalf (field b 112 16))⟩ := by
  rcases hp with rfl | rfl
  · simp [voidTexel, ldr, voidLdrChan]
  · simp [voidTexel, ldr, voidLdrChan]

/-! ### FP16 rounded toward zero (R683) -/

/-- The magnitude of a positive FP16 number, in units of the least subnormal, 2^-24. -/
def halfMagnitude (h : Nat) : Nat := if h < 1024 then h else (1024 + h % 1024) * 2 ^ (h / 1024 - 1)

/-- `h` is the UNORM16 value `c` as FP16: 1.0 for the greatest, else `c / 65536` rounded toward zero, `256 * c` in the units of
`halfMagnitude`. -/
def RoundsToHalf (c : Nat) (h : BitVec 16) : Prop :=
  if c = 65535 then h = 0x3C00
  else halfMagnitude h.toNat ≤ 256 * c ∧ 256 * c < halfMagnitude (h.toNat + 1)

/-- A normal number, with its exponent and its fraction. A fraction of 1024 carries into the exponent. -/
theorem halfMagnitude_normal (e : Nat) {m : Nat} (hm : m ≤ 1024) :
    halfMagnitude ((e + 1) * 1024 + m) = (1024 + m) * 2 ^ e := by
  rw [halfMagnitude, if_neg (by omega)]
  rcases Nat.lt_or_eq_of_le hm with hm | rfl
  · have hfraction : ((e + 1) * 1024 + m) % 1024 = m := by omega
    have hexponent : ((e + 1) * 1024 + m) / 1024 - 1 = e := by omega
    rw [hfraction, hexponent]
  · have hfraction : ((e + 1) * 1024 + 1024) % 1024 = 0 := by omega
    have hexponent : ((e + 1) * 1024 + 1024) / 1024 - 1 = e + 1 := by omega
    rw [hfraction, hexponent, Nat.pow_succ]
    omega

/-- The bits below a leading one, cut to ten, are a fraction. -/
theorem cutFraction_lt {d k : Nat} (hd : d < 2 ^ k) : d * 1024 / 2 ^ k < 1024 := by
  rw [Nat.div_lt_iff_lt_mul (Nat.two_pow_pos k)]
  omega

/-- A number whose leading one is bit `k` has exponent `k - 1`, and its fraction is cut to ten bits. -/
theorem halfMagnitude_bracket {c k : Nat} (hk : 2 ≤ k) (hlo : 2 ^ k ≤ c) (hhi : c - 2 ^ k < 2 ^ k) :
    let h := (k - 1) * 1024 + (c - 2 ^ k) * 1024 / 2 ^ k
    halfMagnitude h ≤ 256 * c ∧ 256 * c < halfMagnitude (h + 1) := by
  intro h
  obtain ⟨e, rfl⟩ := Nat.exists_eq_add_of_le' hk
  obtain ⟨d, rfl⟩ := Nat.exists_eq_add_of_le hlo
  rw [Nat.add_sub_cancel_left] at hhi
  set m := d * 1024 / 2 ^ (e + 2) with hm
  have hh : h = (e + 1) * 1024 + m := by simp only [h, Nat.add_sub_cancel_left, hm]; rfl
  have hlt : m < 1024 := cutFraction_lt hhi
  have hmul : m * 2 ^ (e + 2) ≤ d * 1024 := Nat.div_mul_le_self _ _
  have hsucc : d * 1024 < 2 ^ (e + 2) * (m + 1) := Nat.lt_mul_div_succ _ (Nat.two_pow_pos _)
  rw [Nat.pow_add 2 e 2] at hmul hsucc ⊢
  rw [hh, Nat.add_assoc, halfMagnitude_normal e hlt.le, halfMagnitude_normal e hlt]
  constructor
  · linarith only [hmul]
  · linarith only [hsucc]

/-- The model's conversion is the rounding, below four with a subnormal number and from four on with a normal one. -/
theorem unorm16ToHalf_rounds {c : Nat} (hc : c < 65536) : RoundsToHalf c (unorm16ToHalf c) := by
  rw [RoundsToHalf, unorm16ToHalf]
  split
  · rfl
  · split
    case isTrue hsmall =>
      have hnat : (BitVec.ofNat 16 (256 * c)).toNat = 256 * c := Nat.mod_eq_of_lt (by omega)
      rw [hnat, halfMagnitude, halfMagnitude, if_pos (by omega), if_pos (by omega)]
      omega
    case isFalse hlarge =>
      have hlo : 2 ^ c.log2 ≤ c := Nat.log2_self_le (by omega)
      have hhi : c - 2 ^ c.log2 < 2 ^ c.log2 := by
        have hlog : c < 2 ^ (c.log2 + 1) := Nat.lt_log2_self
        omega
      have hk2 : 2 ≤ c.log2 := (Nat.le_log2 (by omega)).2 (by omega)
      have hk15 : c.log2 < 16 := (Nat.log2_lt (by omega)).2 hc
      have hfraction := cutFraction_lt hhi
      have hbracket := halfMagnitude_bracket hk2 hlo hhi
      dsimp only
      rwa [BitVec.toNat_ofNat, Nat.mod_eq_of_lt (by omega)]

theorem unorm16ToHalf_field_rounds (b : Block) (lo : Nat) : RoundsToHalf (field b lo 16) (unorm16ToHalf (field b lo 16)) :=
  unorm16ToHalf_rounds (field_lt b lo 16)

/-! ### Surface formats (R651) -/

/-- Every surface-format object has a code of the table and sets the format of that code. -/
theorem exec_astcFormat {i : Instr} (hport : i.port = .astcFormat) (s : State) :
    ∃ v : BitVec 16, v.toNat ∈ astcFormatCodes ∧ encode i = leBytes v 2 ∧
      exec i s = .next { s with astcFormat := astcFormatOf v.toNat } := by
  cases i with
  | astcLdr2d4x4U8srgb | astcLdr2d5x4U8srgb | astcLdr2d5x5U8srgb | astcLdr2d6x5U8srgb | astcLdr2d6x6U8srgb
  | astcLdr2d8x5U8srgb | astcLdr2d8x6U8srgb | astcLdr2d10x5U8srgb | astcLdr2d10x6U8srgb | astcLdr2d8x8U8srgb
  | astcLdr2d10x8U8srgb | astcLdr2d10x10U8srgb | astcLdr2d12x10U8srgb | astcLdr2d12x12U8srgb
  | astcLdr2d4x4Flt16 | astcLdr2d5x4Flt16 | astcLdr2d5x5Flt16 | astcLdr2d6x5Flt16 | astcLdr2d6x6Flt16
  | astcLdr2d8x5Flt16 | astcLdr2d8x6Flt16 | astcLdr2d10x5Flt16 | astcLdr2d10x6Flt16 | astcLdr2d8x8Flt16
  | astcLdr2d10x8Flt16 | astcLdr2d10x10Flt16 | astcLdr2d12x10Flt16 | astcLdr2d12x12Flt16
  | astcFull2d4x4Flt16 | astcFull2d5x4Flt16 | astcFull2d5x5Flt16 | astcFull2d6x5Flt16 | astcFull2d6x6Flt16
  | astcFull2d8x5Flt16 | astcFull2d8x6Flt16 | astcFull2d10x5Flt16 | astcFull2d10x6Flt16 | astcFull2d8x8Flt16
  | astcFull2d10x8Flt16 | astcFull2d10x10Flt16 | astcFull2d12x10Flt16 | astcFull2d12x12Flt16 =>
    exact ⟨_, by decide, rfl, rfl⟩
  | _ => nomatch hport

/-- No code of the table has a size field that is reserved. -/
theorem astcFormatOf_footprint : ∀ v ∈ astcFormatCodes,
    (astcFormatOf v).width ∈ [4, 5, 6, 8, 10, 12] ∧ (astcFormatOf v).height ∈ [4, 5, 6, 8, 10, 12] := by decide

/-! ### The obligations -/

/-- Settles O49: a reserved index mode and an HDR void extent out of its profile latch the error block; every other void extent with
the extent all ones latches its constant colour. -/
theorem astcErrorAndConstantBlocks : Obligations.AstcErrorAndConstantBlocks := by
  unfold Obligations.AstcErrorAndConstantBlocks
  intro s b
  refine ⟨fun i hi hwf => ?reserved, fun hwf => ⟨fun hdr => ?hdr, fun ldr hp hones => ?srgb, fun ldr hp hones => ?flt16⟩⟩
  case reserved =>
    have hexec := exec_astcReserved (s := s) hi hwf
    exact ⟨latchesColour_error hexec, latchesColour_error hexec, latchesColour_error hexec⟩
  case hdr =>
    refine ⟨fun hp hones => ?_, fun hp => ?_, fun hp => ?_⟩
    · exact voidTexel_hdr hdr .fullFlt16 ▸ latchesColour_voidTexel hwf hp (.inl rfl) hones
    · exact latchesColour_hdrVoidExtent hwf hdr hp (by decide)
    · exact latchesColour_hdrVoidExtent hwf hdr hp (by decide)
  case srgb =>
    exact voidTexel_u8srgb ldr ▸ latchesColour_voidTexel hwf hp (.inr ldr) hones
  case flt16 =>
    refine ⟨_, _, _, _, unorm16ToHalf_field_rounds b 64, unorm16ToHalf_field_rounds b 80, unorm16ToHalf_field_rounds b 96,
      unorm16ToHalf_field_rounds b 112, ?_⟩
    exact voidTexel_flt16 ldr hp ▸ latchesColour_voidTexel hwf rfl (.inr ldr) hones

/-- Settles O50: each object sets the format of its code, and the codes of the table spell footprints of R651 only. -/
theorem astcFormatsSetFootprintAndProfile : Obligations.AstcFormatsSetFootprintAndProfile := by
  unfold Obligations.AstcFormatsSetFootprintAndProfile
  intro s i hport
  obtain ⟨v, hv, hencode, hexec⟩ := exec_astcFormat hport s
  exact ⟨v, hencode, hexec, astcFormatOf_footprint _ hv⟩

end Sys2Proof.Machine

/-! ## Every step keeps each engine's wait, its events and its stop (60_exceptions.md R810, R820, R825, R832, R833; O7, O9) -/

namespace Sys2Proof.Machine

open Sys2Proof

/-! ### What is kept of one engine -/

/-- What a step keeps of an engine: it is Halted exactly while a request waits (R825), its events are a set (R810), and it stays Hung or
Wedged unless it is reset (R832, R833). -/
structure EngineSound (reset : Bool) (x y : EngineSt) : Prop where
  halt : x.haltOk = true → y.haltOk = true
  events : x.eventsOk → y.eventsOk
  stuck : reset = false → x.stuck = true → y.mode = x.mode

section
variable {b : Bool} {x y z : EngineSt}

theorem stuck_of_mode_eq (h : y.mode = x.mode) : y.stuck = x.stuck := by rw [EngineSt.stuck, EngineSt.stuck, h]

theorem stuck_iff : x.stuck = true ↔ x.mode = .hung ∨ x.mode = .wedged := by
  simp [EngineSt.stuck]

/-- Of an engine that is Hung or Wedged R833 asks nothing. -/
theorem haltOk_of_stuck (h : x.stuck = true) : x.haltOk = true := by
  unfold EngineSt.haltOk
  rcases stuck_iff.1 h with hm | hm <;> cases x.miss <;> simp [hm]

/-- An engine with no request waiting is not Halted. -/
theorem haltOk_of_no_miss (h : x.miss = none) : x.haltOk = true ↔ x.mode ≠ .halted := by
  simp [EngineSt.haltOk, h]

theorem EngineSound.refl (x : EngineSt) : EngineSound b x x := ⟨id, id, fun _ _ => rfl⟩

theorem EngineSound.trans (h : EngineSound b x y) (g : EngineSound b y z) : EngineSound b x z where
  halt := g.halt ∘ h.halt
  events := g.events ∘ h.events
  stuck := fun hb hs => by
    have hy := h.stuck hb hs
    exact (g.stuck hb ((stuck_of_mode_eq hy).trans hs)).trans hy

/-- Serving a request keeps it. -/
theorem EngineSound.of_kept (k : EngineKept x y) : EngineSound b x y := ⟨k.halt, k.events, fun _ => k.stuck⟩

/-- A change of anything else keeps it. -/
theorem EngineSound.of_same (hmiss : y.miss = x.miss) (hmode : y.mode = x.mode) (hevents : y.events = x.events) :
    EngineSound b x y where
  halt := fun h => by rw [EngineSt.haltOk, hmiss, hmode]; exact h
  events := fun h => by rw [EngineSt.eventsOk, hevents]; exact h
  stuck := fun _ _ => hmode

/-- A change of the mode alone, from one in which no request waits and no reset is needed. -/
theorem EngineSound.of_mode (hmiss : y.miss = none) (hmode : y.mode ≠ .halted) (hevents : y.events = x.events)
    (hstuck : x.stuck = true → y.mode = x.mode) : EngineSound b x y where
  halt := fun _ => (haltOk_of_no_miss hmiss).2 hmode
  events := fun h => by rw [EngineSt.eventsOk, hevents]; exact h
  stuck := fun _ => hstuck

/-- What ends Hung or Wedged needs to keep no more than its events and its stop on the way. -/
theorem EngineSound.of_stuck (hmode : y.mode = x.mode) (hevents : y.events = x.events) (h : EngineSound b y z)
    (hz : z.stuck = true) : EngineSound b x z where
  halt := fun _ => haltOk_of_stuck hz
  events := fun hx => h.events (by rw [EngineSt.eventsOk, hevents]; exact hx)
  stuck := fun hb hs => (h.stuck hb ((stuck_of_mode_eq hmode).trans hs)).trans hmode

end

/-! ### What is kept of every engine -/

/-- What a step keeps of every engine, where `r` names those that it resets. -/
structure Sound (r : Engine → Bool) (s t : State) : Prop where
  engine : ∀ e, EngineSound (r e) (engineOf s e) (engineOf t e)

section
variable {r : Engine → Bool} {s t u : State}

theorem Sound.trans (h : Sound r s t) (g : Sound r t u) : Sound r s u :=
  ⟨fun e => (h.engine e).trans (g.engine e)⟩

/-- Serving a request keeps every engine's wait, events and stop. -/
theorem Sound.of_kept (k : Kept s t) : Sound r s t := ⟨fun e => .of_kept (k.engines e)⟩

/-- What leaves the engines alone keeps all of this. -/
theorem Sound.of_engines (h : t.engines = s.engines := by rfl) : Sound r s t :=
  ⟨fun e => engineOf_congr h e ▸ .refl _⟩

theorem Sound.refl (s : State) : Sound r s s := .of_engines

theorem Sound.foldl {α : Type} {f : State → α → State} (hf : ∀ s a, Sound r s (f s a)) (l : List α) (s : State) :
    Sound r s (l.foldl f s) := by
  induction l generalizing s with
  | nil => exact .refl s
  | cons a l ih => exact (hf s a).trans (ih _)

/-- A change of one engine. -/
theorem Sound.of_one {e : Engine} {x : EngineSt} (ht : ∀ e', engineOf t e' = if e' = e then x else engineOf s e')
    (h : EngineSound (r e) (engineOf s e) x) : Sound r s t := by
  refine ⟨fun e' => ?_⟩
  rw [ht]
  split
  · rename_i he
    rw [he]
    exact h
  · exact .refl _

theorem sound_setEngine {e : Engine} {x : EngineSt} (h : EngineSound (r e) (engineOf s e) x) : Sound r s (setEngine s e x) :=
  .of_one (engineOf_setEngine s e · x) h

theorem sound_updEngine {e : Engine} {f : EngineSt → EngineSt} (h : EngineSound (r e) (engineOf s e) (f (engineOf s e))) :
    Sound r s (updEngine s e f) := sound_setEngine h

/-- A change of one engine that leaves its wait, its mode and its events alone. -/
theorem sound_updEngine_same (s : State) (e : Engine) {f : EngineSt → EngineSt}
    (hf : ∀ x, (f x).miss = x.miss ∧ (f x).mode = x.mode ∧ (f x).events = x.events := by exact fun _ => ⟨rfl, rfl, rfl⟩) :
    Sound r s (updEngine s e f) := by
  obtain ⟨hmiss, hmode, hevents⟩ := hf (engineOf s e)
  exact sound_updEngine (.of_same hmiss hmode hevents)

end

section
variable {r : Engine → Bool}

/-! ### Contexts and their handshake (R833, R836, R842, R850) -/

/-- A context that leaves an engine of which no fault waits makes it Idle, unless it is Hung or Wedged (R833). -/
theorem sound_closeContext {s : State} {e : Engine} (hmiss : (engineOf s e).miss = none) : Sound r s (closeContext s e) := by
  refine .of_one (engineOf_closeContext s e) (.of_mode hmiss ?_ rfl fun hs => if_neg ?_)
  · dsimp only
    split
    · decide
    · rename_i hm
      exact fun h => hm (.inr h)
  · rcases stuck_iff.1 hs with h | h <;> simp [h]

theorem sound_keepAvailable (s : State) (e : Engine) : Sound r s (keepAvailable s e) :=
  sound_updEngine_same s e

theorem sound_dropRetained (s : State) (e : Engine) : Sound r s (dropRetained s e) :=
  sound_updEngine_same s e

/-- Presenting the requests that wait again is none of this. -/
theorem sound_resumeStalled (s : State) (e : Engine) (l : List Request) : Sound r s (resumeStalled s e l) :=
  .of_one (engineOf_resumeStalled s e · l) (.of_same rfl rfl rfl)

theorem sound_broadcastInvalidation (s : State) : Sound r s (broadcastInvalidation s) := by
  rw [broadcastInvalidation_eq]
  exact .of_engines

/-- Of a context that may be switched out no fault waits (R825). -/
theorem miss_of_not_cannotSwitch {x : EngineSt} (h : cannotSwitch x = false) : x.miss = none := by
  simp only [cannotSwitch, Bool.or_eq_false_iff, Option.isSome_eq_false_iff, Option.isNone_iff_eq_none] at h
  exact h.1

theorem sound_contextAvailable (s : State) (e : Engine) : Sound r s (contextAvailable s e) := by
  unfold contextAvailable
  split
  · exact sound_keepAvailable s e
  · rename_i hfree
    split
    · exact (sound_keepAvailable s e).trans (sound_resumeStalled _ e [])
    · have hmiss : (engineOf s e).miss = none := miss_of_not_cannotSwitch (by simp_all)
      exact (sound_closeContext hmiss).trans ((sound_dropRetained _ e).trans
        ((sound_updEngine_same _ e).trans
          ((Sound.of_kept (kept_inputs _ _)).trans (sound_broadcastInvalidation _))))

theorem sound_fillCaches (s : State) (e : Engine) : Sound r s (fillCaches s e) := by
  have hfill : ∀ c, Sound r s (updEngine (countPasid s (pasidOf (engineOf s e)) 1) e fun x => { x with pasidCache := c }) :=
    fun c => Sound.trans (t := countPasid s (pasidOf (engineOf s e)) 1) .of_engines
      (sound_updEngine_same _ e)
  unfold fillCaches
  dsimp only
  split
  · split
    · split
      · exact hfill _
      · exact (hfill _).trans .of_engines
    · exact hfill _
  · exact sound_updEngine_same s e

theorem sound_raiseEvent (s : State) (e : Engine) (v : Event) : Sound r s (raiseEvent s e v) := .of_kept (kept_raiseEvent s e v)

theorem sound_restoreContext (s : State) (e : Engine) (lrca : BitVec 20) : Sound r s (restoreContext s e lrca) := .of_engines

/-- An engine that has latched its five descriptor registers as its context (R850). -/
def latchedEngine (x : EngineSt) : EngineSt :=
  { x with ctx := some x.regs, phase := .launched, msgToGam := x.msgToGam &&& 0xFFFFFFFD, msgToCs := x.msgToCs ||| 2 }

/-- The machine once GAM has latched the five registers of an engine; Valid = 0 is the descriptor error (R850, R852). -/
def latched (s : State) (e : Engine) : State :=
  if bit (engineOf s e).regs.desc 0 then setEngine s e (latchedEngine (engineOf s e))
  else raiseEvent (setEngine s e (latchedEngine (engineOf s e))) e .descriptorError

/-- Context Launched in its place latches the registers, fills the caches, restores the context's part of the registers and answers
(R850). -/
theorem contextLaunched_ready {s : State} {e : Engine} (h : (engineOf s e).phase = .ready) :
    contextLaunched s e = pushInput (restoreContext (fillCaches (latched s e) e) e (lrcaOf (engineOf s e).regs.desc))
      (.message (confirmedMessage e)) := if_pos h

theorem sound_latched (s : State) (e : Engine) : Sound r s (latched s e) := by
  have hset : Sound r s (setEngine s e (latchedEngine (engineOf s e))) := sound_setEngine (.of_same rfl rfl rfl)
  unfold latched
  split
  · exact hset
  · exact hset.trans (sound_raiseEvent _ e _)

theorem sound_contextLaunched (s : State) (e : Engine) : Sound r s (contextLaunched s e) := by
  by_cases h : (engineOf s e).phase = .ready
  · rw [contextLaunched_ready h]
    exact (sound_latched s e).trans ((sound_fillCaches _ e).trans ((sound_restoreContext _ e _).trans (.of_kept (kept_inputs _ _))))
  · rw [contextLaunched_out_of_place h]
    exact .refl s

theorem sound_gamMessage (e : Engine) (w : Word) (s : State) : Sound r s (gamMessage e w s) := by
  have havailable : Sound r s (if messageBit w 0 then contextAvailable s e else s) := by
    split
    · exact sound_contextAvailable s e
    · exact .refl s
  unfold gamMessage
  dsimp only
  split
  · exact havailable.trans (sound_contextLaunched _ e)
  · exact havailable

/-- An Idle engine, of which no request waits, is Running once its context is confirmed (R833). -/
theorem engineSound_confirmed {b : Bool} (x : EngineSt) :
    EngineSound b x { x with phase := .quiet, mode := if x.mode = .idle then .running else x.mode } where
  halt := fun h => by
    unfold EngineSt.haltOk at h ⊢
    cases hm : x.mode <;> cases hx : x.miss <;> simp_all
  events := id
  stuck := fun _ hs => if_neg (by rcases stuck_iff.1 hs with h | h <;> simp [h])

theorem sound_contextConfirmed (s : State) (e : Engine) : Sound r s (contextConfirmed s e) := by
  have hmessage : Sound r s (setEngine s e { engineOf s e with msgToCs := (engineOf s e).msgToCs &&& 0xFFFFFFFD }) :=
    sound_setEngine (.of_same rfl rfl rfl)
  unfold contextConfirmed
  dsimp only
  split
  · exact hmessage.trans ((sound_updEngine (engineSound_confirmed _)).trans
      ((sound_dropRetained _ e).trans (sound_resumeStalled _ e [])))
  · exact hmessage

theorem sound_csMessage (e : Engine) (w : Word) (s : State) : Sound r s (csMessage e w s) := by
  have hready : Sound r s (if messageBit w 0 then contextReceiveReady s e else s) := by
    split
    · exact sound_updEngine_same s e
    · exact .refl s
  unfold csMessage
  dsimp only
  split
  · exact hready.trans (sound_contextConfirmed _ e)
  · exact hready

theorem sound_notifyOut (s : State) (e : Engine) (c : Word) : Sound r s (notifyOut s e c) := by
  unfold notifyOut
  split <;> exact .of_engines

theorem sound_switchOut (s : State) (e : Engine) : Sound r s (switchOut s e) := by
  unfold switchOut
  dsimp only
  split
  · exact .refl s
  · rename_i hheld
    have hmiss : (engineOf s e).miss = none := by simp_all [heldBack]
    split
    · exact .refl s
    · split
      · exact sound_closeContext hmiss
      · exact (sound_closeContext hmiss).trans (sound_notifyOut _ e _)

theorem sound_queueLast (s : State) (f : PageFault) : Sound r s (queueLast s f) := by
  unfold queueLast
  split <;> exact .of_engines

theorem sound_terminate (s : State) (c : Word) : Sound r s (terminate s c) := by
  unfold terminate
  split
  · dsimp only
    have hbad : ∀ e, Sound r s (updEngine s e fun x => { x with contextBad := true }) :=
      fun e => sound_updEngine_same s e
    split
    · exact (hbad _).trans ((sound_queueLast _ _).trans (sound_updEngine_same _ _))
    · exact (hbad _).trans (sound_switchOut _ _)
  · split <;> exact .of_engines

/-! ### Page responses (R825, R832, R841) -/

/-- A mode that sticks: Hung or Wedged from here on (R832). -/
theorem sound_wedge (s : State) (e : Engine) (c : ResponseCode) : Sound r s (wedge s e c) :=
  sound_updEngine (.of_kept (engineKept_stick _ _ (.inr rfl)))

theorem sound_failRequest (s : State) (prg : Nat) (c : ResponseCode) : Sound r s (failRequest s prg c) := by
  unfold failRequest
  split
  · split
    · exact Sound.trans (t := setRf s) .of_engines
        (.foldl (fun u e => sound_updEngine (.of_kept (engineKept_stick _ _ (.inr rfl)))) _ _)
    · exact .of_engines
  · exact .refl s

theorem sound_dropAnswered (s : State) (prg : Nat) : Sound r s (dropAnswered s prg) :=
  .foldl (fun u e => sound_updEngine_same u e) _ s

theorem sound_detachedResponse (s : State) (prg : Nat) (c : ResponseCode) : Sound r s (detachedResponse s prg c) :=
  (sound_failRequest s prg c).trans ((sound_dropAnswered _ prg).trans .of_engines)

theorem sound_dropScopeEverywhere (s : State) (m : ScopeMark) : Sound r s (dropScopeEverywhere s m) :=
  .foldl (fun u e => sound_updEngine_same u e) _ s

theorem sound_failWaiting (s : State) (e : Engine) (w : Waiting) (c : ResponseCode) : Sound r s (failWaiting s e w c) :=
  (sound_wedge s e c).trans (.of_kept (kept_invalidAccess _ w.req _))

theorem sound_failStream (s : State) (e : Engine) (w : Waiting) (c : ResponseCode) : Sound r s (failStream s e w c) := by
  unfold failStream
  split
  · exact sound_failWaiting s e w c
  · exact sound_wedge s e c

/-- The mode that sticks is Hung or Wedged. -/
theorem stick_wedged_stuck (x : EngineSt) : ({ x with mode := x.mode.stick .wedged } : EngineSt).stuck = true := by
  cases hm : x.mode <;> simp [EngineSt.stuck, EngineMode.stick]

/-- A wait that fails leaves its engine Hung or Wedged (R832). -/
theorem stuck_failWaiting (s : State) (e : Engine) (w : Waiting) (c : ResponseCode) :
    (engineOf (failWaiting s e w c) e).stuck = true := by
  have hwedge : (engineOf (wedge s e c) e).stuck = true := by
    rw [engineOf_wedge, if_pos rfl]
    exact stick_wedged_stuck (engineOf s e)
  have hmode := ((kept_invalidAccess (wedge s e c) w.req w.fault.code).engines e).stuck hwedge
  exact (stuck_of_mode_eq hmode).trans hwedge

/-- The request at the top of a miss queue is the only one that may match a response there. -/
theorem topMatches_cases (s : State) (prg : Nat) (e : Engine) :
    (topMatches s prg e = [] ∧ ((engineOf s e).miss.any fun w => w.prg == prg) = false) ∨ ∃ w, topMatches s prg e = [w] := by
  unfold topMatches
  cases (engineOf s e).miss with
  | none => exact .inl ⟨rfl, rfl⟩
  | some w =>
    by_cases hw : (w.prg == prg) = true
    · exact .inr ⟨w, by simp [hw]⟩
    · have hw : (w.prg == prg) = false := by simpa using hw
      exact .inl ⟨by simp [hw], by simp [hw]⟩

/-- An end of waits that is no end of the Halted one's leaves the mode and the miss queue as they are. -/
theorem engineSound_clearWaits_other {b : Bool} {x : EngineSt} {prg : Nat} (success : Bool)
    (h : (x.miss.any fun w => w.prg == prg) = false) : EngineSound b x (clearWaits prg success x) := by
  refine .of_same ?_ ?_ rfl <;> simp [clearWaits, h]

/-- A repair sets a Halted engine Running as its wait ends (R825, R833). -/
theorem engineSound_clearWaits_success {b : Bool} (x : EngineSt) (prg : Nat) : EngineSound b x (clearWaits prg true x) := by
  by_cases hmine : (x.miss.any fun w => w.prg == prg) = true
  · refine .of_mode ?_ ?_ rfl fun hs => ?_
    · simp [clearWaits, hmine]
    · simp only [clearWaits, hmine, Bool.true_and]
      split
      · decide
      · rename_i hm
        simpa using hm
    · rcases stuck_iff.1 hs with h | h <;> simp [clearWaits, h]
  · exact engineSound_clearWaits_other true (by simpa using hmine)

/-- Without a repair a wait that ends at the top of the miss queue leaves its engine Hung or Wedged, any other leaves the mode (R832). -/
theorem sound_endWaits_failure {s : State} {e : Engine} {prg : Nat} {c : ResponseCode} (hc : c ≠ .success) :
    Sound r s (endWaits s e prg c) := by
  obtain ⟨u, hu⟩ : ∃ u, u = (outstandingMatches s prg e).foldl (fun s w => failStream s e w c)
    (detachedResponse (updEngine s e (clearWaits prg false)) prg c) := ⟨_, rfl⟩
  have hend : endWaits s e prg c =
      resumeStalled ((topMatches s prg e).foldl (fun s w => failWaiting s e w c) u) e [] := by
    rw [hu]
    cases c with
    | success => exact absurd rfl hc
    | _ => rfl
  have hbefore : Sound r (updEngine s e (clearWaits prg false)) u := by
    rw [hu]
    exact (sound_detachedResponse _ prg c).trans (.foldl (fun u w => sound_failStream u e w c) _ _)
  rw [hend]
  rcases topMatches_cases s prg e with ⟨htop, hother⟩ | ⟨w, htop⟩
  · rw [htop]
    exact (sound_updEngine (engineSound_clearWaits_other false hother)).trans (hbefore.trans (sound_resumeStalled u e []))
  · rw [htop, List.foldl_cons, List.foldl_nil]
    have hafter : Sound r (updEngine s e (clearWaits prg false)) (resumeStalled (failWaiting u e w c) e []) :=
      hbefore.trans ((sound_failWaiting u e w c).trans (sound_resumeStalled _ e []))
    refine ⟨fun e' => ?_⟩
    by_cases he : e' = e
    · subst he
      have hcleared := hafter.engine e'
      rw [engineOf_updEngine_same] at hcleared
      refine .of_stuck (y := clearWaits prg false (engineOf s e')) (by simp [clearWaits]) rfl hcleared ?_
      · rw [engineOf_resumeStalled, if_pos rfl]
        exact stuck_failWaiting u e' w c
    · have hother := hafter.engine e'
      rwa [engineOf_updEngine_other s _ he] at hother

theorem sound_endWaits (s : State) (e : Engine) (prg : Nat) (c : ResponseCode) : Sound r s (endWaits s e prg c) := by
  by_cases hc : c = .success
  · subst hc
    exact (sound_updEngine (engineSound_clearWaits_success _ prg)).trans ((sound_detachedResponse _ prg .success).trans
      ((Sound.foldl (fun u w => sound_dropScopeEverywhere u _) _ _).trans (sound_resumeStalled _ e _)))
  · exact sound_endWaits_failure hc

theorem sound_lastResponse (s : State) (e : Engine) (c : Word) : Sound r s (lastResponse s e c) := by
  unfold lastResponse
  split <;> exact .of_engines

theorem sound_pageResponse (s : State) (prg : Nat) (c : ResponseCode) : Sound r s (pageResponse s prg c) := by
  unfold pageResponse
  split
  · exact sound_endWaits s _ prg c
  · split
    · exact sound_detachedResponse s prg c
    · split
      · exact (sound_failRequest s prg c).trans ((sound_dropAnswered _ prg).trans (sound_lastResponse _ _ _))
      · exact .of_engines

/-! ### Invalidations -/

theorem sound_invalidateScope (s : State) (p : BitVec 20) (g : Option (BitVec 36)) (c : CacheStage) :
    Sound r s (invalidateScope s p g c) :=
  (sound_dropScopeEverywhere s _).trans (sound_broadcastInvalidation _)

theorem sound_dropAllRetained (s : State) : Sound r s (dropAllRetained s) := .foldl sound_dropRetained allEngines s

theorem sound_refillPasidCaches (l : List Engine) (s : State) : Sound r s (l.foldl refillPasidCache s) :=
  .foldl (fun u e => sound_updEngine_same u e) l s

theorem sound_invalidateAll (s : State) : Sound r s (invalidateAll s) :=
  Sound.trans (t := { s with contextCache := [] }) .of_engines ((sound_dropAllRetained _).trans
    ((sound_refillPasidCaches allEngines _).trans (sound_broadcastInvalidation _)))

theorem sound_invalidatePasid (s : State) (p : BitVec 20) : Sound r s (invalidatePasid s p) :=
  Sound.trans (t := { s with contextCache := s.contextCache.filter fun c => c.pasid != p }) .of_engines
    ((sound_invalidateScope _ p none .all).trans (sound_refillPasidCaches _ _))

/-! ### Resets (R870-R873) -/

/-- The machine at an engine reset once the requests of the engine are discarded and its context's PASID is counted out (R871, R35). -/
def afterDiscard (s : State) (e : Engine) : State :=
  if runsAdvanced (engineOf s e) then countPasid (settle (inFlight s e) s) (pasidOf (engineOf s e)) (-1)
  else settle (inFlight s e) s

/-- Beside the counter it is what the discarded requests leave. -/
theorem afterDiscard_eq (s : State) (e : Engine) :
    afterDiscard s e = { settle (inFlight s e) s with pasidCounts := (afterDiscard s e).pasidCounts } := by
  unfold afterDiscard
  split <;> rfl

theorem engineOf_afterDiscard (s : State) (e e' : Engine) :
    engineOf (afterDiscard s e) e' = engineOf (settle (inFlight s e) s) e' := by
  rw [afterDiscard_eq]
  exact engineOf_congr rfl e'

/-- An engine reset leaves the other engines as the requests that it discards do (R871). -/
theorem engineOf_engineReset_other (s : State) {e e' : Engine} (he : e' ≠ e) :
    engineOf (engineReset s e) e' = engineOf (settle (inFlight s e) s) e' :=
  (engineOf_setEngine_other (afterDiscard s e) _ he).trans (engineOf_afterDiscard s e e')

/-- Of its own engine it leaves the caches and the events, and nothing that waits; the registers are open (R871, R833, R85). -/
theorem engineOf_engineReset_same (s : State) (e : Engine) :
    ∃ regs gam cs, engineOf (engineReset s e) e = { engineOf (settle (inFlight s e) s) e with
      regs := regs, ctx := none, phase := .quiet, mode := .idle, msgToGam := gam, msgToCs := cs, miss := none
      outstanding := [], stalled := [], behind := [], contextBad := false, availPending := false, leaving := false
      mmioRequests := [], resetting := (settle (inFlight s e) s).flrPending } := by
  refine ⟨freeDescRegs (afterDiscard s e), freeWordAt (afterDiscard s e) 5, freeWordAt (afterDiscard s e) 6, ?_⟩
  have hpending : (afterDiscard s e).flrPending = (settle (inFlight s e) s).flrPending := by rw [afterDiscard_eq]
  rw [← engineOf_afterDiscard, ← hpending]
  exact engineOf_setEngine_same (afterDiscard s e) e _

/-- An engine reset leaves the engine Idle with nothing waiting and the events that it had; of the others it discards nothing (R871). -/
theorem sound_engineReset (s : State) {e : Engine} (he : r e = true) : Sound r s (engineReset s e) := by
  obtain ⟨hsettle⟩ := Sound.of_kept (r := r) (kept_settle (inFlight s e) s)
  refine ⟨fun e' => ?_⟩
  by_cases h : e' = e
  · subst h
    obtain ⟨regs, gam, cs, hreset⟩ := engineOf_engineReset_same s e'
    refine (hsettle e').trans ?_
    rw [hreset]
    exact { halt := fun _ => rfl, events := id, stuck := fun hno => by rw [he] at hno; cases hno }
  · rw [engineOf_engineReset_other s h]
    exact hsettle e'

theorem sound_clearEvents (s : State) (e : Engine) : Sound r s (clearEvents s e) :=
  sound_updEngine
    { halt := id
      events := fun _ => List.nodup_nil
      stuck := fun _ _ => rfl }

/-- A device reset resets every engine (R872). -/
theorem sound_flr (s : State) (hr : ∀ e, r e = true) : Sound r s (flr s) :=
  Sound.trans (t := { s with flrPending := false }) .of_engines
    ((Sound.foldl (fun u e => sound_engineReset u (hr e)) allEngines _).trans
      ((sound_dropAllRetained _).trans ((Sound.foldl sound_clearEvents allEngines _).trans .of_engines)))

theorem busReset_engines (s : State) : (busReset s).engines = (flr s).engines := by
  simp only [busReset, advanceDraws_engines]

theorem sound_requestFlr (s : State) (hr : ∀ e, r e = true) : Sound r s (requestFlr s) := by
  by_cases hheld : ∃ e, (engineOf s e).mmioRequests ≠ []
  · obtain ⟨hengines, -⟩ := requestFlr_held hheld
    exact ⟨fun e => hengines e ▸ .of_same rfl rfl rfl⟩
  · rw [requestFlr_free (by simpa using hheld)]
    exact sound_flr s hr

theorem sound_requestReset (s : State) {e : Engine} (he : r e = true) : Sound r s (requestReset s e) := by
  unfold requestReset
  split
  · exact sound_engineReset s he
  · exact sound_updEngine_same s e

theorem sound_holdPageRequest (s : State) (prg : Nat) : Sound r s (holdPageRequest s prg) := by
  unfold holdPageRequest
  split
  · exact sound_updEngine_same s _
  · exact .refl s

/-- A reset that waited is presented again as an input. -/
theorem sound_completeResets (s : State) : Sound r s (completeResets s) := by
  unfold completeResets
  split
  · split <;> exact .of_engines
  · refine .foldl (fun u e => ?_) _ s
    unfold completeReset
    split <;> exact .of_engines

theorem sound_servicePageRequest (s : State) (prg : Nat) : Sound r s (servicePageRequest s prg) :=
  (Sound.foldl (fun u e => sound_updEngine_same u e) allEngines s).trans (sound_completeResets _)

/-! ### Register writes and the HDC port -/

theorem sound_pciWrite {g : PciReg} {w : Word} {s t : State} (h : pciWrite g w s = .ok t) : Sound r s t := by
  cases g with
  | pasidControl =>
    unfold pciWrite at h
    dsimp only at h
    split at h <;> cases h
    exact .of_engines
  | priControl => cases h; exact .of_engines (writePriControl_frame w s).2
  | _ => cases h; exact .of_engines

theorem sound_configWrite {off : BitVec 12} {n : Nat} {w : Word} {s t : State} (h : configWrite off n w s = .ok t) :
    Sound r s t := by
  unfold configWrite at h
  split at h
  · exact sound_pciWrite h
  · obtain ⟨u, hu, h⟩ := bind_ok.1 h
    exact (sound_pciWrite hu).trans (sound_pciWrite h)
  · cases h

theorem sound_writeLncf {i : Nat} {w : BitVec 16} {s t : State} (h : writeLncf i w s = .ok t) : Sound r s t :=
  .of_engines (by rw [writeLncf_ok h])

theorem sound_writeGamMocs {i : Nat} {w : Word} {s t : State} (h : writeGamMocs i w s = .ok t) : Sound r s t :=
  .of_engines (by rw [writeGamMocs_ok h])

theorem sound_namedWrite (g : NamedReg) (w : Word) (s : State) : Sound r s (namedWrite g w s) := by
  cases g with
  | adNonWb => exact .of_engines (changeRegs_engines _ s)
  | _ => exact .of_engines

theorem sound_writeDescHalf (ag : Agent) (e : Engine) (i : Nat) (b : Bool) (w : Word) (s : State) :
    Sound r s (writeDescHalf ag e i b w s) := by
  unfold writeDescHalf
  split
  · exact sound_updEngine_same s e
  · exact .refl s

theorem sound_mmioWrite {ag : Agent} {off : Nat} {w : Word} {s t : State} (h : mmioWrite ag off w s = .ok t) : Sound r s t := by
  unfold mmioWrite at h
  split at h
  · cases h
  · generalize mmioReg s.params off = g at h
    cases g with
    | undefined => cases h
    | mchbar | nullRange | toCs e => cases h; exact .of_engines
    | desc e i b => cases h; exact (sound_writeDescHalf ag e i b w s).trans (.of_kept (kept_noEffect _))
    | toGam e =>
      cases h
      split
      · exact (sound_gamMessage e w s).trans .of_engines
      · exact .of_engines
    | lncf i =>
      obtain ⟨u, hu, h⟩ := bind_ok.1 h
      obtain ⟨v, hv, h⟩ := bind_ok.1 h
      cases h
      exact (sound_writeLncf hu).trans ((sound_writeLncf hv).trans .of_engines)
    | gamMocs i =>
      obtain ⟨u, hu, h⟩ := bind_ok.1 h
      cases h
      exact (sound_writeGamMocs hu).trans .of_engines
    | _ => cases h; exact .of_engines (changeRegs_engines _ s)

theorem sound_of_access {s t : State} (h : Kept s t ∨ ∃ off v, mmioWrite .host off v s = .ok t) : Sound r s t :=
  h.elim .of_kept fun ⟨_, _, hw⟩ => sound_mmioWrite hw

theorem sound_hdcPageRequest {a : HdcRequest} {s t : State} (h : hdcPageRequest a s = .ok t) : Sound r s t := by
  unfold hdcPageRequest at h
  split at h
  · cases h; exact .of_engines
  · split at h
    · cases h; exact .of_engines
    · exact Sound.trans (t := withPending s a) .of_engines (.of_kept (kept_serveLoaded h))

theorem sound_tlbInvResponse (a : HdcAck) (s : State) : Sound r s (tlbInvResponse a s) := by
  unfold tlbInvResponse
  split
  · exact .of_engines
  · dsimp only
    generalize (if s.hdc.acks.contains a.src = true then s.hdc.acks else s.hdc.acks ++ [a.src]) = acks
    split <;> exact .of_engines

/-! ### Every step -/

theorem sound_instr {s t : State} (h : InstrEffect s t) : Sound r s t := by
  cases h with
  | kept h => exact .of_kept h
  | toGam e w => exact sound_gamMessage e w s
  | toCs e w => exact sound_csMessage e w s
  | descriptors d a =>
    unfold writeDescriptors
    split
    · exact sound_updEngine_same s _
    · exact .refl s
  | hdcRequest a h => exact sound_hdcPageRequest h
  | hdcAck a => exact sound_tlbInvResponse a s
  | hdcResponse a => unfold gamPageResponse; split <;> exact .of_engines
  | hdcStart | hdcEnd => exact .of_engines
  | lncf i w h => exact sound_writeLncf h
  | gamMocs i w h => exact sound_writeGamMocs h

/-- A transaction resets the engines that it is a reset of, and no other. -/
theorem sound_runOp {o : Op} {s t : State} (hr : ∀ e, (Input.op o).resetsEngine e = true → r e = true)
    (h : runOp o s = .ok t) : Sound r s t := by
  cases o with
  | hostAccess w addr n d => exact sound_of_access (hostAccess_cases h)
  | peerAccess w addr n d =>
    have hpeer : (if n = 0 ∨ 8 < n then refuse .undecodable else peerAccess w addr n d s) = .ok t := h
    split at hpeer
    · cases hpeer
    · exact sound_of_access (peerAccess_cases hpeer)
  | mmioWrite off d | csMmioWrite e off d => exact sound_mmioWrite h
  | namedWrite g d => cases h; exact sound_namedWrite g d s
  | pciWrite g d => exact sound_pciWrite h
  | configWrite off n d => exact sound_configWrite h
  | setFence _ _ | setIommu _ | setMemRanges _ | setPalette _ _ | setMchbarAlias _ | enablePowerGating =>
    cases h; exact .of_engines
  | pageResponse prg c => cases h; exact sound_pageResponse s prg c
  | lastResponse e c => cases h; exact sound_lastResponse s e c
  | switchOut e => cases h; exact sound_switchOut s e
  | terminate c => cases h; exact sound_terminate s c
  | invalidateEngine e => cases h; exact (sound_dropRetained s e).trans (sound_broadcastInvalidation _)
  | invalidateAll => cases h; exact sound_invalidateAll s
  | invalidatePasid p => cases h; exact sound_invalidatePasid s p
  | invalidateScope p g c => cases h; exact sound_invalidateScope s p g c
  | holdPageRequest prg => cases h; exact sound_holdPageRequest s prg
  | servicePageRequest prg => cases h; exact sound_servicePageRequest s prg
  | engineReset e => cases h; exact sound_requestReset s (hr e (by simp [Input.resetsEngine]))
  | flr => cases h; exact sound_requestFlr s fun e => hr e rfl
  | busReset => cases h; exact (sound_flr s fun e => hr e rfl).trans (.of_engines (busReset_engines s))
  | _ => exact .of_kept (kept_runOp rfl h)

end

/-- What a step with an input presented can do, told by that input: keep what `Kept` says, run an instruction, or run the transaction
that the input is. -/
theorem step_cases_of_input {s t : State} {i : Input} {rest : List Input} (hin : s.inputs = i :: rest) (h : step s = .next t) :
    Kept s t ∨ InstrEffect (popInput s rest) t ∨ ∃ o, i = .op o ∧ runOp o (popInput s rest) = .ok t := by
  rw [step_of_inputs_cons hin] at h
  cases i with
  | op o => exact .inr (.inr ⟨o, rfl, toOutcome_next.1 h⟩)
  | message x => exact .inr (.inl (exec_effect h))
  | object p bs =>
    cases hx : fetched (.object p bs) with
    | instr x => rw [hx] at h; exact .inr (.inl (exec_effect h))
    | op o => unfold fetched at hx; dsimp only at hx; split at hx <;> cases hx
    | rejected p e => rw [hx] at h; exact .inl ((kept_popInput s rest).trans (kept_rejectedObject (toOutcome_next.1 h)))

/-- A step keeps every engine's wait and events, and the stop of those that its input does not reset. -/
theorem sound_step {s t : State} {i : Input} {rest : List Input} (hin : s.inputs = i :: rest) (h : step s = .next t) :
    Sound (fun e => i.resetsEngine e) s t := by
  rcases step_cases_of_input hin h with hk | hi | ⟨o, rfl, ho⟩
  · exact .of_kept hk
  · exact (Sound.of_kept (kept_popInput s rest)).trans (sound_instr hi)
  · exact (Sound.of_kept (kept_popInput s rest)).trans (sound_runOp (fun _ => id) ho)

/-- Settles O7: each operation of a step keeps the two invariants of each engine. -/
theorem stepKeepsEngineInvariants : Obligations.StepKeepsEngineInvariants := by
  unfold Obligations.StepKeepsEngineInvariants
  intro s t h
  cases hin : s.inputs with
  | nil =>
    simp only [step, hin, Host.Outcome.next.injEq] at h
    subst h
    exact ⟨id, id⟩
  | cons i rest =>
    have hsound := sound_step hin h
    exact ⟨fun hs e => (hsound.engine e).halt (hs e), fun hs e => (hsound.engine e).events (hs e)⟩

/-- Settles O9: a step whose input resets an engine is the only one that brings it out of Hung or Wedged. -/
theorem onlyResetUnsticksAnEngine : Obligations.OnlyResetUnsticksAnEngine := by
  unfold Obligations.OnlyResetUnsticksAnEngine
  exact fun s t e i rest hin hreset hstuck h => ((sound_step hin h).engine e).stuck hreset hstuck

end Sys2Proof.Machine

/-! ## Faults presented as objects, and what a Hung engine serves (60_exceptions.md R801, R820-R829; O23, O25, O26, O27, O4) -/

namespace Sys2Proof.Machine

open Sys2Proof

/-! ### A Hung engine (R820) -/

@[simp] theorem ownRequest_eng (s : State) (a : Access) (d : QWord) : (ownRequest s a d).acc.eng = a.eng := rfl

/-- A request that is stalled joins the stalled ones of its own engine, and leaves every other engine as it is. -/
theorem engineOf_stall_own (s : State) (a : Access) (d : QWord) (st : Status) :
    engineOf (stall s (ownRequest s a d) st) a.eng =
        { engineOf s a.eng with stalled := (engineOf s a.eng).stalled ++ [ownRequest s a d] } ∧
      sameOtherEngines s (stall s (ownRequest s a d) st) a.eng :=
  ⟨(engineOf_stall s (ownRequest s a d) st a.eng).trans (if_pos rfl),
    fun e he => (engineOf_stall s (ownRequest s a d) st e).trans (if_neg he)⟩

/-- A request under any descriptor joins the stalled ones of its Hung engine and never completes (R820). -/
theorem serveUnder_hung {s : State} {a : Access} (mode : WalkMode) (d : QWord) (hmode : (engineOf s a.eng).mode = .hung)
    (hphase : (engineOf s a.eng).phase = .quiet) :
    serveUnder mode d a s = .ok (stall s (requestUnder s mode d a) .never) := by
  rw [serveUnder_eq]
  exact serve_hung false hphase hmode

/-- Settles O23: whatever its descriptor, the request is stalled. -/
theorem hungEngineServesNothing : Obligations.HungEngineServesNothing := by
  unfold Obligations.HungEngineServesNothing
  intro s d a hmode hphase i hi
  have hserved : ∀ mode, ∃ t, toOutcome (serveUnder mode d a s) = .next t ∧ t.completion.status = .never ∧ sameMemory s t ∧
      (engineOf t a.eng).mode = .hung ∧ sameOtherEngines s t a.eng ∧
      t = { s with engines := t.engines, completion := t.completion } := by
    intro mode
    obtain ⟨hengine, hothers⟩ := engineOf_stall_own s a (descUnder mode d) .never
    exact ⟨_, toOutcome_next.2 (serveUnder_hung mode d hmode hphase), rfl, fun _ => rfl, by rw [hengine]; exact hmode, hothers, rfl⟩
  simp only [List.mem_cons, List.not_mem_nil, or_false] at hi
  rcases hi with rfl | rfl | rfl | rfl
  · exact hserved .ggtt
  · exact hserved .ppgtt32
  · exact hserved .ppgtt48
  · exact hserved .advanced

/-! ### The objects that present a fault (R198, R801) -/

/-- Each FAULT_MODEL object presents its own code under its own descriptor, each FAULT_CODE object its code under the descriptor in force
(R35). -/
theorem exec_faultObject {s : State} {d : QWord} {a : FaultArgs} {i : Instr} {code : BitVec 2}
    (h : (code = a.code ∧
        i ∈ [Instr.faultModelHang d a, .faultModelHalt d a, .faultModelStreamSwitch d a, .faultModelReserved d a]) ∨
      (d = (pointersOf (engineOf s a.acc.eng)).desc ∧
        (i, code) ∈ [(Instr.faultCodeNotPresentOrReserved a, 1), (.faultCodePrivilege a, 2), (.faultCodeWritePermission a, 3)])) :
    exec i s = toOutcome (presentFault d a code s) := by
  simp only [List.mem_cons, List.not_mem_nil, or_false, Prod.mk.injEq] at h
  rcases h with ⟨rfl, rfl | rfl | rfl | rfl⟩ | ⟨rfl, ⟨rfl, rfl⟩ | ⟨rfl, rfl⟩ | ⟨rfl, rfl⟩⟩ <;> rfl

/-- A fault with a code other than 00 is taken in the mode that applies to its request (R801, R821). -/
theorem presentFault_taken {s : State} {d : QWord} {a : FaultArgs} {code : BitVec 2} (hcode : code ≠ 0) :
    presentFault d a code s = takePageFault s (ownRequest s a.acc d) a.acc.va code a.level.toNat := if_neg hcode

/-! ### Fault-and-Hang (R820, R821) -/

/-- Settles O25: a descriptor with bit 3 set makes every fault one that hangs. -/
theorem legacyFaultHangs : Obligations.LegacyFaultHangs := by
  unfold Obligations.LegacyFaultHangs
  intro s d a i code hskip hfree hcode hobject
  obtain ⟨desc, hlegacy, hexec⟩ : ∃ desc, bit desc 3 = true ∧ exec i s = toOutcome (presentFault desc a code s) := by
    rcases hobject with ⟨hlegacy, hobject⟩ | ⟨hlegacy, hobject⟩
    · exact ⟨d, hlegacy, exec_faultObject (.inl hobject)⟩
    · exact ⟨_, hlegacy, exec_faultObject (.inr ⟨rfl, hobject⟩)⟩
  obtain ⟨hcompletion, hengine, hothers, hframe⟩ :=
    takeHang_eq (r := ownRequest s a.acc desc) (faultRecord s (ownRequest s a.acc desc) a.acc.va code a.level.toNat) a.acc.va hskip
  rw [ownRequest_eng] at hengine
  refine ⟨_, ?_, ?_, ?_, by rw [hcompletion], fun b => by rw [hframe], hothers, hframe⟩
  · rw [hexec, presentFault_taken hcode, takePageFault_of _ _ _ (faultModeOf_hang s (.inr hlegacy)) (.inl rfl), toOutcome_ok]
  · rw [hengine]
    exact stick_of_not_stuck .hung hfree
  · rw [hengine]
    exact mem_addEvent _ _

/-! ### Fault-and-Halt (R822, R825) -/

/-- The three ways to Fault-and-Halt of an advanced context (R821, R822). -/
theorem faultModeOf_halt {s : State} {r : Request} (hg : usesGgtt r = false) (hd : bit r.desc 3 = false)
    (h : bit s.regs.r404c 0 = true ∨ field r.desc 6 2 = 1 ∨ (field r.desc 6 2 = 2 ∧ streamCapable r.acc = false)) :
    faultModeOf s r = .ok .halt := by
  by_cases hover : bit s.regs.r404c 0 = true
  · exact faultModeOf_override hg hd hover
  · have hover : bit s.regs.r404c 0 = false := by simpa using hover
    rw [faultModeOf_field hg hd hover]
    rcases h with h | h | ⟨h, hstream⟩
    · rw [hover] at h; cases h
    · rw [h]
      rfl
    · rw [h]
      exact if_neg (by simp [hstream])

theorem streamCapable_eq_false {a : Access} (h1 : ¬(a.client = .hdc ∧ a.coherent = true)) (h2 : a.client ≠ .instructionState) :
    streamCapable a = false := by
  simp_all [streamCapable]

/-- Settles O26: the fault is Fault-and-Halt, which waits for the reset of the engine if one waits. -/
theorem advancedFaultHalts : Obligations.AdvancedFaultHalts := by
  unfold Obligations.AdvancedFaultHalts
  intro s d a i code hways hadvanced hg hclient hcode hobject
  have hmode : faultModeOf s (ownRequest s a.acc d) = .ok .halt :=
    faultModeOf_halt (usesGgtt_false hg hclient hadvanced) hadvanced
      (hways.imp_right (.imp_right fun ⟨hfield, h1, h2⟩ => ⟨hfield, streamCapable_eq_false h1 h2⟩))
  have hexec : exec i s = toOutcome (takePageFault s (ownRequest s a.acc d) a.acc.va code a.level.toNat) := by
    rw [exec_faultObject hobject, presentFault_taken hcode]
  constructor
  · intro hreset
    obtain ⟨hengine, hothers⟩ := engineOf_stall_own s a.acc d .waiting
    refine ⟨_, ownRequest s a.acc d, ?_, rfl, rfl, hengine, hothers, rfl⟩
    rw [hexec, takePageFault_resetting _ _ _ hmode (by decide) hreset, toOutcome_ok]
  · intro hmiss hfree hpage hreset
    obtain ⟨hcompletion, hqueue, hnext, hengine, hothers, hframe⟩ :=
      takeHalt_eq (s := s) (r := ownRequest s a.acc d) (faultRecord s (ownRequest s a.acc d) a.acc.va code a.level.toNat) hmiss
        (filteringEntry_other hpage)
    rw [ownRequest_eng] at hengine
    refine ⟨_, _, ?_, hqueue, ?_, hnext, ?_, ⟨⟨ownRequest s a.acc d,
      faultRecord s (ownRequest s a.acc d) a.acc.va code a.level.toNat, s.nextPrg⟩, ?_, rfl, rfl, rfl⟩, by rw [hcompletion], fun b => by rw [hframe], hothers, hframe⟩
    · rw [hexec, takePageFault_of _ _ _ hmode (.inr hreset), toOutcome_ok]
    · simp [faultRecord, ownRequest, hadvanced]
    · rw [hengine]
      exact stick_of_not_stuck .halted hfree
    · rw [hengine]

/-! ### Fault-and-Stream (R826, R828, R829) -/

/-- Settles O27: with Fault Model 10 the fault of a client that may stream is taken in Stream mode. -/
theorem streamModelStreams : Obligations.StreamModelStreams := by
  unfold Obligations.StreamModelStreams
  intro s d a hmodel hover hadvanced hg hclient hcode hpage hreset
  have hstream : streamCapable a.acc = true := by
    rcases hclient with ⟨h1, h2⟩ | h <;> simp [streamCapable, *]
  have htakes : takesCode a.acc = true := by
    rcases hclient with ⟨h1, -⟩ | h <;> simp [takesCode, *]
  have hdisplay : a.acc.client ≠ .displayOverlay := by
    rcases hclient with ⟨h1, -⟩ | h <;> simp [*]
  have hmode : faultModeOf s (ownRequest s a.acc d) = .ok .stream := by
    rw [faultModeOf_field (usesGgtt_false hg hdisplay hadvanced) hadvanced hover, show field (ownRequest s a.acc d).desc 6 2 = 2 from hmodel]
    exact if_pos hstream
  obtain ⟨hstatus, hcodeFor, -, hqueue, -, hregs, hengine, hothers, hmem⟩ :=
    takeStream_eq (s := s) (r := ownRequest s a.acc d) (faultRecord s (ownRequest s a.acc d) a.acc.va a.code a.level.toNat) rfl
      (filteringEntry_other hpage)
  rw [ownRequest_eng] at hengine
  refine ⟨_, ⟨ownRequest s a.acc d, faultRecord s (ownRequest s a.acc d) a.acc.va a.code a.level.toNat, s.nextPrg⟩, ?_, ?_, rfl,
    hqueue, rfl, by rw [hregs], ?_, fun hnone => ?_, hstatus, ?_, fun b => by rw [hmem], hothers⟩
  · rw [exec_faultObject (code := a.code) (d := d) (.inl ⟨rfl, by simp⟩), presentFault_taken hcode,
      takePageFault_of _ _ _ hmode (.inr hreset), toOutcome_ok]
  · rw [hengine]
  · rw [hengine]
  · rw [hengine, hnone]
    exact mem_addEvent _ _
  · rw [hcodeFor]
    exact if_pos htakes

/-! ### Bytes that are no entry of their port (R801, R822) -/

/-- The step on bytes that an IA-32e port rejects as an entry fault takes the fault of an entry presented alone (R801). -/
theorem step_rejectedEntry {s : State} {p : Port} {bs : List Byte} {rest : List Input} {a : Access} {level : Nat}
    (hport : p ∈ [Port.ia32ePml4, .ia32ePdp, .ia32ePd, .ia32ePt64, .ia32ePt4]) (hin : s.inputs = .object p bs :: rest)
    (hdec : decode p bs = .error (.entryFault a level)) (hwf : a.wf = true) :
    ∃ u : State, u = { s with inputs := rest, walk := u.walk } ∧
      step s = toOutcome (takePageFault u (entryRequest u .ia32e a) a.va 1 level) := by
  refine ⟨{ s with inputs := rest, walk := ⟨Rights.all, false, .fault 1 level⟩ }, rfl, ?_⟩
  have hfetched : fetched (.object p bs) = .rejected p (.entryFault a level) := by simp [fetched, hdec]
  have hrejected : rejectedObject p (.entryFault a level) (popInput s rest) = rejectedEntry p a level (popInput s rest) := if_pos hwf
  rw [step_of_inputs_cons hin, hfetched, runFetched, hrejected]
  simp only [List.mem_cons, List.not_mem_nil, or_false] at hport
  rcases hport with rfl | rfl | rfl | rfl | rfl <;> rfl

/-- Settles O4: the fault of the rejected entry is Fault-and-Halt under the override. -/
theorem rejectedEntryIsAPageFault : Obligations.RejectedEntryIsAPageFault := by
  unfold Obligations.RejectedEntryIsAPageFault
  intro s p bs rest a level hport hin hdec hwf hover hg hclient
  obtain ⟨u, hu, hstep⟩ := step_rejectedEntry hport hin hdec hwf
  have hengines : ∀ e, engineOf u e = engineOf s e := fun e => engineOf_congr (by rw [hu]) e
  have hregs : u.regs = s.regs := by rw [hu]
  have hmem : u.mem = s.mem := by rw [hu]
  have hrequests : u.pageRequests = s.pageRequests := by rw [hu]
  have hnextPrg : u.nextPrg = s.nextPrg := by rw [hu]
  have hmode : faultModeOf u (entryRequest u .ia32e a) = .ok .halt :=
    faultModeOf_entryRequest (by rw [hregs]; exact hover) hg hclient
  have heng : (entryRequest u .ia32e a).acc.eng = a.eng := rfl
  constructor
  · intro hreset
    refine ⟨stall u (entryRequest u .ia32e a) .waiting, ?_, hrequests, fun b => by rw [stall_mem, hmem]⟩
    rw [hstep, takePageFault_resetting _ _ _ hmode (by decide) (by rw [heng, hengines]; exact hreset), toOutcome_ok]
  · intro hmiss hfree hpage hreset
    obtain ⟨-, hqueue, -, hengine, hothers, hframe⟩ :=
      takeHalt_eq (s := u) (r := entryRequest u .ia32e a) (faultRecord u (entryRequest u .ia32e a) a.va 1 level)
        (by rw [heng, hengines]; exact hmiss) (filteringEntry_other (by rw [heng, hengines]; exact hpage))
    refine ⟨_, _, ?_, hqueue.trans (by rw [hrequests]), hnextPrg, rfl, rfl, rfl, rfl, ?_, fun e he => ?_, fun b => by rw [hframe, hmem]⟩
    · rw [hstep, takePageFault_of _ _ _ hmode (.inr (by rw [heng, hengines]; exact hreset)), toOutcome_ok]
    · rw [← heng, hengine, heng, hengines]
      exact stick_of_not_stuck .halted hfree
    · rw [hothers e he, hengines]

end Sys2Proof.Machine

/-! ## A successful page response (60_exceptions.md R825, R833, R841) -/

namespace Sys2Proof.Machine

open Sys2Proof

/-- Only the engines change when the retained translations of a page leave. -/
theorem dropPage_eq (s : State) (w : Waiting) : dropPage s w = { s with engines := (dropPage s w).engines } :=
  foldl_updEngine_eq (fun x => { x with
    scopeMarks := ⟨some w.fault.pasid, some w.fault.vaPage, .all, s.history.length⟩ :: x.scopeMarks
    faulted := x.faulted.filter fun p => !ScopeMark.coversFaulted ⟨some w.fault.pasid, some w.fault.vaPage, .all, s.history.length⟩ p })
    allEngines s

/-- The machine once a successful response ended the one wait `w` for it, before the retained translations of the page are dropped. -/
def answered (s : State) (e : Engine) (w : Waiting) : State :=
  { dropPageRequest (dropAnswered (updEngine s e (clearWaits w.prg true)) w.prg) w.prg with
    detached := s.detached.filter (· != w.prg) }

theorem endWaits_eq_answered {s : State} {e : Engine} {w : Waiting} (hw : (engineOf s e).miss = some w)
    (hs : outstandingMatches s w.prg e = []) :
    endWaits s e w.prg .success = resumeStalled (dropPage (answered s e w) w) e [w.req] := by
  have ht : topMatches s w.prg e = [w] := by simp [topMatches, hw]
  simp only [endWaits, ht, hs, failRequest, answered, dropPageRequest_detached, dropAnswered_detached, updEngine_detached, reduceCtorEq,
    if_false, List.nil_append, List.foldl_cons, List.foldl_nil, List.filter_nil, List.map_cons, List.map_nil, decide_true]

theorem engineOf_answered (s : State) (e e' : Engine) (w : Waiting) :
    engineOf (answered s e w) e' =
      { engineOf (updEngine s e (clearWaits w.prg true)) e' with faulted := (engineOf (answered s e w) e').faulted } := by
  have hengines : engineOf (answered s e w) e' = engineOf (dropAnswered (updEngine s e (clearWaits w.prg true)) w.prg) e' :=
    engineOf_congr rfl e'
  rw [hengines, engineOf_dropAnswered]

theorem answered_frame (s : State) (e : Engine) (w : Waiting) :
    answered s e w = { s with
      engines := (answered s e w).engines
      pageRequests := s.pageRequests.filter fun q => q.prg != w.prg
      detached := s.detached.filter (· != w.prg) } := by
  obtain ⟨engines, hdrop⟩ : ∃ x, dropAnswered (updEngine s e (clearWaits w.prg true)) w.prg = { s with engines := x } :=
    ⟨_, dropAnswered_eq _ _⟩
  rw [answered, hdrop]
  rfl

/-- Settles O29: the response ends the wait of the one engine, whose request is presented again. -/
theorem pageResponseResumes : Obligations.PageResponseResumes := by
  unfold Obligations.PageResponseResumes
  intro s e w rest hin hmiss hmode hothers houtstanding
  have hengines : ∀ e', engineOf (popInput s rest) e' = engineOf s e' := engineOf_popInput s rest
  have hnone : outstandingMatches (popInput s rest) w.prg e = [] := by
    rw [outstandingMatches, hengines]
    exact List.filter_eq_nil_iff.2 fun w' hw' => by simpa using houtstanding e w' hw'
  have hawaits : awaits (popInput s rest) w.prg e = true := (awaits_iff _ _ _).2 (.inl ⟨w, by rw [hengines, hmiss], rfl⟩)
  have honly : ∀ e', awaits (popInput s rest) w.prg e' = true → e' = e := by
    intro e' h
    rcases (awaits_iff _ _ _).1 h with ⟨w', hw', hprg⟩ | ⟨w', hw', hprg⟩
    · exact hothers e' w' (by rw [← hengines, hw']) hprg
    · exact absurd hprg (houtstanding e' w' (by rw [← hengines]; exact hw'))
  obtain ⟨u, hu⟩ : ∃ u, u = answered (popInput s rest) e w := ⟨_, rfl⟩
  have hstep : step s = .next (resumeStalled (dropPage u w) e [w.req]) := by
    rw [step_of_inputs_cons hin, hu, ← endWaits_eq_answered (by rw [hengines, hmiss]) hnone, ← pageResponse_awaited .success hawaits honly]
    rfl
  have hframe : u = { popInput s rest with
      engines := u.engines, pageRequests := s.pageRequests.filter fun q => q.prg != w.prg, detached := s.detached.filter (· != w.prg) } := by
    rw [hu]
    exact answered_frame _ _ _
  have hself : (engineOf u e).miss = none ∧ (engineOf u e).mode = .running := by
    rw [hu, engineOf_answered, engineOf_updEngine_same, hengines]
    simp [clearWaits, hmiss, hmode]
  have hother : ∀ e', e' ≠ e → engineOf u e' = { engineOf s e' with faulted := (engineOf u e').faulted } := by
    intro e' he
    rw [hu, engineOf_answered, engineOf_updEngine_other _ _ he, hengines]
  have hlength : u.history.length = s.history.length := by rw [hframe]; rfl
  refine ⟨_, _, hstep, ?_, ?_, rfl, ?_, ?_, fun e' => ⟨⟨some w.fault.pasid, some w.fault.vaPage, .all, s.history.length⟩, ?_, rfl, rfl, rfl, rfl⟩,
    fun e' he => ?_, fun b => ?_, ?_⟩
  · rw [engineOf_resumeStalled, if_pos rfl, engineOf_dropPage]
    exact hself.1
  · rw [engineOf_resumeStalled, if_pos rfl, engineOf_dropPage]
    exact hself.2
  · show w.prg ∉ (dropPage u w).detached
    rw [dropPage_eq, hframe]
    simp
  · show ∀ q ∈ (dropPage u w).pageRequests, q.prg ≠ w.prg
    rw [dropPage_eq, hframe]
    simp
  · rw [engineOf_resumeStalled, ← hlength]
    split
    next => simp [engineOf_dropPage]
    next => simp [engineOf_dropPage]
  · rw [engineOf_resumeStalled, if_neg he, engineOf_dropPage, hother e' he]
  · show memRead (dropPage u w).mem b = memRead s.mem b
    rw [dropPage_mem, hframe]
    rfl
  · show (dropPage u w).pci = s.pci
    rw [dropPage_eq, hframe]
    rfl

end Sys2Proof.Machine

/-! ## The four steps of the handshake (60_exceptions.md R850, R852) -/

namespace Sys2Proof.Machine

open Sys2Proof

/-! ### The four messages (R34) -/

/-- A word that writes bit 0 and not bit 1 of GAM's message register is Context Available. -/
theorem exec_availableOf {w : Word} (h0 : messageBit w 0 = true) (h1 : messageBit w 1 = false) (s : State) (e : Engine) :
    exec (availableOf e w) s = .next (contextAvailable s e) := by
  have hexec : exec (availableOf e w) s = .next (gamMessage e w s) := by cases e <;> rfl
  simp [hexec, gamMessage, h0, h1]

/-- A word that writes bit 1 and not bit 0 of it is Context Launched. -/
theorem exec_launchedOf {w : Word} (h0 : messageBit w 0 = false) (h1 : messageBit w 1 = true) (s : State) (e : Engine) :
    exec (launchedOf e w) s = .next (contextLaunched s e) := by
  have hexec : exec (launchedOf e w) s = .next (gamMessage e w s) := by cases e <;> rfl
  simp [hexec, gamMessage, h0, h1]

/-- A word that writes bit 0 and not bit 1 of the command streamer's message register is Context Receive Ready. -/
theorem exec_receiveReadyOf {w : Word} (h0 : messageBit w 0 = true) (h1 : messageBit w 1 = false) (s : State) (e : Engine) :
    exec (receiveReadyOf e w) s = .next (contextReceiveReady s e) := by
  have hexec : exec (receiveReadyOf e w) s = .next (csMessage e w s) := by cases e <;> rfl
  simp [hexec, csMessage, h0, h1]

/-- A word that writes bit 1 and not bit 0 of it is Context Confirmed. -/
theorem exec_confirmedOf {w : Word} (h0 : messageBit w 0 = false) (h1 : messageBit w 1 = true) (s : State) (e : Engine) :
    exec (confirmedOf e w) s = .next (contextConfirmed s e) := by
  have hexec : exec (confirmedOf e w) s = .next (csMessage e w s) := by cases e <;> rfl
  simp [hexec, csMessage, h0, h1]

theorem availableMessage_eq (e : Engine) : availableMessage e = availableOf e 0x00010001 := by cases e <;> rfl

theorem receiveReadyMessage_eq (e : Engine) : receiveReadyMessage e = receiveReadyOf e 0x00010001 := by cases e <;> rfl

theorem confirmedMessage_eq (e : Engine) : confirmedMessage e = confirmedOf e 0x00020002 := by cases e <;> rfl

/-! ### Context Receive Ready -/

/-- Settles O56: in the phase after Context Available the message is taken and the descriptor registers may be written. -/
theorem contextReceiveReadyStep : Obligations.ContextReceiveReadyStep := by
  unfold Obligations.ContextReceiveReadyStep
  intro s e w h0 h1 hphase
  rw [exec_receiveReadyOf h0 h1, contextReceiveReady, updEngine, if_pos hphase]

/-! ### Context Confirmed -/

/-- What an engine in the launched phase holds once its context is confirmed. -/
theorem engineOf_contextConfirmed {s : State} {e : Engine} (h : (engineOf s e).phase = .launched) (e' : Engine) :
    engineOf (contextConfirmed s e) e' =
      if e' = e then
        { engineOf s e with
          msgToCs := (engineOf s e).msgToCs &&& 0xFFFFFFFD, phase := .quiet
          mode := if (engineOf s e).mode = .idle then .running else (engineOf s e).mode
          invMark := s.history.length, scopeMarks := [], faulted := [], stalled := [], behind := [], availPending := false }
      else engineOf s e' := by
  rw [contextConfirmed, if_pos h, engineOf_resumeStalled, engineOf_dropRetained, engineOf_dropRetained]
  split
  next => simp
  next he => rw [engineOf_updEngine_other _ _ he, engineOf_setEngine_other _ _ he]

/-- What waits is presented again. -/
theorem resume_mem_resumeStalled {s : State} {e : Engine} {r : Request} (rs : List Request)
    (h : r ∈ (engineOf s e).behind ++ (engineOf s e).stalled) : .op (.resume r) ∈ (resumeStalled s e rs).inputs := by
  have hagain : (.op (.resume r) : Input) ∈ ((engineOf s e).behind ++ (engineOf s e).stalled).map fun r => .op (.resume r) :=
    List.mem_map_of_mem h
  simp only [resumeStalled, List.mem_append]
  exact .inl (.inl (.inl (.inr hagain)))

/-- Settles O58: the requests that wait are the inputs at the front, and the engine runs with nothing retained. -/
theorem contextConfirmedStep : Obligations.ContextConfirmedStep := by
  unfold Obligations.ContextConfirmedStep
  intro s e w h0 h1 hphase
  have hengine := engineOf_contextConfirmed hphase e
  rw [if_pos rfl] at hengine
  have hlaunched : contextConfirmed s e = resumeStalled (dropRetained (updEngine (setEngine s e
      { engineOf s e with msgToCs := (engineOf s e).msgToCs &&& 0xFFFFFFFD }) e fun x =>
        { x with phase := .quiet, mode := if x.mode = .idle then .running else x.mode }) e) e [] := by
    rw [contextConfirmed, if_pos hphase]
  refine ⟨_, exec_confirmedOf h0 h1 s e, by rw [hengine], fun hidle => ?_, by rw [hengine], ?_, by rw [hengine], by rw [hengine],
    fun r hr => ?_, ?_, fun e' he => ?_⟩
  · rw [hengine]
    exact if_pos hidle
  · rw [nothingRetained, hengine, hlaunched]
    exact decide_eq_true (Nat.le_refl _)
  · rw [hlaunched]
    refine resume_mem_resumeStalled [] ?_
    simpa [engineOf_dropRetained] using hr
  · rw [hlaunched]
    exact fun b => rfl
  · rw [engineOf_contextConfirmed hphase, if_neg he]

/-! ### Context Available -/

theorem Engines.set_set (es : Engines) (e : Engine) (x y : EngineSt) : (es.set e x).set e y = es.set e y := by cases e <;> rfl

theorem needsFence_iff (x : EngineSt) : needsFence x = true ↔ x.ctx ≠ none ∧ x.phase = .quiet ∧ x.stalled ≠ [] := by
  simp [needsFence, Option.isSome_iff_ne_none, and_assoc]

/-- With nothing in the way the old context leaves, and GAM answers (R850). -/
theorem contextAvailable_switch {s : State} {e : Engine} (h : cannotSwitch (engineOf s e) = false)
    (hf : needsFence (engineOf s e) = false) :
    ∃ engines inputs, contextAvailable s e = { closeContext s e with engines := engines, inputs := inputs } ∧
      .message (receiveReadyMessage e) ∈ inputs := by
  rw [contextAvailable, if_neg (by simp [h, fenceBlocked, hf]), if_neg (by simp [hf])]
  generalize closeContext s e = closed
  dsimp only
  rw [broadcastInvalidation_eq]
  refine ⟨_, _, rfl, ?_⟩
  split <;> simp

/-- The fence of step 1: the requests of the old context are presented again, and the message after them. -/
theorem resumeStalled_keepAvailable (s : State) (e : Engine) :
    ∃ tail, resumeStalled (keepAvailable s e) e [] = { s with
        engines := s.engines.set e { engineOf s e with
          msgToGam := (engineOf s e).msgToGam ||| 1, stalled := [], behind := [], availPending := false }
        inputs := ((engineOf s e).behind ++ (engineOf s e).stalled).map (fun r => .op (.resume r)) ++ tail } ∧
      .message (availableMessage e) ∈ tail := by
  refine ⟨(if (engineOf s e).leaving && (engineOf s e).miss.isNone then [.op (.switchOut e)] else []) ++
    .message (availableMessage e) :: s.inputs, ?_, by simp⟩
  rw [keepAvailable, resumeStalled, engineOf_updEngine_same, updEngine, setEngine, setEngine, Engines.set_set]
  simp

/-- Settles O55: what stands in the way is the fence or the message kept; else the old context leaves and its image is saved. -/
theorem contextAvailableStep : Obligations.ContextAvailableStep := by
  unfold Obligations.ContextAvailableStep
  intro s e w h0 h1 waits
  have hwaits : needsFence (engineOf s e) = true ↔ waits := needsFence_iff _
  rw [exec_availableOf h0 h1]
  refine ⟨fun hmiss hmode hw hreset => ?_, fun hmiss hmode hw => ?_, fun h => ?_⟩
  · obtain ⟨tail, heq, hmem⟩ := resumeStalled_keepAvailable s e
    rw [availableMessage_eq] at hmem
    exact ⟨tail, by rw [contextAvailable_fence (by simp [cannotSwitch, hmiss, hmode]) hreset (hwaits.2 hw), heq], hmem⟩
  · have hswitch : cannotSwitch (engineOf s e) = false := by simp [cannotSwitch, hmiss, hmode]
    have hfence : needsFence (engineOf s e) = false := by simpa using fun h => hw (hwaits.1 h)
    obtain ⟨engines, inputs, hframe, hanswer⟩ := contextAvailable_switch hswitch hfence
    rw [receiveReadyMessage_eq] at hanswer
    have hengine := engineOf_contextAvailable e hswitch hfence
    rw [if_pos rfl] at hengine
    have hmem : (contextAvailable s e).mem = (saveLoaded s e).mem := by rw [hframe, closeContext_eq]
    have hsaved : ∀ c, (engineOf s e).ctx = some c → saveLoaded s e = saveWords s e (c.desc.extractLsb' 12 20) (imageWords s e) s := by
      intro c hc
      rw [saveLoaded, hc]
      rfl
    refine ⟨_, rfl, by rw [hengine], by rw [hengine], by rw [hengine], by rw [hengine], ?_, ?_, ?_, ?_, fun b hb => ?_,
      fun hwf c hc w' hw' hmapped hapart => ?_, fun e' he => ?_, ?_, ?_, ?_⟩
    · rw [nothingRetained, hengine, hframe]
      exact decide_eq_true (Nat.le_refl _)
    · rw [hengine]
      simp [bit]
    · rw [hengine]
      simp [bit]
    · rw [hframe]
      exact hanswer
    · rw [hmem]
      cases hc : (engineOf s e).ctx with
      | none => rw [saveLoaded, hc]
      | some c =>
        rw [hsaved c hc]
        exact memRead_saveWords_outside s e _ _ s b (hb c hc)
    · rw [hmem, hsaved c hc]
      exact memReadLe_saveWords s e _ _ s w' hwf hmapped hw' hapart
    · rw [engineOf_contextAvailable e' hswitch hfence, if_neg he]
    · rw [hframe, closeContext_eq]
    · rw [hframe, closeContext_eq]
    · rw [hframe, closeContext_eq]
  · have hkeep : contextAvailable s e = updEngine s e fun x => { x with msgToGam := x.msgToGam ||| 1, availPending := true } := by
      rcases h with h | ⟨hw, hreset⟩
      · exact contextAvailable_waits (by simp [cannotSwitch, h])
      · exact contextAvailable_blocked hreset (hwaits.2 hw)
    rw [hkeep, updEngine]

end Sys2Proof.Machine

/-! ## Context Launched (60_exceptions.md R850 step 3, R852) -/

namespace Sys2Proof.Machine

open Sys2Proof

/-- What an engine holds once GAM has latched the registers of `e`. -/
theorem engineOf_latched (s : State) (e e' : Engine) :
    engineOf (latched s e) e' =
      if e' = e then
        { latchedEngine (engineOf s e) with
          events := if bit (engineOf s e).regs.desc 0 then (engineOf s e).events
            else addEvent (engineOf s e).events .descriptorError }
      else engineOf s e' := by
  by_cases h : bit (engineOf s e).regs.desc 0 = true
  · rw [latched, if_pos h, engineOf_setEngine, if_pos h]
    rfl
  · rw [latched, if_neg h, engineOf_raiseEvent, engineOf_setEngine_same, engineOf_setEngine, if_neg h]
    split <;> rfl

theorem latched_frame (s : State) (e : Engine) : ∃ engines, latched s e = { s with engines := engines } := by
  unfold latched
  split
  next => exact ⟨_, rfl⟩
  next => exact ⟨_, rfl⟩

/-- Filling the caches sets the engine's PASID Cache: the entry of the IOMMU for an advanced context, or none (R57, R373). -/
theorem engineOf_fillCaches (s : State) (e e' : Engine) :
    engineOf (fillCaches s e) e' =
      if e' = e then
        { engineOf s e with
          pasidCache := if runsAdvanced (engineOf s e) then
            iommuLookup s ((pointersOf (engineOf s e)).desc.extractLsb' 9 3) (pasidOf (engineOf s e)) else none }
      else engineOf s e' := by
  by_cases h : runsAdvanced (engineOf s e) = true
  · have hfill : engineOf (fillCaches s e) e' = engineOf (updEngine (countPasid s (pasidOf (engineOf s e)) 1) e fun x =>
        { x with pasidCache := iommuLookup s ((pointersOf (engineOf s e)).desc.extractLsb' 9 3) (pasidOf (engineOf s e)) }) e' := by
      rw [fillCaches, if_pos h]
      dsimp only
      split
      next =>
        split
        next => rfl
        next => exact engineOf_congr rfl e'
      next => rfl
    rw [hfill, engineOf_updEngine, engineOf_countPasid, engineOf_countPasid, if_pos h]
  · rw [fillCaches, if_neg h, engineOf_updEngine, if_neg h]

theorem fillCaches_frame (s : State) (e : Engine) :
    fillCaches s e = { s with
      engines := (fillCaches s e).engines, contextCache := (fillCaches s e).contextCache, pasidCounts := (fillCaches s e).pasidCounts } := by
  unfold fillCaches
  dsimp only
  split
  next =>
    split
    next => split <;> rfl
    next => rfl
  next => rfl

/-- Before its part of the registers is restored the launched context has changed engines and caches alone. -/
theorem fillCaches_latched_frame (s : State) (e : Engine) :
    ∃ engines cache counts,
      fillCaches (latched s e) e = { s with engines := engines, contextCache := cache, pasidCounts := counts } := by
  obtain ⟨engines, hlatched⟩ := latched_frame s e
  rw [hlatched]
  exact ⟨_, _, _, fillCaches_frame _ e⟩

theorem runsAdvanced_latchedEngine (x : EngineSt) (events : List Event) :
    runsAdvanced { latchedEngine x with events := events } = !bit x.regs.desc 3 := rfl

/-- The launched engine: the five registers are its context, and its PASID Cache is that context's. -/
theorem engineOf_launched (s : State) (e e' : Engine) :
    engineOf (fillCaches (latched s e) e) e' =
      if e' = e then
        { latchedEngine (engineOf s e) with
          events := if bit (engineOf s e).regs.desc 0 then (engineOf s e).events
            else addEvent (engineOf s e).events .descriptorError
          pasidCache := if bit (engineOf s e).regs.desc 3 then none
            else iommuLookup s ((engineOf s e).regs.desc.extractLsb' 9 3) ((engineOf s e).regs.pdp0.extractLsb' 0 20) }
      else engineOf s e' := by
  have hiommu : ∀ fn pasid, iommuLookup (latched s e) fn pasid = iommuLookup s fn pasid := by
    intro fn pasid
    obtain ⟨engines, hlatched⟩ := latched_frame s e
    rw [hlatched]
    rfl
  rw [engineOf_fillCaches, engineOf_latched, engineOf_latched, if_pos rfl, runsAdvanced_latchedEngine, hiommu]
  by_cases he : e' = e
  · rw [if_pos he, if_pos he]
    cases bit (engineOf s e).regs.desc 3 <;> rfl
  · rw [if_neg he, if_neg he, if_neg he]

/-! ### The registers of a context image -/

/-- A mapped DWord that has no reserved bits is read whole. -/
theorem imageOr_whole {s : State} {e : Engine} {lrca : BitVec 20} {k : Nat} (old : Word)
    (h : imageMapped s lrca k = true) (hs : cpuSettled s = true) :
    imageOr s e lrca k 0xFFFFFFFF old = (memReadLe s.mem (imageTarget s lrca k) 4).setWidth 32 := by
  rw [imageOr_mapped _ _ h hs]
  exact BitVec.and_allOnes

/-- Of an engine other than the render engine the restore touches GAM_MOCS alone (R40). -/
theorem restoreContext_regs_other {s : State} {e : Engine} (lrca : BitVec 20) (h : e ≠ .rcs) :
    (restoreContext s e lrca).regs = { s.regs with gamMocs := (restoreContext s e lrca).regs.gamMocs } := by
  rw [restoreContext_regs, restoreTrtt, if_neg h]

/-- Each mapped DWord of the render engine's image gives its TR-TT register, the reserved bits 0 (R40, R41, R44, R45). -/
theorem restoreContext_trtt {s : State} {lrca : BitVec 20} (hs : cpuSettled s = true) :
    let image (k : Nat) : Word := (memReadLe s.mem (imageTarget s lrca k) 4).setWidth 32
    let trtt := s.params.imageTrtt
    let r := (restoreContext s .rcs lrca).regs
    (imageMapped s lrca trtt = true → imageMapped s lrca (trtt + 1) = true →
      r.l3Ptr = (image (trtt + 1) &&& 0x0000FFFF) ++ (image trtt &&& 0xFFFF0000)) ∧
    (imageMapped s lrca (trtt + 2) = true → r.nullTile = image (trtt + 2)) ∧
    (imageMapped s lrca (trtt + 3) = true → r.invalidTile = image (trtt + 3)) ∧
    (imageMapped s lrca (trtt + 4) = true → r.trvadr = image (trtt + 4) &&& 0xFF) ∧
    (imageMapped s lrca (trtt + 5) = true → r.trtte = image (trtt + 5) &&& 3) := by
  have hregs : (restoreContext s .rcs lrca).regs = _ := restoreContext_regs s .rcs lrca
  rw [restoreTrtt, if_pos rfl] at hregs
  dsimp only
  rw [hregs]
  refine ⟨fun h0 h1 => ?_, fun h => imageOr_whole _ h hs, fun h => imageOr_whole _ h hs, fun h => imageOr_mapped _ _ h hs,
    fun h => imageOr_mapped _ _ h hs⟩
  have hhigh := imageOr_mapped (e := .rcs) 0x0000FFFF (s.regs.l3Ptr.extractLsb' 32 32) h1 hs
  have hlow := imageOr_mapped (e := .rcs) 0xFFFF0000 (s.regs.l3Ptr.extractLsb' 0 32) h0 hs
  rw [← hhigh, ← hlow]
  rfl

/-- Settles O57: GAM latches the registers, and what the image maps of the context's part of the registers is restored. -/
theorem contextLaunchedStep : Obligations.ContextLaunchedStep := by
  unfold Obligations.ContextLaunchedStep
  intro s e w h0 h1 hphase
  have hengine := engineOf_launched s e
  have hexec := exec_launchedOf h0 h1 s e
  rw [contextLaunched_ready hphase, confirmedMessage_eq] at hexec
  obtain ⟨engines, cache, counts, hframe⟩ := fillCaches_latched_frame s e
  generalize fillCaches (latched s e) e = u at hengine hexec hframe
  have hself := hengine e
  rw [if_pos rfl] at hself
  have hregs : u.regs = s.regs := by rw [hframe]
  have hparams : u.params = s.params := by rw [hframe]
  have hmem : u.mem = s.mem := by rw [hframe]
  have hinputs : u.inputs = s.inputs := by rw [hframe]
  have hwords : imageWords u e = imageWords s e := by rw [hframe]; rfl
  have hmapped : imageMapped u = imageMapped s := by rw [hframe]; rfl
  have htarget : imageTarget u = imageTarget s := by rw [hframe]; rfl
  have hsettled : cpuSettled u = cpuSettled s := by rw [hframe]; rfl
  refine ⟨_, hexec, ?_, ?_, ?_, fun hvalid => ?_, fun hvalid => ?_, ?_, fun hunmapped => ?_, fun he => ?_,
    fun hs => ⟨fun he => ?_, fun i hi hslot hm => ?_⟩, fun b => ?_, fun e' he => ?_⟩
  · exact congrArg EngineSt.ctx hself
  · exact congrArg EngineSt.phase hself
  · exact congrArg (_ :: ·) hinputs
  · refine (congrArg (_ ∈ EngineSt.events ·) hself).mpr ?_
    rw [hvalid]
    exact mem_addEvent _ _
  · refine (congrArg EngineSt.events hself).trans ?_
    exact if_pos hvalid
  · exact congrArg EngineSt.pasidCache hself
  · have h := restoreContext_unmapped (s := u) (e := e) (lrca := lrcaOf (engineOf s e).regs.desc) (by rw [hwords, hmapped]; exact hunmapped)
    exact h.trans hregs
  · have h := restoreContext_regs_other (s := u) (lrcaOf (engineOf s e).regs.desc) he
    rw [hregs] at h
    exact h
  · subst he
    have h := restoreContext_trtt (lrca := lrcaOf (engineOf s .rcs).regs.desc) (hsettled.trans hs)
    rw [hparams, hmapped, htarget, hmem] at h
    exact h
  · have h := restoreContext_mocs (s := u) (e := e) (lrca := lrcaOf (engineOf s e).regs.desc) hi (by rw [hparams, hregs]; exact hslot)
      (by rw [hparams, hmapped]; exact hm) (hsettled.trans hs)
    rw [hparams, htarget, hmem] at h
    exact h
  · exact congrArg (memRead · b) hmem
  · exact (hengine e').trans (if_neg he)

end Sys2Proof.Machine

/-! ## An engine reset (70_reset_and_hazards.md R871) -/

namespace Sys2Proof.Machine

open Sys2Proof

theorem step_engineReset {s : State} {e : Engine} {rest : List Input} (hin : s.inputs = .op (.engineReset e) :: rest) :
    step s = .next (requestReset (popInput s rest) e) := step_of_inputs_cons hin

/-- Beside the engines, what an engine reset leaves of the machine without the requests it discards: all but the abandoned page requests,
the HDC port and the inputs (R871). -/
theorem engineReset_frame (s : State) (e : Engine) :
    ∃ engines detached hdc inputs draws, engineReset s e = { afterDiscard s e with
      engines := engines, detached := detached, hdc := hdc, inputs := inputs, draws := draws } :=
  ⟨_, _, _, _, _, rfl⟩

/-- With no request of the engine in flight nothing is discarded: the reset counts its context's PASID out (R35). -/
theorem afterDiscard_idle {s : State} {e : Engine} (h : inFlight s e = []) :
    afterDiscard s e = { s with
      pasidCounts := if runsAdvanced (engineOf s e) then addPasidCount (pasidOf (engineOf s e)) (-1) s.pasidCounts
        else s.pasidCounts } := by
  rw [afterDiscard, h, settle_nil]
  split <;> rfl

/-- Settles O14: a page request at the MMIO registers blocks the reset; else nothing but the engine and its counter changes. -/
theorem engineResetLeaves : Obligations.EngineResetLeaves := by
  unfold Obligations.EngineResetLeaves
  intro s e rest hin
  have hengines : ∀ e', engineOf (popInput s rest) e' = engineOf s e' := engineOf_popInput s rest
  have hstep := step_engineReset hin
  constructor
  · intro hheld
    rw [requestReset, hengines, if_neg (by simpa using hheld)] at hstep
    refine ⟨_, hstep, ?_, rfl, fun e' he => ?_⟩
    · rw [engineOf_updEngine_same, hengines]
    · rw [engineOf_updEngine_other _ _ he, hengines]
  · intro hfree hidle
    rw [requestReset, hengines, if_pos (by simpa using hfree)] at hstep
    have hidle : inFlight (popInput s rest) e = [] := hidle
    obtain ⟨regs, gam, cs, hself⟩ := engineOf_engineReset_same (popInput s rest) e
    obtain ⟨engines, detached, hdc, inputs, draws, hframe⟩ := engineReset_frame (popInput s rest) e
    rw [hidle, settle_nil, hengines] at hself
    rw [afterDiscard_idle hidle, hengines] at hframe
    have hothers : ∀ e', e' ≠ e → engineOf (engineReset (popInput s rest) e) e' = engineOf s e' := by
      intro e' he
      rw [engineOf_engineReset_other _ he, hidle, settle_nil, hengines]
    refine ⟨_, hstep, ?_⟩
    rw [hself]
    refine ⟨rfl, rfl, rfl, rfl, rfl, rfl, rfl, rfl, rfl, rfl, ?_⟩
    generalize engineReset (popInput s rest) e = t at hframe hothers
    refine ⟨?_, ?_, hothers, fun b => ?_, ?_, ?_, ?_, ?_⟩ <;> rw [hframe] <;> rfl

end Sys2Proof.Machine

/-! ## A device reset (70_reset_and_hazards.md R871, R872)

O13 stays unsettled. Whether a discarded request happened is an open choice (R871), drawn from `Config.choice`, which is opaque: nothing about
its values can be proved. O13 does not say that the requests waiting at an engine are that engine's own. One that is another engine's may
happen after that engine was reset, and then stalls there. So O13 holds if no discarded request ever happens
(`deviceResetLeaves_of_choices_even`) and fails if one may (`not_deviceResetLeaves_of_choice_odd`): a proof of either O13 or its negation would
fix the parity of a choice that the model leaves free. -/

namespace Sys2Proof.Machine

open Sys2Proof

theorem step_flr {s : State} {rest : List Input} (hin : s.inputs = .op .flr :: rest) :
    step s = .next (requestFlr (popInput s rest)) := step_of_inputs_cons hin

/-! ### What follows the engine resets -/

/-- The machine of a device reset once every engine is reset. -/
def enginesReset (s : State) : State := allEngines.foldl engineReset { s with flrPending := false }

/-- The machine of a device reset once nothing is retained either, and no event is pending (D39, R872). -/
def enginesCleared (s : State) : State := allEngines.foldl clearEvents (dropAllRetained (enginesReset s))

theorem foldl_engines_eq {f : State → Engine → State} (hf : ∀ u e, ∃ engines, f u e = { u with engines := engines }) (es : List Engine)
    (s : State) : ∃ engines, es.foldl f s = { s with engines := engines } := by
  induction es generalizing s with
  | nil => exact ⟨s.engines, rfl⟩
  | cons e es ih =>
    obtain ⟨engines, hone⟩ := hf s e
    rw [List.foldl_cons, hone]
    exact ih _

theorem enginesCleared_frame (s : State) : ∃ engines, enginesCleared s = { enginesReset s with engines := engines } := by
  obtain ⟨dropped, hdrop⟩ := foldl_engines_eq (f := dropRetained) (fun _ _ => ⟨_, rfl⟩) allEngines (enginesReset s)
  rw [enginesCleared, dropAllRetained, hdrop]
  exact foldl_engines_eq (fun _ _ => ⟨_, rfl⟩) _ _

theorem flr_eq (s : State) :
    flr s = advanceDraws { enginesCleared s with
      regs := resetRegs (enginesCleared s), priorRegs := [], pci := resetPci (enginesCleared s).pci, contextCache := []
      hdc := HdcPort.reset, texMark := (enginesCleared s).history.length, icMark := (enginesCleared s).history.length
      walk := WalkLatch.reset, trWalk := .none } 604 := rfl

/-- What a device reset does to an engine after its own reset. -/
theorem engineOf_flr (s : State) (e : Engine) :
    engineOf (flr s) e = { engineOf (enginesReset s) e with
      invMark := (enginesReset s).history.length, scopeMarks := [], faulted := [], events := [], pasidCache := none } := by
  have hclear : ∀ u, engineOf (allEngines.foldl clearEvents u) e = { engineOf u e with events := [], pasidCache := none } := by
    intro u
    cases e <;> rfl
  have hdrop : ∀ u, engineOf (dropAllRetained u) e = { engineOf u e with invMark := u.history.length, scopeMarks := [], faulted := [] } := by
    intro u
    cases e <;> rfl
  have hflr : engineOf (flr s) e = engineOf (enginesCleared s) e := by
    rw [flr_eq]
    generalize enginesCleared s = u
    exact engineOf_congr rfl e
  rw [hflr, enginesCleared, hclear, hdrop]

/-- Beside the engines a device reset sets the registers, the caches and the HDC port to their defaults, and keeps the rest (R872). -/
theorem flr_frame (s : State) :
    ∃ engines u texMark icMark draws, flr s = { enginesReset s with
      engines := engines, regs := resetRegs u, priorRegs := [], pci := resetPci (enginesReset s).pci, contextCache := []
      hdc := HdcPort.reset, texMark := texMark, icMark := icMark, walk := WalkLatch.reset, trWalk := .none, draws := draws } := by
  obtain ⟨engines, hframe⟩ := enginesCleared_frame s
  have hflr := flr_eq s
  rw [hframe] at hflr
  exact ⟨_, _, _, _, _, hflr⟩

/-- Bits 13:0 of the first 32 entries of every memory-interface control block are the printed defaults (R53). -/
theorem resetRegs_gamMocs (u : State) {b i : Nat} (hb : b < 8) (hi : i < 32) :
    ((resetRegs u).gamMocs.getD (64 * b + i) 0).extractLsb' 0 14 = (gamMocsPeriod.getD (i % 16) 0).extractLsb' 0 14 := by
  have hentry : (resetRegs u).gamMocs.getD (64 * b + i) 0 = freeMocs u 92 (64 * b + i) := by
    simp [resetRegs, List.getD_eq_getElem?_getD, show 64 * b + i < 512 by omega]
  rw [hentry, freeMocs, if_pos (by omega), show (64 * b + i) % 16 = i % 16 by omega]
  generalize gamMocsPeriod.getD (i % 16) 0 = default
  generalize freeWordAt u (92 + (64 * b + i)) = w
  have hlow : ∀ j, j < 14 → (0x3FFF : Word).getLsbD j = true ∧ (0xFFFFC000 : Word).getLsbD j = false := by decide
  apply BitVec.eq_of_getLsbD_eq
  intro j hj
  rw [BitVec.getLsbD_extractLsb', BitVec.getLsbD_extractLsb', BitVec.getLsbD_or, BitVec.getLsbD_and, BitVec.getLsbD_and, Nat.zero_add,
    (hlow j hj).1, (hlow j hj).2]
  simp

/-- A device reset that a page request at the MMIO registers blocks is only marked as waiting (R871, R872). -/
theorem deviceReset_held {s : State} {rest : List Input} (hin : s.inputs = .op .flr :: rest) (hheld : ∃ e, (engineOf s e).mmioRequests ≠ []) :
    ∃ t, step s = .next t ∧ (∀ e, engineOf t e = { engineOf s e with resetting := true }) ∧
      t = { s with inputs := rest, engines := t.engines, flrPending := true } := by
  have hengines : ∀ e, engineOf (popInput s rest) e = engineOf s e := engineOf_popInput s rest
  obtain ⟨hengine, hframe⟩ := requestFlr_held (s := popInput s rest) (by simpa only [hengines] using hheld)
  simp only [hengines] at hengine
  exact ⟨_, step_flr hin, hengine, hframe⟩

/-! ### If no discarded request happens -/

/-- If every choice is that a discarded request did not happen, settling the requests only draws. -/
theorem settle_of_choices_even (heven : ∀ n, Config.choice n % 2 = 0) (rs : List Request) (s : State) :
    ∃ draws, settle rs s = { s with draws := draws } := by
  induction rs generalizing s with
  | nil => exact ⟨s.draws, rfl⟩
  | cons r rs ih =>
    obtain ⟨draws, hrest⟩ := ih (advanceDraws s 1)
    refine ⟨draws, ?_⟩
    rw [settle, show choiceAt s 0 % 2 = 0 from heven _, if_pos rfl, hrest]
    rfl

/-- The engine is as a reset leaves it, of a device whose reset waits or not (R871, R833). -/
def AfterReset (pending : Bool) (x : EngineSt) : Prop :=
  x.resetting = pending ∧ x.mode = .idle ∧ x.ctx = none ∧ x.phase = .quiet ∧ x.miss = none ∧ x.outstanding = [] ∧ x.stalled = [] ∧
    x.behind = []

/-- The counters once the PASIDs of some engines' contexts are counted out (R35). -/
def countedOut (s : State) (es : List Engine) (counts : List PasidCount) : List PasidCount :=
  es.foldl (fun l e => if runsAdvanced (engineOf s e) then addPasidCount (pasidOf (engineOf s e)) (-1) l else l) counts

/-- What one engine reset leaves, if its requests did not happen. -/
theorem engineReset_of_choices_even (heven : ∀ n, Config.choice n % 2 = 0) (s : State) (e : Engine) :
    AfterReset s.flrPending (engineOf (engineReset s e) e) ∧ (∀ e', e' ≠ e → engineOf (engineReset s e) e' = engineOf s e') ∧
      ∃ engines detached hdc inputs draws, engineReset s e = { s with
        engines := engines, detached := detached, hdc := hdc, inputs := inputs, draws := draws
        pasidCounts := countedOut s [e] s.pasidCounts } := by
  obtain ⟨draws, hsettle⟩ := settle_of_choices_even heven (inFlight s e) s
  refine ⟨?_, fun e' he => ?_, ?_⟩
  · obtain ⟨regs, gam, cs, hself⟩ := engineOf_engineReset_same s e
    rw [hself, hsettle]
    exact ⟨rfl, rfl, rfl, rfl, rfl, rfl, rfl, rfl⟩
  · rw [engineOf_engineReset_other s he, hsettle]
    exact engineOf_congr rfl e'
  · obtain ⟨engines, detached, hdc, inputs, draws', hframe⟩ := engineReset_frame s e
    refine ⟨engines, detached, hdc, inputs, draws', ?_⟩
    rw [hframe, afterDiscard, hsettle, countedOut, List.foldl_cons, List.foldl_nil]
    split <;> rfl

/-- What the resets of several engines leave, if their requests did not happen. -/
theorem foldl_engineReset_of_choices_even (heven : ∀ n, Config.choice n % 2 = 0) {es : List Engine} (hes : es.Nodup) (s : State) :
    (∀ e ∈ es, AfterReset s.flrPending (engineOf (es.foldl engineReset s) e)) ∧
      (∀ e, e ∉ es → engineOf (es.foldl engineReset s) e = engineOf s e) ∧
      ∃ engines detached hdc inputs draws, es.foldl engineReset s = { s with
        engines := engines, detached := detached, hdc := hdc, inputs := inputs, draws := draws
        pasidCounts := countedOut s es s.pasidCounts } := by
  induction es generalizing s with
  | nil => exact ⟨by simp, fun _ _ => rfl, _, _, _, _, _, rfl⟩
  | cons e es ih =>
    obtain ⟨hnot, hes⟩ := List.nodup_cons.1 hes
    obtain ⟨hself, hothers, engines, detached, hdc, inputs, draws, hone⟩ := engineReset_of_choices_even heven s e
    obtain ⟨hin, hout, engines', detached', hdc', inputs', draws', hrest⟩ := ih hes (engineReset s e)
    have hcounts : countedOut (engineReset s e) es (countedOut s [e] s.pasidCounts) = countedOut s (e :: es) s.pasidCounts := by
      refine List.foldl_ext _ _ _ fun counts e' he' => ?_
      rw [hothers e' (fun h => hnot (h ▸ he'))]
    rw [List.foldl_cons]
    refine ⟨fun e' he' => ?_, fun e' he' => ?_, engines', detached', hdc', inputs', draws', ?_⟩
    · rcases List.mem_cons.1 he' with rfl | he'
      · rw [hout _ hnot]
        exact hself
      · have h := hin e' he'
        rw [hone] at h ⊢
        exact h
    · rw [List.mem_cons, not_or] at he'
      rw [hout _ he'.2, hothers _ he'.1]
    · rw [← hcounts]
      generalize engineReset s e = u at hone hrest ⊢
      rw [hrest, hone]

/-- If every choice is that a discarded request did not happen, O13 holds. -/
theorem deviceResetLeaves_of_choices_even (heven : ∀ n, Config.choice n % 2 = 0) : Obligations.DeviceResetLeaves := by
  unfold Obligations.DeviceResetLeaves
  intro s rest hin
  refine ⟨deviceReset_held hin, fun hfree => ?_⟩
  have hengines : ∀ e, engineOf (popInput s rest) e = engineOf s e := engineOf_popInput s rest
  have hall : ∀ e, e ∈ allEngines := by intro e; cases e <;> decide
  obtain ⟨hreset, -, engines, detached, hdc, inputs, draws, hresets⟩ :=
    foldl_engineReset_of_choices_even heven (es := allEngines) (by decide) { popInput s rest with flrPending := false }
  have hengine := engineOf_flr (popInput s rest)
  obtain ⟨engines', u, texMark, icMark, draws', hframe⟩ := flr_frame (popInput s rest)
  have hstep := step_flr hin
  rw [requestFlr_free (by simpa only [hengines] using hfree)] at hstep
  change enginesReset (popInput s rest) = _ at hresets
  change ∀ e ∈ allEngines, AfterReset false (engineOf (enginesReset (popInput s rest)) e) at hreset
  generalize enginesReset (popInput s rest) = v at hresets hreset hengine hframe
  generalize flr (popInput s rest) = t at hstep hengine hframe
  refine ⟨t, hstep, by rw [hframe, hresets], fun e => ?_, ?_⟩
  · obtain ⟨hresetting, hmode, hctx, hphase, hmiss, houtstanding, hstalled, hbehind⟩ := hreset e (hall e)
    have hretained : nothingRetained t e = true := by
      rw [nothingRetained, hengine, hframe]
      exact decide_eq_true (Nat.le_refl _)
    refine ⟨?_, ?_, ?_, ?_, ?_, ?_, ?_, ?_, ?_, ?_, hretained⟩ <;> rw [hengine e]
    all_goals assumption
  · have hcounts : v.pasidCounts = countedOut (popInput s rest) allEngines s.pasidCounts := by rw [hresets]; rfl
    have hmem : v.mem = s.mem := by rw [hresets]; rfl
    have hiommu : v.iommu = s.iommu := by rw [hresets]; rfl
    have hrequests : v.pageRequests = s.pageRequests := by rw [hresets]; rfl
    rw [hframe]
    refine ⟨rfl, hcounts, rfl, rfl, rfl, rfl, rfl, ?_, rfl, fun b i hb hi => resetRegs_gamMocs u hb hi, rfl, rfl, rfl, rfl, rfl, hiommu,
      hrequests, fun _ b => congrArg (memRead · b) hmem⟩
    simp [resetRegs, bit]

/-! ### If a discarded request may happen -/

/-- A read of the render engine through the Global GTT. -/
def strayRequest : Request :=
  ownRequest State.reset ⟨.rcs, .renderCache, .read, false, false, false, false, false, true, 0, 3, 0, 0⟩ (descUnder .ggtt 0)

/-- A machine with that request among the stalled ones of another engine, before its `n`-th draw. -/
def strayed (n : Nat) : State :=
  { State.reset with draws := n, engines := { Engines.reset with vcs0 := { EngineSt.reset with stalled := [strayRequest] } } }

/-- A discarded request of one page that faults, if it happened, stalls at its engine. -/
theorem serveNow_discard_fault {s t : State} {r : Request} {code : BitVec 2} {level : Nat} (hb : Bare s r)
    (h0 : reservedPfm s r = false) (h1 : inOnePage r.acc = true) (h2 : trttOn s = false)
    (h3 : translate s r r.acc.va (r.acc.kind != .read) false = .ok (.fault code level, t)) :
    serveNow s r false .discard = .ok (stall t r .waiting) := by
  rw [serveNow_current _ _ hb.current]
  simp [serveHere, goesOn, h0, allPieces_one hb h1 h2 h3, resolvedOf, firstStop, conclude, onFault, bind, Except.bind]

/-- The Global GTT of a machine with empty memory maps nothing: the stray request faults. -/
theorem serveNow_stray {u : State} (hparams : u.params = Params.reset) (hmem : u.mem = []) (hhistory : u.history = [])
    (hprior : u.priorRegs = []) (hregs : u.regs = Regs.reset) :
    serveNow u strayRequest false .discard = .ok (stall (advanceDraws (advanceDraws u 8) 8) strayRequest .waiting) := by
  have hwalk : ∀ n fresh, walkOnce (advanceDraws u n) strayRequest strayRequest.acc.va false fresh = .ok (.fault 1 1, advanceDraws u n) := by
    intro n fresh
    have hslot : ggttSlot (advanceDraws u n) strayRequest.acc.va = ggttSlot State.reset strayRequest.acc.va := by
      rw [ggttSlot, advanceDraws_params, hparams]
      rfl
    have hrequest : requestUnder (advanceDraws u n) .ggtt 0 strayRequest.acc = strayRequest := by
      rw [requestUnder, ownRequest, advanceDraws_priorRegs, hprior]
      rfl
    have habsent := walkOnce_ggtt_absent (s := advanceDraws u n) (d := 0) (a := strayRequest.acc) false fresh ?_ ?_ ?_ ?_
    · rwa [hrequest] at habsent
    · rw [nothingRetained, advanceDraws_history, hhistory]
      rfl
    · rw [advanceDraws_params, hparams]
      decide
    · rw [hslot, physExists, advanceDraws_params, hparams]
      decide
    · rw [hslot, mem64, advanceDraws_mem, hmem]
      decide
  refine serveNow_discard_fault ⟨rfl, rfl, ?_⟩ rfl (by decide) ?_ (translate_fault hwalk)
  · rw [hprior]
    exact Nat.zero_le _
  · rw [trttOn, hregs]
    decide

/-- The inputs of an engine reset are those that the discarded requests leave, without the engine's own requests. -/
theorem engineReset_inputs (s : State) (e : Engine) :
    (engineReset s e).inputs = (settle (inFlight s e) s).inputs.filter fun i => (resumes e i).isNone := by
  have hinputs : (engineReset s e).inputs = (afterDiscard s e).inputs.filter fun i => (resumes e i).isNone := rfl
  rw [hinputs, afterDiscard_eq]

/-- With no input and none of their requests in flight the resets of engines leave the others alone. -/
theorem foldl_engineReset_idle {es : List Engine} {e : Engine} (he : e ∉ es) {s : State} (hinputs : s.inputs = [])
    (hidle : ∀ e' ∈ es, (engineOf s e').behind = [] ∧ (engineOf s e').stalled = []) :
    engineOf (es.foldl engineReset s) e = engineOf s e := by
  induction es generalizing s with
  | nil => rfl
  | cons e' es ih =>
    obtain ⟨hbehind, hstalled⟩ := hidle e' (by simp)
    have hnone : inFlight s e' = [] := by simp [inFlight, hbehind, hstalled, hinputs]
    have hothers : ∀ x, x ≠ e' → engineOf (engineReset s e') x = engineOf s x := by
      intro x hx
      rw [engineOf_engineReset_other s hx, hnone, settle_nil]
    have hinputs' : (engineReset s e').inputs = [] := by
      rw [engineReset_inputs, hnone, settle_nil, hinputs, List.filter_nil]
    rw [List.mem_cons, not_or] at he
    rw [List.foldl_cons, ih he.2 hinputs' fun x hx => ?_, hothers e he.1]
    by_cases h : x = e'
    · obtain ⟨regs, gam, cs, hself⟩ := engineOf_engineReset_same s e'
      rw [h, hself]
      exact ⟨rfl, rfl⟩
    · rw [hothers x h]
      exact hidle x (List.mem_cons_of_mem _ hx)

/-- The first engine reset finds nothing to discard, and draws seven times. -/
theorem engineReset_strayed (n : Nat) :
    ∃ u, u = engineReset (strayed n) .rcs ∧ u.draws = n + 7 ∧ u.inputs = [] ∧ (∀ e, e ≠ .rcs → engineOf u e = engineOf (strayed n) e) ∧
      u.params = Params.reset ∧ u.mem = [] ∧ u.history = [] ∧ u.priorRegs = [] ∧ u.regs = Regs.reset := by
  obtain ⟨engines, detached, hdc, inputs, draws, hframe⟩ := engineReset_frame (strayed n) .rcs
  have hnone : inFlight (strayed n) .rcs = [] := rfl
  rw [afterDiscard_idle hnone] at hframe
  refine ⟨_, rfl, rfl, ?_, fun e he => ?_, ?_⟩
  · rw [engineReset_inputs, hnone]
    rfl
  · rw [engineOf_engineReset_other _ he, hnone, settle_nil]
  · rw [hframe]
    exact ⟨rfl, rfl, rfl, rfl, rfl⟩

/-- The second discards the stray request: if that happened, it faults and stalls at the render engine. -/
theorem settle_strayed {n : Nat} (hodd : Config.choice (n + 7) % 2 ≠ 0) {u : State} (hu : u = engineReset (strayed n) .rcs) :
    ∃ draws, settle (inFlight u .vcs0) u = stall (advanceDraws u draws) strayRequest .waiting := by
  obtain ⟨_, rfl, hdraws, hinputs, hothers, hparams, hmem, hhistory, hprior, hregs⟩ := engineReset_strayed n
  rw [← hu] at hdraws hinputs hothers hparams hmem hhistory hprior hregs
  have hinFlight : inFlight u .vcs0 = [strayRequest] := by
    rw [inFlight, hothers .vcs0 (by decide), hinputs]
    rfl
  have hchoice : ¬ choiceAt u 0 % 2 = 0 := by
    rw [choiceAt, hdraws]
    exact hodd
  refine ⟨17, ?_⟩
  rw [hinFlight, settle, if_neg hchoice, serveNow_stray (u := advanceDraws u 1) hparams hmem hhistory hprior hregs]
  rfl

/-- So the device reset leaves it there. -/
theorem flr_strayed {n : Nat} (hodd : Config.choice (n + 7) % 2 ≠ 0) :
    strayRequest ∈ (engineOf (flr (strayed n)) .rcs).stalled := by
  obtain ⟨u, hu, -, hinputs, hothers, -⟩ := engineReset_strayed n
  obtain ⟨draws, hsettle⟩ := settle_strayed hodd hu
  have hresets : enginesReset (strayed n) = [.vcs1, .vecs, .bcs].foldl engineReset (engineReset u .vcs0) := by
    rw [hu]
    rfl
  have hafter : ∀ e, e ≠ .vcs0 → engineOf (engineReset u .vcs0) e = engineOf (stall (advanceDraws u draws) strayRequest .waiting) e := by
    intro e he
    rw [engineOf_engineReset_other u he, hsettle]
  have hidle : ∀ e ∈ [Engine.vcs1, .vecs, .bcs],
      (engineOf (engineReset u .vcs0) e).behind = [] ∧ (engineOf (engineReset u .vcs0) e).stalled = [] := by
    intro e he
    have hne : e ≠ .vcs0 ∧ e ≠ .rcs := by
      revert e
      decide
    have hstray : ¬ e = strayRequest.acc.eng := hne.2
    rw [hafter e hne.1, engineOf_stall, if_neg hstray, engineOf_advanceDraws, hothers e hne.2]
    simp only [List.mem_cons, List.not_mem_nil, or_false] at he
    rcases he with rfl | rfl | rfl <;> exact ⟨rfl, rfl⟩
  have hnone : (engineReset u .vcs0).inputs = [] := by
    rw [engineReset_inputs, hsettle, stall_inputs, advanceDraws_inputs, hinputs, List.filter_nil]
  rw [engineOf_flr, hresets, foldl_engineReset_idle (by decide) hnone hidle, hafter .rcs (by decide), engineOf_stall,
    if_pos (show Engine.rcs = strayRequest.acc.eng from rfl)]
  exact List.mem_append_right _ List.mem_cons_self

/-- If a choice from the eighth on is that a discarded request happened, O13 fails: the stray request stalls at the render engine, which was
reset before the engine that kept it. -/
theorem not_deviceResetLeaves_of_choice_odd {n : Nat} (hodd : Config.choice (n + 7) % 2 ≠ 0) : ¬ Obligations.DeviceResetLeaves := by
  unfold Obligations.DeviceResetLeaves
  intro h
  obtain ⟨-, hleaves⟩ := h { strayed n with inputs := [.op .flr] } [] rfl
  obtain ⟨t, hstep, -, hengines, -⟩ := hleaves fun e => by cases e <;> rfl
  obtain ⟨-, -, -, -, -, -, hstalled, -⟩ := hengines .rcs
  have hfree : requestFlr (strayed n) = flr (strayed n) := requestFlr_free fun e => by cases e <;> rfl
  have hnext : step { strayed n with inputs := [.op .flr] } = .next (requestFlr (strayed n)) := step_flr rfl
  rw [hnext, hfree] at hstep
  have hstray := flr_strayed hodd
  rw [Host.Outcome.next.inj hstep, hstalled] at hstray
  cases hstray

end Sys2Proof.Machine
